-- ==== Sys2Proof/Word.lean ====
section
/-! DEFINITION. The word types of the Zetus and nothing else: bytes and 32-bit parcels (R1, R3). -/

namespace Sys2Proof

/-- A byte, the unit of memory (R3). -/
abbrev Byte := BitVec 8

/-- A 32-bit word: a parcel of an instruction (R47) and the width of a g, o or k register (R77, R101). -/
abbrev Word := BitVec 32

end Sys2Proof
end

