-- ==== Sys2Proof/Config.lean ====
section
/-! DEFINITION. What the manual leaves open, as constants without a body (free choices and free values), and what the
device's one-time-programmable memory fixes. -/

namespace Sys2Proof.Config
open Sys2Proof

/-- A free choice: an index below `n + 1`, taken for the `k`-th choice of a run (R2: the manual fixes no latency, so no
order of independent events; R213: it fixes no replacement). -/
opaque choose (k n : Nat) : Nat

/-- What orders the lines of an aligned group of 48 among its slices: a function of address bits [51:7], the same on every die
(R211). -/
opaque sliceHash (line : Nat) : Nat

/-- What orders the chunks of device memory of an aligned group of 8 among the HBM stacks (R8: no rule gives the interleaving). -/
opaque stackHash (chunk : Nat) : Nat

/-- The size of such a chunk: 2 to this power lines. -/
opaque stackChunk : Nat

/-- Which of the values within the bound of R138 a special function returns for an input: function number, input bits,
number of values less one. -/
opaque functionChoice (fn bits n : Nat) : Nat

/-- Bytes that a memory outside the device answers with where no event carries them: a free value (R235). -/
opaque outsideByte (k i : Nat) : Byte

/-- What the 64 bits of a poisoned accumulator hold in a saved image: it has no value (R40, R203). -/
opaque poisonWord (k i : Nat) : Nat

/-- The bytes of a context's slate area beyond the 8 MiB of a die, for which no rule gives a register (R282). -/
opaque slateArea (ctx : Nat) : Nat

/-- The staging slots that the staging memory and a context's staging area hold (R260). -/
opaque stageRoom (ctx : Nat) : Nat

/-- The port that carries the messages about a line, of those that a route allows: a hash of the line address (R373). -/
opaque portHash (line : Nat) : Nat

/-- Which primitive polynomial makes GF(2^8) (R371: no rule names one): a place in the list of the 16. -/
opaque fecField : Nat

/-- The exponent of the first root of the Reed–Solomon code's generator (R371: no rule names it). -/
opaque fecRoot : Nat

/-- The bytes of a message in a flit's payload, by a number of the message (R370, R373: no rule gives the format). -/
opaque messageBytes (code : List Nat) : List Byte

/-- The incarnation that this device puts in its flits (R370, R379): the agents that fenced it count it. -/
opaque incarnation : Nat

/-- Whether a vote's signature of a digest verifies under a quorum peer's key (R382: no rule names the scheme). -/
opaque voteVerifies (key digest signature : Nat) : Bool

/-- The device's private key, less one (R389: derived from an entropy source; unreadable). -/
opaque privateKey : Nat

/-- The per-message secret of an ECDSA signature, less one, at the k-th try (R389: the scheme takes it at random). -/
opaque signSecret (bytes : List Byte) (k : Nat) : Nat

/-- The device's serial number (R389). -/
opaque serial : Nat

/-- The bytes of the boot ROM (R389). -/
opaque romBytes : List Byte

/-- The bytes of the vendor's public key in fuses (R386, R394). -/
opaque vendorKey : List Byte

/-- The policy list in OTP: the agents that the command processor's traffic may go to (R390). -/
opaque policyAllows (agent : Nat) : Bool

/-- The debug-enable fuse (R394). -/
opaque debugFuse : Bool

/-- The size P of the fabric manager's quorum, fixed at provisioning (R382, R390). -/
opaque quorum : Nat

/-- The keys of the quorum's peers (R382, R390). -/
opaque quorumKey (peer : Nat) : Nat

end Sys2Proof.Config
end

