-- ==== Sys2Proof/Machine/Bits.lean ====
section
/-! DEFINITION. Bit fields, sign extension and byte order, and small list helpers that every other file uses. -/

namespace Sys2Proof.Machine
open Sys2Proof

/-- Bits `[lo + n - 1 : lo]` of `x`. -/
def bitsOf (x lo n : Nat) : Nat := x / 2 ^ lo % 2 ^ n

/-- Bit `i` of `x`. -/
def bitAt (x i : Nat) : Bool := x.testBit i

/-- One bit as a number. -/
def ofBool (b : Bool) : Nat := if b then 1 else 0

/-- `x` with bits `[lo + n - 1 : lo]` replaced by the low `n` bits of `v`. -/
def setBits (x lo n v : Nat) : Nat :=
  x - bitsOf x lo n * 2 ^ lo + v % 2 ^ n * 2 ^ lo

/-- The low `n` bits of `x` read as two's complement (R18). -/
def sext (x n : Nat) : Int :=
  let y := x % 2 ^ n
  if n = 0 then 0 else if y < 2 ^ (n - 1) then (y : Int) else (y : Int) - (2 : Int) ^ n

/-- An integer modulo 2^n, as the bits of an n-bit field (R20). -/
def wrapInt (x : Int) (n : Nat) : Nat := (x % ((2 : Int) ^ n)).toNat

/-- The smallest and the largest value of a signed n-bit type (R18). -/
def intMin (n : Nat) : Int := -((2 : Int) ^ (n - 1))
/-- The largest value of a signed n-bit type (R18). -/
def intMax (n : Nat) : Int := (2 : Int) ^ (n - 1) - 1

/-- `x` moved into the closed range from `lo` to `hi`. -/
def clampInt (x lo hi : Int) : Int := if x < lo then lo else if hi < x then hi else x

/-- Element `k` of `n` bits of a packed value (R19). -/
def elemAt (x n k : Nat) : Nat := bitsOf x (n * k) n

/-- The packed value whose elements of `n` bits are `es`, element 0 lowest (R19). -/
def packElems (n : Nat) (es : List Nat) : Nat :=
  es.foldr (fun e acc => acc * 2 ^ n + e % 2 ^ n) 0

/-- The `k` elements of `n` bits of a packed value, element 0 first (R19). -/
def unpackElems (x n k : Nat) : List Nat := (List.range k).map (elemAt x n)

/-- The number of set bits among the low `n` bits of `x`. -/
def popcount (x n : Nat) : Nat := ((List.range n).filter (bitAt x)).length

/-- The bytes of an `n`-byte little-endian value, lowest address first (R3). -/
def toBytes (x n : Nat) : List Byte := (List.range n).map fun i => BitVec.ofNat 8 (x / 2 ^ (8 * i))

/-- The value of little-endian bytes, lowest address first (R3). -/
def fromBytes (bs : List Byte) : Nat := bs.foldr (fun b acc => acc * 256 + b.toNat) 0

/-- The lane mask of a list of lanes: bit L for lane L (R120). -/
def laneMask (ls : List Nat) : Nat := ls.foldl (fun m l => m ||| 2 ^ l) 0

/-- The lanes of a mask in ascending order. -/
def lanesOf (m : Nat) : List Nat := (List.range 32).filter (bitAt m)

/-- `x` rounded up to a multiple of `k`. -/
def roundUp (x k : Nat) : Nat := (x + k - 1) / k * k

/-- The index of the first element that meets `p`. -/
def findIdxOf {α : Type} (p : α → Bool) (xs : List α) : Option Nat :=
  match xs with
  | [] => none
  | x :: r => if p x then some 0 else (findIdxOf p r).map (· + 1)

/-- Every element that meets `p` changed by `f`. -/
def mapWhere {α : Type} (p : α → Bool) (f : α → α) (xs : List α) : List α :=
  xs.map fun x => if p x then f x else x

/-- Element `i` of a list changed by `f`. -/
def updAt {α : Type} (xs : List α) (i : Nat) (f : α → α) : List α :=
  match xs, i with
  | [], _ => []
  | x :: r, 0 => f x :: r
  | x :: r, i + 1 => x :: updAt r i f

/-- A table by rising key with one entry replaced, or added. -/
def putKey {α : Type} (t : List (Nat × α)) (k : Nat) (v : α) : List (Nat × α) :=
  match t with
  | [] => [(k, v)]
  | (i, x) :: r => if i = k then (k, v) :: r else if k < i then (k, v) :: (i, x) :: r else (i, x) :: putKey r k v

/-- The element with the least key, the first of those that tie. -/
def leastBy {α : Type} (key : α → Nat) (xs : List α) : Option α :=
  xs.foldl (fun best x => match best with
    | none => some x
    | some y => if key x < key y then some x else some y) none

/-- A list in ascending order of a key; elements with one key keep their order. -/
def sortBy {α : Type} (key : α → Nat) (xs : List α) : List α :=
  xs.foldr (fun x acc => acc.takeWhile (fun y => key y < key x) ++ x :: acc.dropWhile (fun y => key y < key x)) []

end Sys2Proof.Machine
end

