-- ==== Sys2Proof/Syntax.lean ====
section
/-! DEFINITION. The instructions and events of the opcode table as syntax. -/

namespace Sys2Proof

/-- What stands behind the second parcel (R51): nothing (64-bit form), a literal, or sweep control (R63). -/
inductive Ext where
  /-- The 64-bit form. -/
  | none
  /-- The literal form: C holds 0x1FF and the third parcel is the literal. -/
  | lit (v : Word)
  /-- The sweep form: the iteration count and the signed steps of D, A and B. -/
  | sweep (cnt : BitVec 12) (sd sa sb : BitVec 6)
deriving DecidableEq, Repr

/-- The fields of a 64-bit or 96-bit instruction but its opcode (R48, R49). -/
structure Fields where
  /-- Guard predicate p0 to p7. -/
  gp : BitVec 3
  /-- Guard negate. -/
  gn : Bool
  /-- Destination code. -/
  d : BitVec 9
  /-- Source A code. -/
  a : BitVec 9
  /-- Source B code. -/
  b : BitVec 9
  /-- Source C code. -/
  c : BitVec 9
  /-- Function code. -/
  fn : BitVec 4
  /-- Modifier bits. -/
  mod : BitVec 4
  /-- Write-back suppress (R61). -/
  wbs : Bool
  /-- Stall count (R62). -/
  stall : BitVec 3
  /-- Yield hint (R62). -/
  yld : Bool
  /-- Hold hint (R62). -/
  hold : Bool
  /-- Third parcel. -/
  ext : Ext
deriving DecidableEq, Repr

/-- The fields of a 32-bit instruction but its opcode (R48, R50). -/
structure ShortFields where
  /-- Guard predicate p0 to p7. -/
  gp : BitVec 3
  /-- Guard negate. -/
  gn : Bool
  /-- Destination code. -/
  d : BitVec 9
  /-- Source A code. -/
  a : BitVec 9
deriving DecidableEq, Repr

/-- The answer of a home outside the device to a request (R232, R235, R374). -/
inductive Answer where
  /-- Data of a read, the old value of an atomic, or the acknowledgement of a write. -/
  | data (v : Nat)
  /-- "Waking": the timer restarts once. -/
  | waking
  /-- The root port does not support the AtomicOp. -/
  | unsupported
  /-- The data is marked uncorrectable. -/
  | poisoned
deriving DecidableEq, Repr

/-- What waits on a page fault: a lane of a block's crew, a copy, or a tile command (R355). -/
inductive Requester where
  | lane (uid crew l : Nat)
  | copy (id : Nat)
  | tile (id : Nat)
deriving DecidableEq, Repr


/-- A firmware image (R386): its bytes, its 32-bit version and its signature; no rule gives the layout. -/
structure FwImage where
  bytes : List Byte
  version : Nat
  signature : List Byte
deriving DecidableEq, Repr

/-- A peer's request to this device as its home (R374, R375), by offset in device memory. -/
inductive HomeOp where
  | read (off n : Nat)
  | write (off : Nat) (data : List Byte)
  /-- Operation and type of R238, operand and comparison value; the core and epoch of one that releases (R215). -/
  | atomic (off fn ty b d : Nat) (rel : Option (Nat × Nat))
  | publish (core epoch : Nat)
  /-- A staging write (R260): context, element, operation, type, source, value. -/
  | stage (ctx elem fn ty src val : Nat)
  /-- Ownership of a line (R212). -/
  | own (line : Nat)
deriving DecidableEq, Repr

/-- What the host does with memory: a read, a write of a number, or an atomic operation of R238 with the value it compares with. The number
written or operated with stands beside it. -/
inductive HostOp where
  | read
  | write
  | atomic (fn d : Nat)
deriving DecidableEq, Repr

/-- A line that the scrubber reads (R393): of memory or an L2, of a block's scratchpad, of a core's L1, or of a register file, by block, crew,
lane and register code. A tile store has an event of its own (R205). -/
inductive ScrubAt where
  | memory (line : Nat)
  | scratch (uid line : Nat)
  | l1 (core ctx vline : Nat)
  | register (uid crew lane code : Nat)
deriving DecidableEq, Repr

/-- What a scrub finds (R393). -/
inductive ScrubRes where
  | clean
  | correctable
  | uncorrectable
deriving DecidableEq, Repr

/-- The instructions and events of the opcode table, one constructor a row. An encoded instruction carries its
fields; an event carries what names the unit it happens to and the data that comes from outside. -/
inductive Instr where
  /-- IADD (R86). -/
  | iadd (w : Fields)
  /-- IADD_SHORT (R50). -/
  | iaddShort (f : ShortFields)
  /-- ISUB (R86). -/
  | isub (w : Fields)
  /-- ISUB_SHORT (R50). -/
  | isubShort (f : ShortFields)
  /-- IADDC (R89). -/
  | iaddc (w : Fields)
  /-- ISUBB (R89). -/
  | isubb (w : Fields)
  /-- IMUL (R86). -/
  | imul (w : Fields)
  /-- IMUL_SHORT (R50). -/
  | imulShort (f : ShortFields)
  /-- IMULH (R86). -/
  | imulh (w : Fields)
  /-- IMAD (R86). -/
  | imad (w : Fields)
  /-- IDIV (R88). -/
  | idiv (w : Fields)
  /-- IREM (R88). -/
  | irem (w : Fields)
  /-- IMIN (R86). -/
  | imin (w : Fields)
  /-- IMIN_SHORT (R50). -/
  | iminShort (f : ShortFields)
  /-- IMAX (R86). -/
  | imax (w : Fields)
  /-- IABS (R87). -/
  | iabs (w : Fields)
  /-- INEG (R87). -/
  | ineg (w : Fields)
  /-- ICMP (R90). -/
  | icmp (w : Fields)
  /-- SEL (R91). -/
  | sel (w : Fields)
  /-- AND (R92). -/
  | andOp (w : Fields)
  /-- AND_SHORT (R50). -/
  | andShort (f : ShortFields)
  /-- OR (R92). -/
  | orOp (w : Fields)
  /-- XOR (R92). -/
  | xorOp (w : Fields)
  /-- ANDN (R92). -/
  | andn (w : Fields)
  /-- ORN (R92). -/
  | orn (w : Fields)
  /-- SHL (R93). -/
  | shl (w : Fields)
  /-- SHL_SHORT (R50). -/
  | shlShort (f : ShortFields)
  /-- SHR (R93). -/
  | shr (w : Fields)
  /-- SAR (R93). -/
  | sar (w : Fields)
  /-- ROL (R93). -/
  | rol (w : Fields)
  /-- BFX (R94). -/
  | bfx (w : Fields)
  /-- BFXS (R94). -/
  | bfxs (w : Fields)
  /-- BFI (R95). -/
  | bfi (w : Fields)
  /-- CLZ (R96). -/
  | clz (w : Fields)
  /-- FFS (R96). -/
  | ffs (w : Fields)
  /-- POPC (R96). -/
  | popc (w : Fields)
  /-- BREV (R96). -/
  | brev (w : Fields)
  /-- PRMB (R97). -/
  | prmb (w : Fields)
  /-- LEA (R98). -/
  | lea (w : Fields)
  /-- MOV (R99). -/
  | mov (w : Fields)
  /-- MOV_SHORT (R50). -/
  | movShort (f : ShortFields)
  /-- MOVL (R99). -/
  | movl (w : Fields)
  /-- GETS (R82). -/
  | gets (w : Fields)
  /-- PAND (R100). -/
  | pand (w : Fields)
  /-- POR (R100). -/
  | por (w : Fields)
  /-- PXOR (R100). -/
  | pxor (w : Fields)
  /-- PNOT (R100). -/
  | pnot (w : Fields)
  /-- PMOV (R100). -/
  | pmov (w : Fields)
  /-- NOP (R109). -/
  | nop (w : Fields)
  /-- NOP_SHORT (R50). -/
  | nopShort (f : ShortFields)
  /-- BRA (R114). -/
  | bra (w : Fields)
  /-- BRX (R114). -/
  | brx (w : Fields)
  /-- CALL (R115). -/
  | call (w : Fields)
  /-- CALLX (R115). -/
  | callx (w : Fields)
  /-- RET (R115). -/
  | ret (w : Fields)
  /-- JSET (R117). -/
  | jset (w : Fields)
  /-- JCLR (R117). -/
  | jclr (w : Fields)
  /-- WAIT (R118). -/
  | wait (w : Fields)
  /-- BRK (R119). -/
  | brk (w : Fields)
  /-- EXIT (R116). -/
  | exit (w : Fields)
  /-- YIELD (R109). -/
  | yield (w : Fields)
  /-- VOTE (R121). -/
  | vote (w : Fields)
  /-- SHFL (R123). -/
  | shfl (w : Fields)
  /-- REDUX (R122). -/
  | redux (w : Fields)
  /-- SCANX (R122). -/
  | scanx (w : Fields)
  /-- MATCH (R124). -/
  | matchLanes (w : Fields)
  /-- ELECT (R125). -/
  | elect (w : Fields)
  /-- FADD (R131). -/
  | fadd (w : Fields)
  /-- FADD_SHORT (R50). -/
  | faddShort (f : ShortFields)
  /-- FSUB (R131). -/
  | fsub (w : Fields)
  /-- FMUL (R131). -/
  | fmul (w : Fields)
  /-- FMUL_SHORT (R50). -/
  | fmulShort (f : ShortFields)
  /-- FFMA (R131). -/
  | ffma (w : Fields)
  /-- FMIN (R132). -/
  | fmin (w : Fields)
  /-- FMIN_SHORT (R50). -/
  | fminShort (f : ShortFields)
  /-- FMAX (R132). -/
  | fmax (w : Fields)
  /-- FCMP (R133). -/
  | fcmp (w : Fields)
  /-- FCLASS (R134). -/
  | fclass (w : Fields)
  /-- FRND (R135). -/
  | frnd (w : Fields)
  /-- FEXP (R138). -/
  | fexp (w : Fields)
  /-- FLOG (R138). -/
  | flog (w : Fields)
  /-- FRCP (R138). -/
  | frcp (w : Fields)
  /-- FRSQ (R138). -/
  | frsq (w : Fields)
  /-- FSQRT (R139). -/
  | fsqrt (w : Fields)
  /-- FDIV (R139). -/
  | fdiv (w : Fields)
  /-- FSIN (R138). -/
  | fsin (w : Fields)
  /-- FCOS (R138). -/
  | fcos (w : Fields)
  /-- EXPINS (R136). -/
  | expins (w : Fields)
  /-- EXPEXT (R137). -/
  | expext (w : Fields)
  /-- CVT (R141). -/
  | cvt (w : Fields)
  /-- CVQ (R143). -/
  | cvq (w : Fields)
  /-- CVD (R145). -/
  | cvd (w : Fields)
  /-- HADQ (R146). -/
  | hadq (w : Fields)
  /-- CVRN (R147). -/
  | cvrn (w : Fields)
  /-- RAND (R148). -/
  | rand (w : Fields)
  /-- RKEY (R149). -/
  | rkey (w : Fields)
  /-- RAGW (R150). -/
  | ragw (w : Fields)
  /-- SEGRED (R151). -/
  | segred (w : Fields)
  /-- RGRP (R152). -/
  | rgrp (w : Fields)
  /-- VXWALK (R154). -/
  | vxwalk (w : Fields)
  /-- FRONT (R155). -/
  | front (w : Fields)
  /-- QLD (R166). -/
  | qld (w : Fields)
  /-- QLDD (R166). -/
  | qldd (w : Fields)
  /-- QMOV (R168). -/
  | qmov (w : Fields)
  /-- QADD (R167). -/
  | qadd (w : Fields)
  /-- QSUB (R167). -/
  | qsub (w : Fields)
  /-- QMUL (R167). -/
  | qmul (w : Fields)
  /-- QFMA (R167). -/
  | qfma (w : Fields)
  /-- QDIV (R167). -/
  | qdiv (w : Fields)
  /-- QSQRT (R167). -/
  | qsqrt (w : Fields)
  /-- QNEG (R167). -/
  | qneg (w : Fields)
  /-- QABS (R167). -/
  | qabs (w : Fields)
  /-- QCMP (R170). -/
  | qcmp (w : Fields)
  /-- QMID (R168). -/
  | qmid (w : Fields)
  /-- QBND (R168). -/
  | qbnd (w : Fields)
  /-- QREF (R176). -/
  | qref (w : Fields)
  /-- QCUT (R177). -/
  | qcut (w : Fields)
  /-- QCUTX (R178). -/
  | qcutx (w : Fields)
  /-- QFREE (R168). -/
  | qfree (w : Fields)
  /-- QSTAT (R169). -/
  | qstat (w : Fields)
  /-- REEL_SWEEP (R165). -/
  | reelSweep (uid : Nat)
  /-- RETAKE_REQUEST_DONE (R172). -/
  | retakeRequestDone (id : Nat)
  /-- LD (R236). -/
  | ld (w : Fields)
  /-- ST (R236). -/
  | st (w : Fields)
  /-- LDA (R236). -/
  | lda (w : Fields)
  /-- STL (R236). -/
  | stl (w : Fields)
  /-- LDS (R236). -/
  | lds (w : Fields)
  /-- STS (R236). -/
  | sts (w : Fields)
  /-- LDV (R237). -/
  | ldv (w : Fields)
  /-- STV (R237). -/
  | stv (w : Fields)
  /-- ATOM (R238). -/
  | atom (w : Fields)
  /-- RED (R239). -/
  | red (w : Fields)
  /-- FENCE (R240). -/
  | fence (w : Fields)
  /-- WBACK (R241). -/
  | wback (w : Fields)
  /-- ICINV (R242). -/
  | icinv (w : Fields)
  /-- FETCHB (R243). -/
  | fetchb (w : Fields)
  /-- PREF (R244). -/
  | pref (w : Fields)
  /-- MEMORY_RESPONSE (R236). -/
  | memoryResponse (id : Nat) (elem : Nat) (ans : Answer)
  /-- PUBLISH (R216). -/
  | publish (core : Nat) (epoch : Nat)
  /-- SNOOP_READ (R212). -/
  | snoopRead (die : Nat) (line : Nat) (who : Nat)
  /-- SNOOP_INVALIDATE (R212). -/
  | snoopInvalidate (die : Nat) (line : Nat) (who : Nat)
  /-- SNOOP_OWN (R212). -/
  | snoopOwn (die : Nat) (line : Nat) (who : Nat)
  /-- HOST_MEMORY_ACCESS (R385). -/
  | hostMemoryAccess (pa : Nat) (n : Nat) (op : HostOp) (v : Nat) (firmware : Bool)
  /-- HOME_REQUEST (R375). -/
  | homeRequest (agent : Nat) (seq : Nat) (op : HomeOp)
  /-- EXFETCH (R362). -/
  | exfetch (w : Fields)
  /-- EXTEST (R362). -/
  | extest (w : Fields)
  /-- ECNT (R363). -/
  | ecnt (w : Fields)
  /-- DAILY_FLUSH (R363). -/
  | dailyFlush (uid : Nat) (crew : Nat)
  /-- CPY (R252). -/
  | cpy (w : Fields)
  /-- CPYM (R258). -/
  | cpym (w : Fields)
  /-- CPYD (R259). -/
  | cpyd (w : Fields)
  /-- CPYR (R261). -/
  | cpyr (w : Fields)
  /-- COMB (R262). -/
  | comb (w : Fields)
  /-- SEAL (R254). -/
  | seal (w : Fields)
  /-- BWAIT (R254). -/
  | bwait (w : Fields)
  /-- BPOLL (R254). -/
  | bpoll (w : Fields)
  /-- FLAGR (R259). -/
  | flagr (w : Fields)
  /-- FLAG_RAISE (R259). -/
  | flagRaise (id : Nat)
  /-- COPY_START (R252). -/
  | copyStart (id : Nat)
  /-- COPY_FINISH (R252). -/
  | copyFinish (id : Nat)
  /-- MPREC (R187). -/
  | mprec (w : Fields)
  /-- MLOADB (R189). -/
  | mloadb (w : Fields)
  /-- MRUN (R190). -/
  | mrun (w : Fields)
  /-- MZERO (R188). -/
  | mzero (w : Fields)
  /-- MZERO_FREE (R188). -/
  | mzeroFree (w : Fields)
  /-- MSCALE (R187). -/
  | mscale (w : Fields)
  /-- MSTAT (R201). -/
  | mstat (w : Fields)
  /-- MSAVE (R203). -/
  | msave (w : Fields)
  /-- MSAVE_STOP (R203). -/
  | msaveStop (w : Fields)
  /-- MREST (R203). -/
  | mrest (w : Fields)
  /-- TSL (R198). -/
  | tsl (w : Fields)
  /-- TSS (R199). -/
  | tss (w : Fields)
  /-- TWAIT (R200). -/
  | twait (w : Fields)
  /-- TWAIT_T (R200). -/
  | twaitT (w : Fields)
  /-- MRECON (R197). -/
  | mrecon (w : Fields)
  /-- TILE_ALLOCATE (R186). -/
  | tileAllocate (id : Nat)
  /-- ARRAY_PICK (R195). -/
  | arrayPick (core : Nat)
  /-- IMAGE_LOADED (R196). -/
  | imageLoaded (core : Nat)
  /-- K_STEP_END (R194). -/
  | kStepEnd (core : Nat)
  /-- TILE_COMMAND_COMPLETE (R185). -/
  | tileCommandComplete (id : Nat)
  /-- CIM_PARITY_ERROR (R205). -/
  | cimParityError (core : Nat)
  /-- TILE_STORE_ERROR (R205). -/
  | tileStoreError (uid : Nat) (tile : Nat) (elem : Nat) (correctable : Bool)
  /-- RPUT (R272). -/
  | rput (w : Fields)
  /-- RPUT_INIT (R271). -/
  | rputInit (w : Fields)
  /-- RGET (R272). -/
  | rget (w : Fields)
  /-- DONE (R276). -/
  | doneRegion (w : Fields)
  /-- IDEMB (R277). -/
  | idemb (w : Fields)
  /-- IDEME (R277). -/
  | ideme (w : Fields)
  /-- CARVE (R269). -/
  | carve (w : Fields)
  /-- CARVE_APPLY (R269). -/
  | carveApply (core : Nat)
  /-- BLOCK_ADMIT (R264). -/
  | blockAdmit (die : Nat)
  /-- BLOCK_RETIRE (R265). -/
  | blockRetire (uid : Nat)
  /-- SLATE_RELEASE (R282). -/
  | slateRelease (tag : Nat)
  /-- BAR_MEET (R287). -/
  | barMeet (w : Fields)
  /-- BAR_POST (R287). -/
  | barPost (w : Fields)
  /-- BAR_AWAIT (R286). -/
  | barAwait (w : Fields)
  /-- BAR_LAST (R293). -/
  | barLast (w : Fields)
  /-- CBAR_MEET (R290). -/
  | cbarMeet (w : Fields)
  /-- CBAR_POST (R290). -/
  | cbarPost (w : Fields)
  /-- CBAR_AWAIT (R290). -/
  | cbarAwait (w : Fields)
  /-- CBAR_LAST (R293). -/
  | cbarLast (w : Fields)
  /-- CAST_ARRIVAL (R291). -/
  | castArrival (uid : Nat) (cast : Nat)
  /-- PBAR_MEET (R295). -/
  | pbarMeet (w : Fields)
  /-- PBAR_POST (R295). -/
  | pbarPost (w : Fields)
  /-- PBAR_AWAIT (R295). -/
  | pbarAwait (w : Fields)
  /-- PBAR_CFG (R294). -/
  | pbarCfg (w : Fields)
  /-- CLAPPER_ROOT_ARRIVAL (R296). -/
  | clapperRootArrival (uid : Nat) (id : Nat)
  /-- CLAPPER_COUNTDOWN_ELAPSE (R296). -/
  | clapperCountdownElapse (ctx : Nat) (id : Nat)
  /-- ENQ (R306). -/
  | enq (w : Fields)
  /-- WAITEV (R307). -/
  | waitev (w : Fields)
  /-- SIGEV_ADD (R308). -/
  | sigevAdd (w : Fields)
  /-- SIGEV_SET (R308). -/
  | sigevSet (w : Fields)
  /-- TAIL_REREAD (R300). -/
  | tailReread (n : Nat)
  /-- WAIT_WORD_CHANGE (R302). -/
  | waitWordChange (n : Nat)
  /-- ARBITER_PICK (R304). -/
  | arbiterPick
  /-- BUDGET_PERIOD (R304). -/
  | budgetPeriod
  /-- LAUNCH_SPLIT (R313). -/
  | launchSplit (tag : Nat)
  /-- TAKE_OPENED (R366). -/
  | takeOpened (tag : Nat)
  /-- MAILBOX_POST (R315). -/
  | mailboxPost (die : Nat)
  /-- LAUNCH_COMPLETE (R312). -/
  | launchComplete (tag : Nat)
  /-- LAUNCH_DEADLINE (R312). -/
  | launchDeadline (tag : Nat)
  /-- MBOXR (R320). -/
  | mboxr (w : Fields)
  /-- SPAWN (R321). -/
  | spawn (w : Fields)
  /-- FWD (R322). -/
  | fwd (w : Fields)
  /-- DIRECTOR_WATCHDOG (R318). -/
  | directorWatchdog (die : Nat)
  /-- TRAP (R334). -/
  | trap (w : Fields)
  /-- TRAP_ABORT (R334). -/
  | trapAbort (w : Fields)
  /-- RETT (R335). -/
  | rett (w : Fields)
  /-- HCALL (R340). -/
  | hcall (w : Fields)
  /-- HOST_CALL_POST (R340). -/
  | hostCallPost (ctx : Nat)
  /-- HOST_CALL_REPLY (R339). -/
  | hostCallReply (ctx : Nat) (num : Nat)
  /-- TMRSET (R337). -/
  | tmrset (w : Fields)
  /-- SYSRD (R336). -/
  | sysrd (w : Fields)
  /-- SYSWR (R336). -/
  | syswr (w : Fields)
  /-- BKPT (R334). -/
  | bkpt (w : Fields)
  /-- CREW_TIMER_FIRE (R338). -/
  | crewTimerFire (uid : Nat) (crew : Nat)
  /-- REGROUP (R105). -/
  | regroup
  /-- ALLOC (R324). -/
  | alloc (ctx : Nat)
  /-- RUN (R343). -/
  | run (ctx : Nat)
  /-- PREEMPT (R341). -/
  | preempt (ctx : Nat)
  /-- RESET (R345). -/
  | reset (ctx : Nat)
  /-- DRAINED (R325). -/
  | drained (ctx : Nat)
  /-- DRAIN_DEADLINE (R341). -/
  | drainDeadline (ctx : Nat)
  /-- SAVE_STEP_COMPLETE (R341). -/
  | saveStepComplete (ctx : Nat)
  /-- RESET_DEADLINE (R325). -/
  | resetDeadline (ctx : Nat)
  /-- RESET_COMPLETE (R345). -/
  | resetComplete (ctx : Nat)
  /-- QUEUE_BIND (R303). -/
  | queueBind (n : Nat) (cfg : Nat)
  /-- QUEUE_UNBIND (R303). -/
  | queueUnbind (n : Nat)
  /-- QTAIL (R298). -/
  | qtail (n : Nat) (v : Nat)
  /-- CHDOOR (R339). -/
  | chdoor (ctx : Nat) (num : Nat)
  /-- CPFDOOR (R355). -/
  | cpfdoor (ctx : Nat) (num : Nat)
  /-- PAGE_FAULT_POST (R355). -/
  | pageFaultPost (who : Requester)
  /-- PAGE_FAULT_REPLY (R355). -/
  | pageFaultReply (ctx : Nat) (num : Nat)
  /-- TLB_WALK_COMPLETE (R351). -/
  | tlbWalkComplete (id : Nat)
  /-- CTLBINV (R353). -/
  | ctlbinv (ctx : Nat) (vpage : Nat) (size : Nat) (all : Bool)
  /-- TLB_INVALIDATE_COMPLETE (R353). -/
  | tlbInvalidateComplete
  /-- FETCH (R359). -/
  | fetch (ctx : Nat) (exid : Nat)
  /-- EVICT (R359). -/
  | evict (ctx : Nat) (exid : Nat)
  /-- EXPERT_FETCH_START (R359). -/
  | expertFetchStart
  /-- EXPERT_LAND (R359). -/
  | expertLand (ctx : Nat) (exid : Nat) (ok : Bool)
  /-- DAILY_WRITE (R364). -/
  | dailyWrite (slot : Nat) (v : Nat)
  /-- FULL (R368). -/
  | full
  /-- DIRTY (R368). -/
  | dirty
  /-- ABORT (R368). -/
  | abort
  /-- CHECKPOINT_CUT_DONE (R368). -/
  | checkpointCutDone
  /-- CHECKPOINT_STREAM_DONE (R368). -/
  | checkpointStreamDone (ok : Bool)
  /-- FLIT_RECEIVE (R372). -/
  | flitReceive (port : Nat) (v : Nat)
  /-- RETRANSMIT_TIMEOUT (R372). -/
  | retransmitTimeout (port : Nat) (seq : Nat)
  /-- REQUEST_TIMEOUT (R374). -/
  | requestTimeout (id : Nat) (elem : Nat)
  /-- PORT_ENABLE (R377). -/
  | portEnable (port : Nat) (v : Nat)
  /-- PORT_DISABLE (R377). -/
  | portDisable (port : Nat) (v : Nat)
  /-- PORT_TRAINED (R377). -/
  | portTrained (port : Nat) (lanes : Nat) (peer : Nat) (pinc : Nat)
  /-- TRAINING_TIMEOUT (R377). -/
  | trainingTimeout (port : Nat)
  /-- PORT_IDLE (R377). -/
  | portIdle (port : Nat)
  /-- PORT_ERRORS (R377). -/
  | portErrors (port : Nat) (lost : Nat)
  /-- PORT_WAKE (R377). -/
  | portWake (port : Nat)
  /-- WAKE_READY (R377). -/
  | wakeReady (port : Nat)
  /-- WAKE_TIMEOUT (R377). -/
  | wakeTimeout (port : Nat)
  /-- SPOKE_SUSPECT (R377). -/
  | spokeSuspect (d : Nat)
  /-- HEARTBEAT_SEND (R378). -/
  | heartbeatSend
  /-- HEARTBEAT (R379). -/
  | heartbeat (agent : Nat)
  /-- DECLARE (R378). -/
  | declare (agent : Nat)
  /-- FENCE_COMMAND (R379). -/
  | fenceCommand (agent : Nat)
  /-- AGENT_FENCED (R379). -/
  | agentFenced (agent : Nat)
  /-- STRIKE_COMPLETE (R381). -/
  | strikeComplete (agent : Nat)
  /-- UNFENCE_VOTE (R382). -/
  | unfenceVote (agent : Nat) (peer : Nat) (inc : Nat) (signature : Nat)
  /-- UNFENCE (R382). -/
  | unfence (v : Nat) (firmware : Bool)
  /-- HUBID (R376). -/
  | hubid (v : Nat)
  /-- BOOT (R386). -/
  | boot (img : FwImage)
  /-- RECOVERY_RETRY (R387). -/
  | recoveryRetry (img : FwImage)
  /-- ATTREQ (R394). -/
  | attreq (nonce : Nat)
  /-- ATTESTATION_DONE (R389). -/
  | attestationDone
  /-- PWRLIM (R392). -/
  | pwrlim (v : Nat)
  /-- POWER_SAMPLE (R391). -/
  | powerSample (draw : Nat)
  /-- SCRUB (R393). -/
  | scrub (place : ScrubAt) (found : ScrubRes)
  /-- REGISTER_WRITE (R4). -/
  | registerWrite (offset : Nat) (value : Nat) (firmware : Bool)
  /-- DEBUG_CHALLENGE (R394). -/
  | debugChallenge (challenge : Nat) (signature : List Byte)
  /-- MANAGEMENT_ATTESTATION_REQUEST (R389). -/
  | managementAttestationRequest (nonce : Nat)
  /-- MINIMUM_VERSION_RAISE (R387). -/
  | minimumVersionRaise (v : Nat)
deriving DecidableEq, Repr

end Sys2Proof
end

