-- ==== Sys2Proof/Machine/Encoding.lean ====
section
/-! DEFINITION. The opcode map and the encoding tables of the chapters as data: for each opcode the operand classes of
its fields, and the ILL detail of a word that breaks them (R53 to R57, R61 to R66, R68, R69 and the chapters' tables). -/

namespace Sys2Proof.Machine
open Sys2Proof

/-- What a field of an instruction holds (R53, R54 and the chapters' notations). -/
inductive Cls where
  /-- The instruction does not use the field: 0. -/
  | zero
  /-- A value source read at a width. -/
  | src (w : Nat)
  /-- A scalar FP16 source: a literal must have bits [31:16] zero (R52). -/
  | half
  /-- A value destination written at a width. -/
  | dst (w : Nat)
  /-- An index or code below a limit (R54, R129). -/
  | idx (n : Nat)
  /-- A tracked register (R54, R158). -/
  | q
  /-- A special register number that `gets` or `sysrd` reads (R81, R328). -/
  | special (all : Bool)
  /-- A special register number that `syswr` writes (R336). -/
  | writable
  /-- The destination of `gets`: no k register and no gz without WBS (R82). -/
  | getsDst (w : Nat)
  /-- The semantics code of `atom` and `red` (R238, R239). -/
  | sem (red : Bool)
  /-- A swept field: a g register (R64). -/
  | swept
  /-- A field that a sweep leaves unused: 0 (R140). -/
  | sweepZero
deriving DecidableEq, Repr

/-- The classes of the four fields, and whether the literal form is allowed (R68). -/
structure Shape where
  d : Cls
  a : Cls
  b : Cls
  c : Cls
  lit : Bool
deriving DecidableEq, Repr

/-- The launch's limits that decide details 0x0C and 0x06 (R55, R158). -/
structure Limits where
  g : Nat
  k : Nat
  q : Nat
deriving DecidableEq, Repr

/-- The limits under which every register of the encoding exists. -/
def Limits.all : Limits := ⟨255, 64, 8⟩

/-! ### Operand codes -/

/-- The width in bits of a special register (R81, R328). -/
def specialWidth (n : Nat) : Nat :=
  if n = 0x44 then 128 else if [0x0B, 0x15, 0x16, 0x41, 0x42, 0x43, 0x47].contains n then 64 else 32

/-- Registers of R81. -/
def isThreadSpecial (n : Nat) : Bool := decide (n ≤ 0x18)
/-- Registers of R328. -/
def isCauseSpecial (n : Nat) : Bool := decide (0x40 ≤ n) && decide (n ≤ 0x47)

/-- The least of some details; 0 stands for none. -/
def minDetail (xs : List Nat) : Nat := xs.foldl (fun m x => if x = 0 then m else if m = 0 then x else min m x) 0

/-- Detail 0x0B or 0x0C of a register index at a width, with a limit (R55). -/
def regDetail (i w lim : Nat) : Nat :=
  minDetail [if i % (w / 32) = 0 then 0 else 0x0B, if i + w / 32 ≤ lim then 0 else 0x0C]

/-- The detail of a value code that names a register, 0 where it is legal (R53, R55). -/
def valueDetail (lim : Limits) (code w : Nat) : Nat :=
  if code ≤ 0xFE then (if code + w / 32 ≤ 0xFF then regDetail code w lim.g else 0x0B)
  else if code = 0xFF then 0
  else if code ≤ 0x107 then minDetail [if (code - 0x100) % (w / 32) = 0 then 0 else 0x0B]
  else if code ≤ 0x10B then (if w = 128 then 0x0B else 0)
  else if 0x110 ≤ code ∧ code ≤ 0x14F then regDetail (code - 0x110) w lim.k
  else 0x06

/-- The detail of a field of a class; `lit` is the literal of the literal form, if that is the form. -/
def clsDetail (lim : Limits) (cls : Cls) (code : Nat) (wbs : Bool) (lit : Option Nat) : Nat :=
  match cls with
  | .zero => if code = 0 then 0 else if code = 0x1FF && lit.isNone then 0x08 else 0x0F
  | .src w => if code = 0x1FF then (if lit.isNone || w == 128 then 0x08 else 0) else valueDetail lim code w
  | .half =>
    if code = 0x1FF then (match lit with | none => 0x08 | some v => if v / 2 ^ 16 = 0 then 0 else 0x08)
    else valueDetail lim code 32
  | .dst w => if code = 0x1FF || (decide (0x108 ≤ code) && decide (code ≤ 0x10B)) then 0x07 else valueDetail lim code w
  | .idx n => if code < n then 0 else 0x06
  | .q => if code < 8 ∧ code < lim.q then 0 else 0x06
  | .special all => if isThreadSpecial code || (all && isCauseSpecial code) then 0 else 0x06
  | .writable => if code = 0x11 ∨ code = 0x12 ∨ code = 0x41 then 0 else 0x06
  | .getsDst w =>
    if code = 0x1FF || (decide (0x108 ≤ code) && decide (code ≤ 0x10B)) then 0x07
    else if decide (0x110 ≤ code) && decide (code ≤ 0x14F) then 0x06
    else if code = 0xFF && !wbs then 0x06
    else valueDetail lim code w
  | .sem red =>
    let scope := bitsOf code 0 3
    let order := bitsOf code 3 3
    let stg := bitAt code 6
    let sp := bitAt code 7
    -- C = 0x1FF is the refused literal form (R233)
    if code = 0x1FF then 0x09
    else if bitAt code 8 || decide (scope > 5) || decide (order > 4) || (sp && decide (scope > 1)) || (stg && !red) ||
        (red && !(order == 0 || order == 2)) || (stg && !(order == 0 && scope == 0)) then 0x06 else 0
  | .swept => if code ≤ 0xFE then valueDetail lim code 32 else 0x09
  | .sweepZero => if code = 0 then 0 else 0x09

/-- Whether a class is a value source that can read a literal. -/
def Cls.isSrc : Cls → Bool
  | .src _ => true
  | .half => true
  | _ => false

/-- The width of a value destination. -/
def Cls.dstWidth : Cls → Option Nat
  | .dst w => some w
  | .getsDst w => some w
  | _ => none

/-! ### The encoding tables -/

/-- A row's operands from FN, MOD, B and A and whether the word is a sweep: the shape, or detail 0x04, 0x05 or 0x09. -/
abbrev RowFn := Nat → Nat → Nat → Nat → Except Nat Shape

/-- FN must meet `p`, else detail 0x04. -/
def needFn (p : Bool) (k : Except Nat Shape) : Except Nat Shape := if p then k else .error 0x04
/-- MOD and the combinations it makes must meet `p`, else detail 0x05. -/
def needMod (p : Bool) (k : Except Nat Shape) : Except Nat Shape := if p then k else .error 0x05

/-- Width of an integer type code (R83): 64 for codes 1 and 5, else 32. -/
def typeWidth (ty : Nat) : Nat := if ty % 4 = 1 then 64 else 32

def sh (d a b c : Cls) : Except Nat Shape := .ok ⟨d, a, b, c, true⟩
def shNoLit (d a b c : Cls) : Except Nat Shape := .ok ⟨d, a, b, c, false⟩

/-- Types at 32 and 64 bits: codes 0, 1, 4, 5 (R84). -/
def wideType (m : Nat) : Bool := m == 0 || m == 1 || m == 4 || m == 5

/-- Three value operands of one integer type (R84). -/
def rowArith (sat third : Bool) : RowFn := fun fn m _ _ =>
  needFn (fn == 0) <| needMod (decide (m < 8) || sat) <|
    let w := typeWidth (m % 8)
    sh (.dst w) (.src w) (.src w) (if third then .src w else .zero)

/-- Class 0x00 to 0x1F (R84). -/
def threadRows : List (Nat × RowFn) := [
  (0x01, rowArith true false), (0x02, rowArith true false),
  (0x03, fun fn m _ _ => needFn (decide (fn ≤ 1)) <| needMod (decide (m < 8)) <|
    let w := if fn = 1 then 64 else 32
    sh (.dst w) (.src w) (.src w) .zero),
  (0x04, fun fn m _ _ => needFn (decide (fn ≤ 1)) <| needMod (decide (m < 8)) <|
    let w := if fn = 1 then 64 else 32
    sh (.dst w) (.src w) (.src w) .zero),
  (0x05, rowArith false false), (0x06, rowArith false false), (0x07, rowArith false true),
  (0x08, fun fn m _ _ => needFn (fn == 0) <| needMod (wideType m) <|
    sh (.dst (typeWidth m)) (.src (typeWidth m)) (.src (typeWidth m)) .zero),
  (0x09, fun fn m _ _ => needFn (fn == 0) <| needMod (wideType m) <|
    sh (.dst (typeWidth m)) (.src (typeWidth m)) (.src (typeWidth m)) .zero),
  (0x0A, fun fn m _ _ => needFn (decide (fn ≤ 1)) <| needMod (decide (m < 8)) <|
    sh (.dst (typeWidth m)) (.src (typeWidth m)) (.src (typeWidth m)) .zero),
  (0x0B, fun fn m _ _ => needFn (decide (fn ≤ 1)) <| needMod (decide (m % 8 < 4)) <|
    sh (.dst (typeWidth (m % 8))) (.src (typeWidth (m % 8))) .zero .zero),
  (0x0C, fun fn m _ _ => needFn (decide (fn ≤ 5)) <| needMod (wideType m) <|
    sh (.idx 8) (.src (typeWidth m)) (.src (typeWidth m)) .zero),
  (0x0D, fun fn m _ _ => needFn (decide (fn ≤ 1)) <| needMod (decide (m < 8)) <|
    let w := if fn = 1 then 64 else 32
    sh (.dst w) (.src w) (.src w) .zero),
  (0x0E, fun fn m _ _ => needFn (decide (fn ≤ 4)) <| needMod (decide (m ≤ 1)) <|
    sh (.dst (typeWidth m)) (.src (typeWidth m)) (.src (typeWidth m)) .zero),
  (0x0F, fun fn m _ _ => needFn (decide (fn ≤ 3)) <| needMod (decide (m ≤ 1)) <|
    sh (.dst (typeWidth m)) (.src (typeWidth m)) (.src 32) .zero),
  (0x10, fun fn m _ _ => needFn (decide (fn ≤ 1)) <| needMod (m == 0) <| sh (.dst 32) (.src 32) (.src 32) .zero),
  (0x11, fun fn m _ _ => needFn (fn == 0) <| needMod (m == 0) <| sh (.dst 32) (.src 32) (.src 32) (.src 32)),
  (0x12, fun fn m _ _ => needFn (decide (fn ≤ 3)) <| needMod (decide (4 ≤ m) && decide (m < 8)) <|
    sh (.dst (typeWidth m)) (.src (typeWidth m)) .zero .zero),
  (0x13, fun fn m _ _ => needFn (fn == 0) <| needMod (m == 0) <| sh (.dst 32) (.src 32) (.src 32) (.src 32)),
  (0x14, fun fn _ _ _ => needFn (decide (fn ≤ 3)) <|
    let w := if fn < 2 then 64 else 32
    sh (.dst w) (.src w) (.src 32) .zero),
  (0x15, fun fn m _ _ => needFn (fn == 0) <| needMod (decide (m ≤ 2)) <|
    sh (.dst (32 * 2 ^ m)) (.src (32 * 2 ^ m)) .zero .zero),
  (0x16, fun fn m _ _ => needFn (fn == 0) <| needMod (m == 0) <| sh (.dst 64) (.src 32) (.src 32) .zero),
  (0x17, fun fn m _ a => needFn (fn == 0) <| needMod (m == 0) <|
    shNoLit (.getsDst (specialWidth a)) (.special false) .zero .zero),
  (0x18, fun fn m _ _ => needFn (decide (fn ≤ 4)) <| needMod (if fn ≤ 2 then decide (m < 4) else m == 0) <|
    shNoLit (.idx 8) (.idx 8) (if fn ≤ 2 then .idx 8 else .zero) .zero)]

/-- The operation and type of `redux`, `scanx` and `segred` (R122). -/
def foldModOk (fn m : Nat) : Bool :=
  if fn ≤ 2 then wideType m else if fn ≤ 5 then decide (m ≤ 1) else if fn = 6 then decide (m ≤ 3) else m == 0

/-- The width of a fold's operand (R122). -/
def foldWidth (fn m : Nat) : Nat := if fn ≤ 5 then typeWidth m else 32

/-- Class 0x20 to 0x3F (R113). -/
def crewRows : List (Nat × RowFn) :=
  let plain : Cls → Cls → RowFn := fun d a fn m _ _ => needFn (fn == 0) <| needMod (m == 0) <| sh d a .zero .zero
  [(0x20, plain .zero .zero), (0x21, plain .zero (.src 32)), (0x22, plain .zero (.src 64)),
   (0x23, plain .zero (.src 32)), (0x24, plain .zero (.src 64)), (0x25, plain .zero .zero),
   (0x26, plain (.idx 8) .zero), (0x27, plain (.idx 8) .zero), (0x28, plain (.idx 8) .zero),
   (0x29, plain (.idx 8) (.src 32)), (0x2A, plain .zero .zero), (0x2B, plain .zero .zero),
   (0x2C, fun fn m _ _ => needFn (decide (fn ≤ 4)) <| needMod (decide (m ≤ 1)) <|
     sh (if fn ≤ 2 then .idx 8 else .dst 32) (.idx 8) .zero .zero),
   (0x2D, fun fn m _ _ => needFn (decide (fn ≤ 3)) <|
     let w := if m < 8 then 32 else 64
     sh (.dst w) (.src w) (.src 32) .zero),
   (0x2E, fun fn m _ _ => needFn (decide (fn ≤ 8)) <| needMod (decide (m < 8) && foldModOk fn m) <|
     sh (.dst (foldWidth fn m)) (.src (foldWidth fn m)) .zero .zero),
   (0x2F, fun fn m _ _ => needFn (decide (fn ≤ 8)) <| needMod (foldModOk fn (m % 8)) <|
     sh (.dst (foldWidth fn (m % 8))) (.src (foldWidth fn (m % 8))) .zero .zero),
   (0x30, fun fn m _ _ => needFn (decide (fn ≤ 1)) <| needMod (decide (m ≤ 1)) <|
     sh (.dst 32) (.src (typeWidth m)) .zero .zero),
   (0x31, fun fn m _ _ => needFn (decide (fn ≤ 1)) <| needMod (m == 0) <| sh (.idx 8) .zero .zero .zero)]

/-- The width of a `cvt` type code (R129). -/
def cvtWidth (t : Nat) : Nat := if t = 4 ∨ t = 5 then 64 else 32
/-- Types 0 and 1 of `cvt` are floats. -/
def cvtIsFloat (t : Nat) : Bool := decide (t ≤ 1)
/-- n of a width code (R129). -/
def widthOfCode (k : Nat) : Nat := [1, 2, 3, 4, 5, 6, 8, 12, 16].getD k 0
/-- The elements a lane holds in a shape of `cvq` and `cvd` (R143, R145). -/
def shapeCount (s : Nat) : Nat := if s = 1 then 4 else if s = 2 then 8 else 2

/-- A rounding code (R24). -/
def rmOk (m : Nat) : Bool := decide (m ≤ 4)

/-- Class 0x40 to 0x7F, the register forms (R129). -/
def vectorRows : List (Nat × RowFn) :=
  let arith : Bool → RowFn := fun third fn m _ _ => needFn (decide (fn ≤ 1)) <| needMod (rmOk m) <|
    sh (.dst 32) (.src 32) (.src 32) (if third then .src 32 else .zero)
  let minmax : RowFn := fun fn m _ _ => needFn (decide (fn ≤ 1)) <| needMod (m == 0) <|
    sh (.dst 32) (.src 32) (.src 32) .zero
  let func : RowFn := fun fn m _ _ => needFn (fn == 0) <| needMod (m == 0) <| sh (.dst 32) (.src 32) .zero .zero
  let rm2 : RowFn := fun fn m _ _ => needFn (fn == 0) <| needMod (rmOk m) <| sh (.dst 32) (.src 32) (.src 32) .zero
  [(0x40, arith false), (0x41, arith false), (0x42, arith false), (0x43, arith true), (0x44, minmax), (0x45, minmax),
   (0x46, fun fn m _ _ => needFn (decide (fn ≤ 7)) <| needMod (m == 0) <| sh (.idx 8) (.src 32) (.src 32) .zero),
   (0x47, fun fn m _ _ => needFn (fn == 0) <| needMod (m == 0) <| sh (.idx 8) (.src 32) (.src 32) .zero),
   (0x48, fun fn m _ _ => needFn (fn == 0) <| needMod (decide (m ≤ 3)) <| sh (.dst 32) (.src 32) .zero .zero),
   (0x49, func), (0x4A, func), (0x4B, func), (0x4C, func),
   (0x4D, fun fn m _ _ => needFn (fn == 0) <| needMod (rmOk m) <| sh (.dst 32) (.src 32) .zero .zero),
   (0x4E, rm2), (0x4F, func), (0x50, func), (0x51, rm2),
   (0x52, fun fn m _ _ => needFn (decide (fn ≤ 1)) <| needMod (m == 0) <| sh (.dst 32) (.src 32) .zero .zero),
   (0x53, fun fn m b _ => needFn (decide (fn ≤ 7)) <|
     needMod (rmOk m && (decide (b > 7) || ((cvtIsFloat fn || cvtIsFloat b) && fn != b))) <|
     sh (.dst (cvtWidth fn)) (if b = 1 then .half else .src (cvtWidth b)) (.idx 8) .zero),
   (0x54, fun fn m b _ => needFn (decide (fn ≤ 8)) <|
     needMod (rmOk (m % 8) && (decide (8 ≤ m) || fn != 0) && b != 3 &&
       (decide (b > 3) || decide (shapeCount b * widthOfCode fn ≤ 32))) <|
     sh (.dst 64) (.src (if b = 0 then 64 else 128)) (.idx 3) (.src 32)),
   (0x56, fun fn m _ _ => needFn (decide (fn ≤ 8)) <| needMod (rmOk (m % 8) && (decide (8 ≤ m) || fn != 0)) <|
     sh (.dst 64) (.src 64) (.src 32) (.src 64)),
   (0x57, fun fn m _ _ => needFn (decide (fn ≤ 1)) <| needMod (if fn = 1 then rmOk m else m == 0) <|
     sh (.dst 32) (.src 32) (.src 32) .zero),
   (0x58, fun fn m _ _ => needFn (decide (fn ≤ 2)) <| needMod (m == 0) <|
     sh (.dst (if fn = 1 then 64 else 32)) .zero .zero .zero),
   (0x59, fun fn m _ _ => needFn (fn == 0) <| needMod (m == 0) <| sh (.dst 64) (.src 64) (.src 64) .zero),
   (0x5A, fun fn m _ _ => needFn (decide (fn ≤ 1)) <| needMod (decide (m < 8)) <|
     sh (.dst (if fn = 0 then 64 else 32)) (.src 32) (.src 32) (.src 32)),
   (0x5B, fun fn m _ _ => needFn (decide (fn ≤ 8)) <| needMod (foldModOk fn (m % 8)) <|
     sh (.dst (foldWidth fn (m % 8))) (.src (foldWidth fn (m % 8))) (.src 32) .zero),
   (0x5C, fun fn m _ _ => needFn (decide (fn ≤ 1)) <| needMod (m == 0) <|
     sh (.dst 32) (.src 32) (if fn = 0 then .src 32 else .zero) .zero),
   (0x5D, fun fn m _ _ => needFn (fn == 0) <| needMod (m == 0) <| sh (.dst 64) (.src 64) (.src 64) (.src 64)),
   (0x5E, fun fn m _ _ => needFn (fn == 0) <| needMod (decide (m < 8)) <| sh (.dst 32) (.src 32) (.src 32) .zero)]

/-- Class 0x80 to 0x9F (R159). Only `qld` of a 32-bit type has the literal form. -/
def trackedRows : List (Nat × RowFn) :=
  let plain : Cls → Cls → Cls → Cls → RowFn := fun d a b c fn m _ _ =>
    needFn (fn == 0) <| needMod (m == 0) <| shNoLit d a b c
  [(0x80, fun fn m _ _ => needFn (decide (fn ≤ 4)) <| needMod (m == 0) <|
     .ok ⟨.q, .src (if fn ≥ 3 then 64 else 32), .zero, .zero, decide (fn ≤ 2)⟩),
   (0x81, plain .q (.src 64) .zero .zero), (0x82, plain .q .q .zero .zero),
   (0x83, plain .q .q .q .zero), (0x84, plain .q .q .q .zero), (0x85, plain .q .q .q .zero),
   (0x86, plain .q .q .q .q), (0x87, plain .q .q .q .zero), (0x88, plain .q .q .zero .zero),
   (0x89, plain .q .q .zero .zero), (0x8A, plain .q .q .zero .zero),
   (0x8B, fun fn _ _ _ => needFn (decide (fn ≤ 5)) <| shNoLit (.idx 8) .q .q .zero),
   (0x8C, plain (.dst 32) .q .zero .zero), (0x8D, plain (.dst 64) .q .zero .zero),
   (0x8E, fun fn m _ _ => needFn (decide (1 ≤ fn) && decide (fn ≤ 5)) <| needMod (decide (m < 8)) <|
     shNoLit .q .q .zero .zero),
   (0x8F, plain .q .q .zero .zero), (0x90, plain .q .q .zero .zero), (0x91, plain .q .zero .zero .zero),
   (0x92, fun fn m _ _ => needFn (decide (fn ≤ 3)) <| needMod (m == 0) <|
     shNoLit (.dst 32) (if fn = 0 then .q else .zero) .zero .zero)]

/-- Register width of a memory type (R234): sub-word types use 32 bits. -/
def memWidth (ty : Nat) : Nat := if ty = 1 ∨ ty = 0xA ∨ ty = 0xB then 64 else if ty = 2 then 128 else 32

/-- The types an operation of `atom` and `red` accepts (R234, R238). -/
def atomTypeOk (red : Bool) (fn ty : Nat) : Bool :=
  if fn ≤ 2 then decide (8 ≤ ty) && decide (ty ≤ 0xB)
  else if fn ≤ 5 then decide (ty ≤ 1)
  else if fn ≤ 7 then decide (ty ≤ 2) && !red
  else ty == 7

/-- Class 0xA0 to 0xBF (R233, R361). -/
def lineRows : List (Nat × RowFn) := [
  (0xA0, fun fn m _ _ => needFn (decide (fn ≤ 1)) <| needMod (decide (m ≤ 6)) <|
    sh (.dst (memWidth m)) (.src (if fn = 0 then 64 else 32)) .zero (.src 32)),
  (0xA1, fun fn m _ _ => needFn (decide (fn ≤ 1)) <| needMod (decide (m ≤ 6)) <|
    sh .zero (.src (if fn = 0 then 64 else 32)) (.src (memWidth m)) (.src 32)),
  (0xA2, fun fn m _ _ => needFn (decide (fn % 8 ≤ 5)) <| needMod (decide (m ≤ 2)) <|
    sh (.dst (memWidth m)) (.src 64) .zero (.src 32)),
  (0xA3, fun fn m _ _ => needFn (decide (fn % 8 ≤ 5)) <| needMod (decide (m ≤ 2)) <|
    sh .zero (.src 64) (.src (memWidth m)) (.src 32)),
  (0xA4, fun fn m _ _ => needFn (fn == 0) <| needMod (decide (m ≤ 6)) <|
    sh (.dst (memWidth m)) (.src 32) .zero (.src 32)),
  (0xA5, fun fn m _ _ => needFn (fn == 0) <| needMod (decide (m ≤ 6)) <|
    sh .zero (.src 32) (.src (memWidth m)) (.src 32)),
  (0xA6, fun fn m _ _ => needFn (decide (fn ≤ 2)) <| needMod (m == 0 || (m == 1 && decide (fn ≤ 1))) <|
    sh (.dst (32 * 2 ^ (fn + m))) (.src 64) (.src (32 * 2 ^ fn)) .zero),
  (0xA7, fun fn m _ _ => needFn (decide (fn ≤ 2)) <| needMod (m == 0 || (m == 1 && decide (fn ≤ 1))) <|
    sh .zero (.src 64) (.src (32 * 2 ^ fn)) (.src (32 * 2 ^ (fn + m)))),
  (0xAA, fun fn m _ _ => needFn (decide (fn ≤ 5)) <| needMod (decide (1 ≤ m) && decide (m ≤ 4)) <|
    sh .zero .zero .zero .zero),
  (0xAB, fun fn m _ _ => needFn (decide (fn ≤ 1)) <| needMod (m == 0) <|
    sh .zero (if fn = 0 then .src 64 else .zero) (if fn = 0 then .src 32 else .zero) .zero),
  (0xAC, fun fn m _ _ => needFn (decide (fn ≤ 1)) <| needMod (m == 0) <|
    sh .zero (if fn = 0 then .src 64 else .zero) (if fn = 0 then .src 32 else .zero) .zero),
  (0xAD, fun fn m _ _ => needFn (fn == 0) <| needMod (m == 0) <| sh .zero .zero .zero .zero),
  (0xAE, fun fn m _ _ => needFn (decide (fn ≤ 1)) <| needMod (m == 0) <| sh .zero (.src 64) .zero (.src 32)),
  (0xB0, fun fn m _ _ => needFn (fn == 0) <| needMod (m == 0) <| sh .zero (.src 32) .zero .zero),
  (0xB1, fun fn m _ _ => needFn (fn == 0) <| needMod (decide (m < 8)) <| sh (.idx 8) (.src 32) .zero .zero),
  (0xB2, fun fn m _ _ => needFn (fn == 0) <| needMod (m == 0) <| sh .zero (.src 32) (.src 32) .zero)]

/-- `atom` and `red`: A is a pair, or one register under SP of the semantics code in C (R233, R238). -/
def atomRow (red sp : Bool) : RowFn := fun fn m _ _ =>
  needFn (if red then decide (fn ≤ 5) || fn == 8 else decide (fn ≤ 8)) <| needMod (atomTypeOk red fn m) <|
    shNoLit (if red then .zero else .dst (memWidth m)) (.src (if sp then 32 else 64)) (.src (memWidth m)) (.sem red)

/-- The D of `tsl` by form (R198). -/
def tslWidth (fn : Nat) : Nat := if fn = 0 then 32 else if fn = 1 then 128 else 64

/-- Copies and tiles (R183, R251). -/
def copyTileRows : List (Nat × RowFn) :=
  let plain : Cls → Cls → Cls → RowFn := fun d a b fn m _ _ => needFn (fn == 0) <| needMod (m == 0) <| sh d a b .zero
  [(0xC0, plain .zero (.src 32) .zero), (0xC1, plain .zero (.src 32) .zero), (0xC2, plain .zero (.src 32) .zero),
   (0xC3, plain .zero (.src 32) .zero), (0xC4, plain .zero (.src 64) (.src 32)), (0xC5, plain (.dst 32) .zero .zero),
   (0xC6, plain .zero (.src 32) .zero), (0xC7, plain (.idx 8) (.src 32) .zero),
   (0xC8, plain .zero (.src 64) (.src 32)),
   (0xD0, plain (.idx 16) (.src 32) .zero), (0xD1, plain (.idx 16) (.src 64) .zero),
   (0xD2, plain (.idx 16) (.src 32) (.src 32)),
   (0xD3, fun fn m _ _ => needFn (decide (fn ≤ 1)) <| needMod (m == 0) <|
     sh (.idx 16) (if fn = 0 then .src 32 else .zero) .zero .zero),
   (0xD4, plain (.idx 16) (.src 32) .zero), (0xD5, plain (.dst 32) (.idx 16) .zero),
   (0xD6, fun fn m _ _ => needFn (decide (fn ≤ 1)) <| needMod (m == 0) <| sh (.idx 16) (.src 64) .zero .zero),
   (0xD7, plain (.idx 16) (.src 64) .zero),
   (0xD8, fun fn m _ _ => needFn (decide (fn ≤ 2)) <|
     needMod (if fn = 2 then decide (1 ≤ m) && decide (m ≤ 8) else m == 0) <|
     sh (.dst (tslWidth fn)) (.idx 16) (.src 32) .zero),
   (0xD9, fun fn m _ _ => needFn (decide (fn ≤ 1)) <| needMod (m == 0) <|
     sh (.idx 16) (.src (tslWidth fn)) (.src 32) .zero),
   (0xDA, fun fn m _ _ => needFn (decide (fn ≤ 1)) <| needMod (m == 0) <|
     if fn = 0 then sh .zero (.src 32) .zero .zero else sh (.idx 8) (.idx 16) .zero .zero),
   (0xDB, fun fn m _ _ => needFn (fn == 0) <| needMod (decide (m ≤ 2)) <|
     sh (.idx 16) (.idx 16) (if 1 ≤ m then .idx 16 else .zero) (if 2 ≤ m then .idx 16 else .zero))]

/-- Blocks, barriers, queues, kernels and contexts (R270, R286, R305, R319, R333). -/
def groupRows : List (Nat × RowFn) :=
  let plain : Cls → Cls → Cls → RowFn := fun d a b fn m _ _ => needFn (fn == 0) <| needMod (m == 0) <| sh d a b .zero
  [(0xE0, fun fn m _ _ => needFn (decide (fn ≤ 1)) <|
     needMod (if fn = 0 then decide (m < 8) && decide (m % 4 ≤ 2) else m == 0) <|
     if fn = 0 then sh (.idx 8) (.src (32 * 2 ^ (m % 4))) .zero .zero else sh (.idx 8) (.src 32) (.src 32) .zero),
   (0xE1, fun fn m _ _ => needFn (fn == 0) <| needMod (decide (m ≤ 2)) <|
     sh (.dst (32 * 2 ^ m)) (.idx 8) .zero .zero),
   (0xE2, plain .zero .zero .zero), (0xE3, plain .zero .zero .zero), (0xE4, plain .zero .zero .zero),
   (0xE5, plain (.dst 32) (.src 32) (.src 32)),
   (0xE6, fun fn m _ _ => needFn (decide (fn ≤ 3)) <| needMod (m == 0) <|
     sh (if fn = 3 then .idx 8 else .zero) (.idx 16) (if fn = 2 then .zero else .src 32) .zero),
   (0xE7, fun fn m _ _ => needFn (decide (fn ≤ 3)) <| needMod (m == 0) <|
     sh (if fn = 3 then .idx 8 else .zero) (.src 32) .zero .zero),
   (0xE8, fun fn m _ _ => needFn (decide (fn ≤ 3)) <| needMod (m == 0) <|
     sh .zero (.src 32) (if fn = 3 then .src 32 else .zero) .zero),
   (0xE9, fun fn m _ _ => needFn (fn == 0) <| needMod (decide (m < 8)) <| sh (.dst 32) (.src 32) (.src 32) .zero),
   (0xEA, plain .zero (.src 64) (.src 32)),
   (0xEB, fun fn m _ _ => needFn (decide (fn ≤ 1)) <| needMod (m == 0) <| sh .zero (.src 64) (.src 32) .zero),
   (0xEC, plain (.dst 32) (.src 32) .zero), (0xED, plain (.dst 32) (.src 32) (.src 32)),
   (0xEE, fun fn m _ _ => needFn (fn == 0) <| needMod (decide (m < 8)) <| sh .zero (.src 32) (.src 32) .zero),
   (0xF0, fun fn m _ _ => needFn (decide (fn ≤ 1)) <| needMod (m == 0) <| sh .zero (.src 32) .zero .zero),
   (0xF1, plain .zero .zero .zero), (0xF2, plain (.dst 128) (.src 128) .zero),
   (0xF3, fun fn m _ _ => needFn (decide (fn ≤ 1)) <| needMod (m == 0) <| sh .zero (.src 64) .zero .zero),
   (0xF4, fun fn m _ a => needFn (fn == 0) <| needMod (m == 0) <|
     shNoLit (.dst (specialWidth a)) (.special true) .zero .zero),
   (0xF6, plain .zero (.src 32) .zero)]

/-- The opcodes with a short form (R68). -/
def shortOps : List Nat := [0x01, 0x02, 0x05, 0x0A, 0x0E, 0x0F, 0x15, 0x20, 0x40, 0x42, 0x44]
/-- The sweep-capable opcodes (R68). -/
def sweepOps : List Nat := [0x40, 0x41, 0x42, 0x43, 0x44, 0x45, 0x49, 0x4B, 0x4D, 0x53, 0x54, 0x55]

/-- `cvd` (R129, R145): the codes of a lane fill at most 32 bits of its pair; a sweep reads whole slots (R140). -/
def cvdRow (swept : Bool) : RowFn := fun fn m b _ => needFn (decide (fn ≤ 8)) <|
  needMod (rmOk (m % 8) && (decide (8 ≤ m) || fn != 0) &&
    (swept || decide (b > 3) || decide (shapeCount b * widthOfCode fn ≤ 32))) <|
  sh (.dst (if b = 1 ∨ b = 2 then 128 else 64)) (.src 64) (.idx 4) (if b = 3 then .src 64 else .zero)

/-- The row of an opcode, if it is assigned. -/
def rowOf (op : Nat) (f : Fields) : Option RowFn :=
  if op = 0x55 then some (cvdRow (match f.ext with | .sweep _ _ _ _ => true | _ => false))
  else if op = 0xA8 then some (atomRow false (bitAt f.c.toNat 7))
  else if op = 0xA9 then some (atomRow true (bitAt f.c.toNat 7))
  else if op = 0xF5 then some (fun fn m _ _ => needFn (fn == 0) <| needMod (m == 0) <|
    sh .writable (.src (specialWidth f.d.toNat)) .zero .zero)
  else
    let tbl := if op < 0x20 then threadRows else if op < 0x40 then crewRows else if op < 0x80 then vectorRows
      else if op < 0xA0 then trackedRows else if op < 0xC0 then lineRows else if op < 0xE0 then copyTileRows
      else groupRows
    (tbl.find? fun r => r.1 == op).map (·.2)

/-- The shape of a sweep of a sweep-capable opcode whose register form is legal (R140), or detail 0x09. DESIGN CHOICE
(log entry 26): B of `cvt`, `cvq` and `cvd` is a code, not a swept source, and its step must be 0 as that of an unused
source. -/
def sweepShape (op : Nat) (f : Fields) (s : Shape) : Except Nat Shape :=
  let stepB0 := match f.ext with
    | .sweep _ _ _ sb => sb == 0
    | _ => true
  if op ≤ 0x45 then .ok ⟨.swept, .swept, .swept, if op = 0x43 then s.c else .sweepZero, false⟩
  else if op = 0x53 then
    -- cvt: .f32 with .i32 or .n32, .f16 with .i16 or .n16
    let fn := f.fn.toNat
    let b := f.b.toNat
    let pair (x y : Nat) : Bool := (x == 0 && (y == 2 || y == 3)) || (x == 1 && (y == 6 || y == 7))
    if (pair fn b || pair b fn || decide (b > 7)) && stepB0 then .ok ⟨.swept, .swept, .idx 8, .sweepZero, false⟩
    else .error 0x09
  else if op = 0x54 ∨ op = 0x55 then
    if (f.b == 0 || f.b == 2 || decide (f.b.toNat > 3)) && stepB0 then
      .ok ⟨.swept, .swept, s.b, if op = 0x54 then .src 32 else .sweepZero, false⟩
    else .error 0x09
  else if stepB0 then .ok ⟨.swept, .swept, .sweepZero, .sweepZero, false⟩ else .error 0x09

/-- Whether a class reads a literal under the literal form. -/
def Shape.hasSrc (s : Shape) : Bool := s.a.isSrc || s.b.isSrc || s.c.isSrc

/-- The details of the fields of a shape; `lit` is the literal of the literal form. -/
def fieldsDetail (lim : Limits) (s : Shape) (f : Fields) (lit : Option Nat) : Nat :=
  let c := f.c.toNat
  minDetail [
    clsDetail lim s.d f.d.toNat f.wbs lit,
    clsDetail lim s.a f.a.toNat f.wbs lit,
    clsDetail lim s.b f.b.toNat f.wbs lit,
    -- C = 0x1FF of the literal form selects it where the instruction has no C operand
    if c = 0x1FF && lit.isSome && !s.c.isSrc then 0 else clsDetail lim s.c c f.wbs lit,
    -- R61
    if f.wbs && (f.d != 0xFF || (match s.d.dstWidth with | some w => decide (w > 64) | none => true)) then 0x0D else 0]

/-- Detail 0x0E: YLD with HOLD, or the guard (!p7) (R57, R62). -/
def hintDetail (f : Fields) : Nat := if (f.yld && f.hold) || (f.gp == 7 && f.gn) then 0x0E else 0

/-- The shape of an instruction in its register form, or the detail 0x03, 0x04 or 0x05 that leaves it without one. -/
def shapeOf (op : Nat) (f : Fields) : Except Nat Shape :=
  match rowOf op f with
  | none => .error 0x03
  | some row => row f.fn.toNat f.mod.toNat f.b.toNat f.a.toNat

/-- The details of a sweep (R63, R64, R140): 0x09 for an opcode, a shape, a count or a field that does not allow it; a
reserved code or a latch destination is detected as in the register form. -/
def sweepDetail (lim : Limits) (op : Nat) (f : Fields) (s : Shape) (cnt : BitVec 12) : Nat :=
  let base := fieldsDetail lim s f (some 0)
  minDetail [
    if base < 0x09 then base else 0,
    if sweepOps.contains op && cnt != 0 then 0 else 0x09,
    match sweepShape op f s with
    | .error e => e
    | .ok t => fieldsDetail lim t f none]

/-- The ILL detail of a 64-bit or 96-bit instruction under the launch's limits, 0 where it is legal (R66). -/
def illDetail (lim : Limits) (op : Nat) (f : Fields) : Nat :=
  if op = 0 then 0x02
  else match shapeOf op f with
    | .error e => e
    | .ok s =>
      minDetail [hintDetail f,
        match f.ext with
        | .none => fieldsDetail lim s f none
        -- the literal form is the one with C = 0x1FF (R51)
        | .lit v => minDetail [fieldsDetail lim s f (some v.toNat),
            if f.c == 0x1FF && s.lit && s.hasSrc then 0 else 0x09]
        | .sweep cnt _ _ _ => minDetail [sweepDetail lim op f s cnt, if f.c == 0x1FF then 0x09 else 0]]

/-- The fields of the 64-bit instruction that a 32-bit form stands for (R50). -/
def expandShort (op : Nat) (f : ShortFields) : Fields :=
  { gp := f.gp, gn := f.gn, d := f.d,
    a := if op = 0x15 ∨ op = 0x20 then f.a else f.d,
    b := if op = 0x15 ∨ op = 0x20 then 0 else f.a,
    c := 0, fn := 0, mod := 0, wbs := false, stall := 0, yld := false, hold := false, ext := .none }

/-- The shape of an opcode under the lowest FN and MOD that give it one, whatever B holds (R66). -/
def firstShape (op : Nat) (f : Fields) : Option Shape :=
  (List.range 16).findSome? fun fn => (List.range 16).findSome? fun m => [f, { f with b := 0 }].findSome? fun f =>
    match shapeOf op { f with fn := BitVec.ofNat _ fn, mod := BitVec.ofNat _ m } with
    | .ok s => some s
    | .error _ => none

/-- The details below 0x0A of the operand fields of a 32-bit word whose opcode has no short form: the word has no FN and
no MOD of its own, so its fields are read under the first that the opcode has (R66; DEDUCED, log entry 83). -/
def shortFieldsDetail (lim : Limits) (op : Nat) (f : ShortFields) : Nat :=
  match firstShape op (expandShort op f) with
  | none => 0
  | some s =>
    let d := fieldsDetail lim s (expandShort op f) none
    if d < 0x0A then d else 0

/-- The ILL detail of a 32-bit instruction (R50, R66). -/
def illDetailShort (lim : Limits) (op : Nat) (f : ShortFields) : Nat :=
  if op = 0 then 0x02
  else if (rowOf op (expandShort op f)).isNone then 0x03
  else if !shortOps.contains op then minDetail [0x0A, shortFieldsDetail lim op f]
  else illDetail lim op (expandShort op f)

end Sys2Proof.Machine
end

