-- ==== Sys2Proof/Machine/Flags.lean ====
section
/-! DEFINITION. The sticky flags of s.fstat (R26) and the rounding that sets them (R21 to R25): exact rationals,
the FP32 and FP16 formats, and one rounding function for every mode. -/

namespace Sys2Proof.Machine
open Sys2Proof

/-- NV, invalid operation (R26). -/
def fNV : Nat := 0x001
/-- DZ, division by zero (R26). -/
def fDZ : Nat := 0x002
/-- OF, overflow (R26). -/
def fOF : Nat := 0x004
/-- UF, underflow (R26). -/
def fUF : Nat := 0x008
/-- NX, inexact (R26). -/
def fNX : Nat := 0x010
/-- CLIP, a block-scaled conversion saturated an element (R26). -/
def fCLIP : Nat := 0x020
/-- RNGWRAP, a random-stream counter wrapped (R26). -/
def fRNGWRAP : Nat := 0x040
/-- RANGE, an accumulation saturated or an exact conversion fell outside its range (R26). -/
def fRANGE : Nat := 0x080
/-- RNCONFLICT, residue channels disagreed (R26). -/
def fRNCONFLICT : Nat := 0x100

/-- An exact rational; the denominator is never 0 where the model makes one. -/
structure Q where
  num : Int
  den : Nat
deriving DecidableEq, Repr

def Q.ofInt (i : Int) : Q := ⟨i, 1⟩
def Q.neg (x : Q) : Q := ⟨-x.num, x.den⟩
def Q.abs (x : Q) : Q := ⟨x.num.natAbs, x.den⟩
/-- The sum, over the larger denominator where one divides the other. -/
def Q.add (x y : Q) : Q :=
  if y.den % x.den = 0 then ⟨x.num * (y.den / x.den : Nat) + y.num, y.den⟩
  else if x.den % y.den = 0 then ⟨x.num + y.num * (x.den / y.den : Nat), x.den⟩
  else ⟨x.num * y.den + y.num * x.den, x.den * y.den⟩
def Q.sub (x y : Q) : Q := x.add y.neg
def Q.mul (x y : Q) : Q := ⟨x.num * y.num, x.den * y.den⟩
/-- Division by a rational that is not zero. -/
def Q.div (x y : Q) : Q :=
  if y.num < 0 then ⟨-(x.num * y.den), x.den * y.num.natAbs⟩ else ⟨x.num * y.den, x.den * y.num.natAbs⟩
def Q.lt (x y : Q) : Bool := decide (x.num * y.den < y.num * x.den)
def Q.le (x y : Q) : Bool := decide (x.num * y.den ≤ y.num * x.den)
def Q.eq (x y : Q) : Bool := decide (x.num * y.den = y.num * x.den)
def Q.isZero (x : Q) : Bool := decide (x.num = 0)
def Q.isNeg (x : Q) : Bool := decide (x.num < 0)
def Q.floor (x : Q) : Int := x.num / (x.den : Int)
def Q.min (x y : Q) : Q := if x.le y then x else y
def Q.max (x y : Q) : Q := if x.le y then y else x
/-- `x · 2^e`. -/
def Q.scale (x : Q) (e : Int) : Q :=
  if 0 ≤ e then ⟨x.num * (2 : Int) ^ e.toNat, x.den⟩ else ⟨x.num, x.den * 2 ^ (-e).toNat⟩
/-- The exponent `e` with `2^e ≤ x < 2^(e+1)` of a positive rational. -/
def Q.log2 (x : Q) : Int :=
  let e : Int := (Nat.log2 x.num.natAbs : Int) - (Nat.log2 x.den : Int)
  if (Q.scale ⟨1, 1⟩ e).le x.abs then (if (Q.scale ⟨1, 1⟩ (e + 1)).le x.abs then e + 1 else e) else e - 1

/-- A binary float format: exponent bits and fraction bits (R21). -/
structure FloatFmt where
  eb : Nat
  fb : Nat
deriving DecidableEq, Repr

/-- binary32 (R21). -/
def fp32 : FloatFmt := ⟨8, 23⟩
/-- binary16 (R21). -/
def fp16 : FloatFmt := ⟨5, 10⟩

def FloatFmt.bias (f : FloatFmt) : Int := 2 ^ (f.eb - 1) - 1
def FloatFmt.emin (f : FloatFmt) : Int := 1 - f.bias
def FloatFmt.emax (f : FloatFmt) : Int := f.bias
def FloatFmt.signBit (f : FloatFmt) : Nat := 2 ^ (f.eb + f.fb)
/-- The bits of infinity of a sign. -/
def FloatFmt.infBits (f : FloatFmt) (neg : Bool) : Nat :=
  ofBool neg * f.signBit + (2 ^ f.eb - 1) * 2 ^ f.fb
/-- The bits of the largest finite value of a sign. -/
def FloatFmt.maxBits (f : FloatFmt) (neg : Bool) : Nat := f.infBits neg - 1
/-- The canonical quiet NaN (R22). -/
def FloatFmt.nanBits (f : FloatFmt) : Nat := f.infBits false + 2 ^ (f.fb - 1)
def FloatFmt.zeroBits (f : FloatFmt) (neg : Bool) : Nat := ofBool neg * f.signBit

/-- The value of a float's bits: a NaN, an infinity, or a sign with an exact magnitude times that sign. -/
inductive Fv where
  | nan (signalling : Bool)
  | inf (neg : Bool)
  | fin (neg : Bool) (q : Q)
deriving DecidableEq, Repr

/-- The value of the bits `x` of format `f` (R21); subnormals are kept. -/
def FloatFmt.decode (f : FloatFmt) (x : Nat) : Fv :=
  let neg := bitAt x (f.eb + f.fb)
  let e := bitsOf x f.fb f.eb
  let m := bitsOf x 0 f.fb
  if e = 2 ^ f.eb - 1 then
    if m = 0 then .inf neg else .nan (!bitAt x (f.fb - 1))
  else
    let mag : Q := if e = 0 then Q.scale ⟨m, 1⟩ (f.emin - f.fb)
      else Q.scale ⟨m + 2 ^ f.fb, 1⟩ ((e : Int) - f.bias - f.fb)
    .fin neg (if neg then mag.neg else mag)

def Fv.isNan : Fv → Bool | .nan _ => true | _ => false
def Fv.isSnan : Fv → Bool | .nan s => s | _ => false
def Fv.isInf : Fv → Bool | .inf _ => true | _ => false
def Fv.isZero : Fv → Bool | .fin _ q => q.isZero | _ => false
def Fv.sign : Fv → Bool | .nan _ => false | .inf n => n | .fin n _ => n
def Fv.neg : Fv → Fv | .nan s => .nan s | .inf n => .inf (!n) | .fin n q => .fin (!n) q.neg
/-- The exact value of a finite float, 0 of the others. -/
def Fv.q : Fv → Q | .fin _ q => q | _ => ⟨0, 1⟩
/-- NV for a signalling NaN among the inputs (R22). -/
def snanFlag (vs : List Fv) : Nat := if vs.any Fv.isSnan then fNV else 0

/-- A rounding mode; stochastic rounding carries its draw (R24, R25). -/
inductive Rm where
  | rne
  | rz
  | ru
  | rd
  | sr (draw : Nat)
deriving DecidableEq, Repr

/-- The rounding code of an instruction with its draw (R24). -/
def Rm.ofCode (code draw : Nat) : Rm :=
  match code with
  | 0 => .rne
  | 1 => .rz
  | 2 => .ru
  | 3 => .rd
  | _ => .sr draw

/-- Whether a magnitude `n + rem/den` rounds away from zero to `n + 1` (R24, `round_sr` of R25). -/
def Rm.up (rm : Rm) (neg : Bool) (n rem den : Nat) : Bool :=
  if rem = 0 then false else
  match rm with
  | .rne => decide (2 * rem > den) || (decide (2 * rem = den) && n % 2 == 1)
  | .rz => false
  | .ru => !neg
  | .rd => neg
  | .sr d =>
    if neg then decide ((den - rem) * 2 ^ 32 / den + d % 2 ^ 32 < 2 ^ 32)
    else decide (rem * 2 ^ 32 / den + d % 2 ^ 32 ≥ 2 ^ 32)

/-- `x` rounded to an integer, and whether it was inexact. -/
def roundInt (rm : Rm) (x : Q) : Int × Bool :=
  let m := x.num.natAbs
  let n := m / x.den
  let rem := m % x.den
  let r : Nat := if rm.up x.isNeg n rem x.den then n + 1 else n
  (if x.isNeg then -(r : Int) else r, rem != 0)

/-- The magnitude of `x` rounded to a multiple of `2^qe`: the multiple and whether it was inexact. -/
def roundQuantum (rm : Rm) (x : Q) (qe : Int) : Nat × Bool :=
  let r := roundInt rm (x.scale (-qe))
  (r.1.natAbs, r.2)

/-- `round(x, fmt, rm)` of R25: the bits and the flags of R23. An exact zero takes the sign `neg0`. -/
def roundQ (f : FloatFmt) (rm : Rm) (neg0 : Bool) (x : Q) : Nat × Nat :=
  if x.isZero then (f.zeroBits neg0, 0) else
  let neg := x.isNeg
  let e := x.log2
  let qe := (if e < f.emin then f.emin else e) - f.fb
  let r := roundQuantum rm x qe
  let n := r.1
  -- the rounding to the format's precision with an unbounded exponent, for the tininess test
  let u := roundQuantum rm x (e - f.fb)
  let tiny := (Q.scale ⟨u.1, 1⟩ (e - f.fb)).lt (Q.scale ⟨1, 1⟩ f.emin)
  let big := (Q.scale ⟨1, 1⟩ (f.emax + 1)).le (Q.scale ⟨n, 1⟩ qe)
  if big then
    let toMax := match rm with
      | .rne => false
      | .rz => true
      | .ru => neg
      | .rd => !neg
      | .sr _ => false
    (if toMax then f.maxBits neg else f.infBits neg, fOF ||| fNX)
  else
    let fl := if r.2 then (if tiny then fUF ||| fNX else fNX) else 0
    let mag :=
      if n < 2 ^ f.fb then n
      else
        -- `n` has fb + 1 bits, or is 2^(fb+1) after a carry
        let n' := if n = 2 ^ (f.fb + 1) then 2 ^ f.fb else n
        let e' : Int := qe + f.fb + (if n = 2 ^ (f.fb + 1) then 1 else 0)
        (e' + f.bias).toNat * 2 ^ f.fb + (n' - 2 ^ f.fb)
    (ofBool neg * f.signBit + mag, fl)

/-- The largest value of format `f` not above `x` (for bounds that round outward, R43), as bits. -/
def roundDown (f : FloatFmt) (x : Q) : Nat := (roundQ f .rd false x).1
/-- The smallest value of format `f` not below `x`, as bits. -/
def roundUpF (f : FloatFmt) (x : Q) : Nat := (roundQ f .ru false x).1

/-- A result of a float operation: bits and flags. -/
abbrev FRes := Nat × Nat

/-- The quiet NaN with the flags of an invalid operation. -/
def FloatFmt.invalid (f : FloatFmt) : FRes := (f.nanBits, fNV)

/-- The sign of a sum that is exactly zero (IEEE 754-2019, by R22). -/
def sumZeroSign (rm : Rm) (n1 n2 : Bool) : Bool :=
  if n1 == n2 then n1 else match rm with | .rd => true | _ => false

/-- Addition (R22). -/
def fAdd (f : FloatFmt) (rm : Rm) (x y : Fv) : FRes :=
  match x, y with
  | .nan _, _ => (f.nanBits, snanFlag [x, y])
  | _, .nan _ => (f.nanBits, snanFlag [x, y])
  | .inf a, .inf b => if a == b then (f.infBits a, 0) else f.invalid
  | .inf a, .fin _ _ => (f.infBits a, 0)
  | .fin _ _, .inf b => (f.infBits b, 0)
  | .fin a p, .fin b q => roundQ f rm (sumZeroSign rm a b) (p.add q)

/-- Multiplication (R22). -/
def fMul (f : FloatFmt) (rm : Rm) (x y : Fv) : FRes :=
  match x, y with
  | .nan _, _ => (f.nanBits, snanFlag [x, y])
  | _, .nan _ => (f.nanBits, snanFlag [x, y])
  | .fin a p, .fin b q => roundQ f rm (a != b) (p.mul q)
  | _, _ => if x.isZero || y.isZero then f.invalid else (f.infBits (x.sign != y.sign), 0)

/-- x × y + z with one rounding (R22, R46). -/
def fFma (f : FloatFmt) (rm : Rm) (x y z : Fv) : FRes :=
  if x.isNan || y.isNan || z.isNan then
    -- 0 × ∞ + NaN: IEEE 754 leaves to the implementation whether invalid is signalled; the caller's rule decides
    (f.nanBits, snanFlag [x, y, z])
  else if (x.isInf && y.isZero) || (x.isZero && y.isInf) then f.invalid
  else
    let ps := x.sign != y.sign
    if x.isInf || y.isInf then
      if z.isInf && z.sign != ps then f.invalid else (f.infBits ps, 0)
    else if z.isInf then (f.infBits z.sign, 0)
    else
      roundQ f rm (sumZeroSign rm ps z.sign) ((x.q.mul y.q).add z.q)

/-- Division (R22, R23). -/
def fDiv (f : FloatFmt) (rm : Rm) (x y : Fv) : FRes :=
  let s := x.sign != y.sign
  match x, y with
  | .nan _, _ => (f.nanBits, snanFlag [x, y])
  | _, .nan _ => (f.nanBits, snanFlag [x, y])
  | .inf _, .inf _ => f.invalid
  | .inf _, .fin _ _ => (f.infBits s, 0)
  | .fin _ _, .inf _ => (f.zeroBits s, 0)
  | .fin _ p, .fin _ q =>
    if q.isZero then (if p.isZero then f.invalid else (f.infBits s, fDZ))
    else roundQ f rm s (p.div q)

/-- The integer square root by bisection on bits, `n` bits of result. -/
def isqrtBits : Nat → Nat → Nat → Nat
  | 0, _, r => r
  | k + 1, x, r =>
    let r' := r + 2 ^ k
    isqrtBits k x (if r' * r' ≤ x then r' else r)

/-- The integer square root of `x`. -/
def isqrt (x : Nat) : Nat := isqrtBits (Nat.log2 x / 2 + 1) x 0

/-- A rational that rounds as √x does, in every mode and for every precision of at most `bits` bits after the
leading one: the square root of a positive rational to `bits` bits, with a half unit added when it is not exact. -/
def sqrtSurrogate (x : Q) (bits : Nat) : Q :=
  -- x = n/d = (n·d)/d²; √x = √(n·d)/d
  let nd := x.num.natAbs * x.den
  let sh := 2 * bits
  let y := nd * 2 ^ (2 * sh)
  let r := isqrt y
  if r * r = y then ⟨r, x.den * 2 ^ sh⟩ else ⟨2 * r + 1, x.den * 2 ^ (sh + 1)⟩

/-- Square root (R22). -/
def fSqrt (f : FloatFmt) (rm : Rm) (x : Fv) : FRes :=
  match x with
  | .nan s => (f.nanBits, if s then fNV else 0)
  | .inf n => if n then f.invalid else (f.infBits false, 0)
  | .fin n q =>
    if q.isZero then (f.zeroBits n, 0) else if n then f.invalid
    else roundQ f rm false (sqrtSurrogate q 32)

/-- The order of two values that are no NaN: −1, 0 or 1 as less, equal or greater. -/
def fvCompare (x y : Fv) : Int :=
  match x, y with
  | .inf a, .inf b => if a == b then 0 else if a then -1 else 1
  | .inf a, _ => if a then -1 else 1
  | _, .inf b => if b then 1 else -1
  | _, _ => if x.q.lt y.q then -1 else if x.q.eq y.q then 0 else 1

/-- `fmin` and `fmax` on bits (R132): −0 is below +0; one NaN gives the other operand; two give the canonical NaN; a
signalling NaN sets NV; the result is never rounded. -/
def fMinMax (f : FloatFmt) (max : Bool) (a b : Nat) : FRes :=
  let x := f.decode a
  let y := f.decode b
  let fl := snanFlag [x, y]
  if x.isNan && y.isNan then (f.nanBits, fl)
  else if x.isNan then (b, fl)
  else if y.isNan then (a, fl)
  else
    let c := fvCompare x y
    let less := decide (c < 0) || (c == 0 && x.sign && !y.sign)
    (if less != max then a else b, fl)

/-- Conversion of a value to a format: NaN to the canonical NaN, infinities and zeros keep their sign. -/
def fConv (f : FloatFmt) (rm : Rm) (x : Fv) : FRes :=
  match x with
  | .nan s => (f.nanBits, if s then fNV else 0)
  | .inf n => (f.infBits n, 0)
  | .fin n q => roundQ f rm n q

end Sys2Proof.Machine
end

