-- ==== Sys2Proof/Machine/Numbers.lean ====
section
/-! DEFINITION. The number formats of the chapter Numbers beside the floats: random words, block-scaled and residue
elements, the tensor header record, the Hadamard transform, A64 accumulation and the flags of a tracked register. -/

namespace Sys2Proof.Machine
open Sys2Proof

/-- One round of `kmix` (R38), numbered from 1. -/
def kmixRound (key x i : Nat) : Nat :=
  let x := (x + key + i * 0x9E3779B97F4A7C15) % 2 ^ 64
  let x := x ^^^ (x / 2 ^ 30)
  let x := x * 0xBF58476D1CE4E5B9 % 2 ^ 64
  x ^^^ (x / 2 ^ 27)

/-- The keyed mixing function (R38). -/
def kmix (key ctr : Nat) : Nat :=
  kmixRound key (kmixRound key (kmixRound key (kmixRound key (ctr % 2 ^ 64) 1) 2) 3) 4

/-- Draw number `c` of the stream with key `k`: the word, the next counter and the flags (R44, R45). -/
def drawWord (k c : Nat) : Nat × Nat × Nat :=
  (kmix k c, (c + 1) % 2 ^ 48, if c + 1 = 2 ^ 48 then fRNGWRAP else 0)

/-- `n` draws in order (R25): the words, the next counter and the flags. -/
def drawWords (k : Nat) : Nat → Nat → List Nat × Nat × Nat
  | 0, c => ([], c, 0)
  | n + 1, c =>
    let d := drawWord k c
    let r := drawWords k n d.2.1
    (d.1 :: r.1, r.2.1, d.2.2 ||| r.2.2)

/-! ### Block-scaled integers (R29 to R34) -/

/-- The widths of BZ elements (R29). -/
def bzWidths : List Nat := [1, 2, 3, 4, 5, 6, 8, 12, 16]

/-- The fields of a block header (R30); UC above 64 reads as 64. -/
def bzHeader (pp : Bool) (uc e : Nat) : Nat := ofBool pp * 2 ^ 15 + uc * 2 ^ 8 + e
def bzUC (h : Nat) : Nat := min (bitsOf h 8 7) 64
def bzE (h : Nat) : Nat := bitsOf h 0 8

/-- Element `i` of a block's element string (R31). -/
def bzCode (bytes : List Byte) (n i : Nat) : Nat := bitsOf (fromBytes bytes) (n * i) n

/-- Whether a code is poison, by the code and E alone (R29, R30). -/
def bzPoison (signed : Bool) (n e code : Nat) : Bool :=
  e == 255 || (signed && code == 2 ^ (n - 1))

/-- The integer of a code. -/
def bzInt (signed : Bool) (n code : Nat) : Int := if signed then sext code n else (code % 2 ^ n : Nat)

/-- The exact value of an element: none where it is the element NaN or its block is poison (R29, R32). -/
def bzValue (signed : Bool) (n e code : Nat) : Option Q :=
  if bzPoison signed n e code then none else some (Q.scale ⟨bzInt signed n code, 1⟩ ((e : Int) - 127))

/-- An element decoded to a float format (R32): only FP16 rounds by `rm`; FP32 is exact, or infinite where the magnitude
lies above the range. -/
def bzDecode (f : FloatFmt) (signed : Bool) (n e code : Nat) (rm : Rm) : FRes :=
  match bzValue signed n e code with
  | none => (f.nanBits, 0)
  | some q => roundQ f (if f = fp32 then .rne else rm) false q

/-- One element's encoding (R33): its code, its part of UC, its part of PP, its flags. -/
def bzEncodeElem (x : Fv) (e n : Nat) (signed : Bool) (rm : Rm) : Nat × Nat × Bool × Nat :=
  let cmax : Int := if signed then intMax n else (2 : Int) ^ n - 1
  let cmin : Int := if signed then -cmax else 0
  match x with
  | .nan s =>
    let fs := if s then fNV else 0
    if signed then (2 ^ (n - 1), 0, true, fs) else (0, 0, false, fNV ||| fs)
  | .inf neg => (wrapInt (if neg then cmin else cmax) n, 0, false, fCLIP ||| fNX)
  | .fin _ q =>
    let r := roundInt rm (q.scale (127 - (e : Int)))
    let v := r.1
    if v > cmax || v < cmin then (wrapInt (clampInt v cmin cmax) n, 0, false, fCLIP ||| fNX)
    else if v = 0 && !q.isZero then (0, 1, false, fUF ||| fNX)
    else (wrapInt v n, 0, false, if r.2 then fNX else 0)

/-- The result of encoding one block: header, codes and flags. -/
structure BzBlock where
  header : Nat
  codes : List Nat
  flags : Nat
deriving DecidableEq, Repr

/-- `bz_encode` (R33). A padded element is `none`; `rms` holds the rounding mode of each element, with its draw under
SR. The scale operand is a number of 8 bits. -/
def bzEncode (x : List (Option Fv)) (eOp prev policy thr n : Nat) (signed : Bool) (rms : List Rm) : BzBlock :=
  if eOp = 255 then
    ⟨bzHeader true 0 255, x.map fun _ => if signed then 2 ^ (n - 1) else 0, 0⟩
  else
    let e := if policy = 1 && decide (bzUC prev > thr) && decide (eOp ≥ 1) then eOp - 1 else eOp
    let rs := (x.zip rms).map fun p => match p.1 with
      | none => (0, 0, false, 0)
      | some v => bzEncodeElem v e n signed p.2
    ⟨bzHeader (rs.any fun r => r.2.2.1) (rs.foldl (fun a r => a + r.2.1) 0) e,
      rs.map fun r => r.1,
      rs.foldl (fun a r => a ||| r.2.2.2) 0⟩

/-- The element string of 64 codes of `n` bits (R31). -/
def bzString (n : Nat) (codes : List Nat) : List Byte := toBytes (packElems n codes) (8 * n)

/-! ### Residue elements (R35, R36) -/

/-- The moduli table (R35). -/
def moduli : List Nat := [32, 31, 29, 27, 25, 23, 19, 17]

/-- The modulus of a table index. -/
def modulus (i : Nat) : Nat := moduli.getD i 1

/-- The value of a residue tuple: the integer in [−h, M − 1 − h] with those residues (R36), by search over the
multiples of the partial products. -/
def rnCombine (ms rs : List Nat) : Nat × Nat :=
  (ms.zip rs).foldl (fun (acc : Nat × Nat) (p : Nat × Nat) =>
    let t := (List.range p.1).find? fun t => (acc.1 + acc.2 * t) % p.1 == p.2 % p.1
    (acc.1 + acc.2 * t.getD 0, acc.2 * p.1)) (0, 1)

/-- The signed representative of `v` modulo `m` (R36). -/
def rnSigned (v m : Nat) : Int := if v ≤ m - 1 - m / 2 then (v : Int) else (v : Int) - m

/-- An RN16 element's value under a channel set; none where it is poison (R36). -/
def rnValue (ch : List Nat) (x : Nat) : Option Int :=
  let ms := ch.map modulus
  let rs := [bitsOf x 0 5, bitsOf x 5 5, bitsOf x 10 5]
  if bitAt x 15 || (ms.zip rs).any (fun p => decide (p.1 ≤ p.2)) then none
  else
    let c := rnCombine ms rs
    some (rnSigned c.1 c.2)

/-- The residues of an integer as an RN16 element (R36). -/
def rnEncode (ch : List Nat) (v : Int) : Nat :=
  ((ch.map fun i => (v % (modulus i : Int)).toNat).zip [0, 5, 10]).foldl (fun a p => a + p.1 * 2 ^ p.2) 0

/-! ### The tensor header record (R37) -/

/-- The fields of a tensor header record. -/
structure TensorRec where
  had : Bool
  thr : Nat
  pol : Nat
  wid : Nat
  fmt : Nat
  blks : Nat
  seed : Nat
  hbase : Nat
  ebase : Nat
  /-- A reserved bit of the record is set. -/
  reserved : Bool
deriving DecidableEq, Repr

/-- The record in 32 bytes. -/
def TensorRec.parse (bs : List Byte) : TensorRec :=
  let x := fromBytes bs
  let q3 := bitsOf x 192 64
  { had := bitAt q3 51, thr := bitsOf q3 44 7, pol := bitsOf q3 42 2, wid := bitsOf q3 37 5, fmt := bitsOf q3 32 5,
    blks := bitsOf q3 0 32, seed := bitsOf x 128 64, hbase := bitsOf x 64 53, ebase := bitsOf x 0 53,
    reserved := bitsOf q3 52 12 != 0 || bitsOf x 117 11 != 0 || bitsOf x 53 11 != 0 }

/-- Formats 0 and 1 are the block-scaled ones. -/
def TensorRec.isBZ (r : TensorRec) : Bool := decide (r.fmt ≤ 1)
def TensorRec.signed (r : TensorRec) : Bool := r.fmt == 0

/-- The second check of R37: every field in its range, every reserved bit 0. -/
def TensorRec.fieldsOk (r : TensorRec) : Bool :=
  !r.reserved && decide (r.thr ≤ 64) && decide (r.pol ≤ 1) && decide (r.fmt ≤ 4) && decide (r.blks ≥ 1) &&
  (if r.isBZ then bzWidths.contains r.wid && !(r.signed && r.wid == 1) else r.wid == 0 && r.hbase == 0)

/-- The third check of R37: the alignment of the bases. -/
def TensorRec.basesAligned (r : TensorRec) : Bool := r.ebase % 32 == 0 && r.hbase % 2 == 0

/-- The bytes of one block's elements (R31, R37). -/
def TensorRec.blockBytes (r : TensorRec) : Nat :=
  match r.fmt with
  | 2 => 128
  | 3 => 128
  | 4 => 256
  | _ => 8 * r.wid

/-! ### The Hadamard pre-transform (R38, R39) -/

/-- Whether the term of input `i` in output `j` is negated: the Walsh sign, and σ where it is given. -/
def whtNeg (sigma i j : Nat) : Bool := (popcount (i &&& j) 6 % 2 == 1) != bitAt sigma i

/-- One output of `wht64` (R39). An infinite input makes the outputs infinite with the sign of its term; infinities of
both signs in one sum are an invalid operation and make a NaN. A NaN that comes from an invalid operation or from a
signalling input is marked signalling, so that the encoder sets NV for it (R22, R23; log entry 57). -/
def whtOut (x : List Fv) (sigma j : Nat) : Fv :=
  if x.any Fv.isNan then .nan (x.any Fv.isSnan) else
  let ts := x.zipIdx.map fun p => if whtNeg sigma p.2 j then p.1.neg else p.1
  let pinf := ts.any fun t => t.isInf && !t.sign
  let ninf := ts.any fun t => t.isInf && t.sign
  if pinf && ninf then .nan true else if pinf then .inf false else if ninf then .inf true
  else
    let q : Q := ts.foldl (fun (a : Q) t => a.add t.q) ⟨0, 1⟩
    .fin q.isNeg (q.scale (-3))

/-- `wht64` with the signs of σ applied to the inputs (R39). -/
def wht64 (x : List Fv) (sigma : Nat) : List Fv := (List.range 64).map (whtOut x sigma)

/-- The inverse: `wht64` with no sign flip, then the signs of σ flipped (R39). -/
def wht64Inv (y : List Fv) (sigma : Nat) : List Fv :=
  (wht64 y 0).zipIdx.map fun p => if bitAt sigma p.2 then p.1.neg else p.1

/-! ### A64 accumulators (R40, R41) -/

/-- An accumulator: 64 bits of two's complement and the poison bit (R40). -/
structure Acc where
  v : BitVec 64
  poison : Bool
deriving DecidableEq, Repr

/-- `a64_add` (R41): the accumulator and RANGE. -/
def a64Add (a : Int) (p : Int) (sa sb point : Int) : Int × Nat :=
  let s := sa + sb - point
  let t := if 0 ≤ s then p * (2 : Int) ^ s.toNat else (roundInt .rne (Q.scale ⟨p, 1⟩ s)).1
  let v := a + t
  if v > intMax 64 then (intMax 64, fRANGE) else if v < intMin 64 then (intMin 64, fRANGE) else (v, 0)

/-! ### Tracked registers (R42, R43) -/

/-- A tracked register (R42). -/
structure QReg where
  lo : BitVec 32
  hi : BitVec 32
  handle : BitVec 24
  pt : Bool
  inf : Bool
  opq : Bool
  und : Bool
  nan : Bool
deriving DecidableEq, Repr

/-- The exact point +0 (R77). -/
def QReg.zero : QReg := ⟨0, 0, 0, true, false, false, false, false⟩

/-- The 96 bits of a tracked register (R42). -/
def QReg.bits (q : QReg) : Nat :=
  q.lo.toNat + q.hi.toNat * 2 ^ 32 + q.handle.toNat * 2 ^ 64 + ofBool q.pt * 2 ^ 88 + ofBool q.inf * 2 ^ 89 +
    ofBool q.opq * 2 ^ 90 + ofBool q.und * 2 ^ 91 + ofBool q.nan * 2 ^ 92

/-- R43: LO ≤ HI, no bound a NaN, a zero bound stored as +0. -/
def QReg.wf (q : QReg) : Bool :=
  let l := fp32.decode q.lo.toNat
  let h := fp32.decode q.hi.toNat
  !l.isNan && !h.isNan && decide (fvCompare l h ≤ 0) && q.lo != 0x80000000 && q.hi != 0x80000000

end Sys2Proof.Machine
end

