-- ==== Sys2Proof/Machine/State.lean ====
section
/-! DEFINITION. The state of the machine as plain data: every object of the manual's chapters, and State.reset. -/

namespace Sys2Proof.Machine
open Sys2Proof

/-! ### The thread (R77, R78) -/

/-- A bypass latch (R58): data, valid bit, and whether its result is not yet produced. -/
structure Latch where
  data : BitVec 64
  valid : Bool
  pend : Bool
deriving DecidableEq, Repr

/-- An invalid latch. -/
def Latch.none : Latch := ⟨0, false, false⟩

/-- A lane's fault: class, detail and the words of R326. -/
structure LaneFault where
  cls : Nat
  detail : Nat
  eaddr : Nat
  einfo : Nat
  emask : Nat
deriving DecidableEq, Repr

/-- Why a lane waits (R78, the wait records of R101), with the operands that its instruction captured at issue. -/
inductive WaitOn where
  /-- `wait jn` (R118). -/
  | mask (j : Nat)
  /-- A block barrier (R287, R288). -/
  | bar (b : Nat)
  /-- The barrier of a cast (R290). -/
  | cast (c : Nat)
  /-- A package barrier (R295). -/
  | pkg (id : Nat)
  /-- `bwait n` (R255). -/
  | batch (n : Nat)
  /-- `twait A` (R200). -/
  | moves (n : Nat)
  /-- `twait.t pV, tA` (R200): commands of the block issued before number `upto`. -/
  | tile (t upto pred : Nat)
  /-- `waitev` (R306). -/
  | word (addr target : Nat)
  /-- `rput` or `rget` on slots that are not ready (R272): the number of its group. -/
  | ring (group : Nat)
  /-- `mboxr` on an empty mailbox (R320). -/
  | mailbox (addr : Nat) (w : Fields)
  /-- `done`, `idemb` or `ideme` (R277, R278). -/
  | region (kind : Nat)
deriving DecidableEq, Repr

/-- What an instruction that has issued in a lane and has not completed goes on after. -/
inductive AgainOn where
  /-- A copy of the range scoreboard leaves (R256). -/
  | range (copy : Nat)
  /-- The next event after a count of events: a walk or a free place may have come (log entry 10). -/
  | news (n : Nat)
deriving DecidableEq, Repr


/-- A scratchpad access that has issued and waits behind the range scoreboard (R256): its lane goes on. What it writes or
adds, and what `cas` expects, were read at issue. -/
structure LateOp where
  id : Nat
  ci : Nat
  lane : Nat
  op : Nat
  w : Fields
  sa : Nat
  n : Nat
  b : Nat
  d : Nat
deriving DecidableEq, Repr

/-- Why a lane is parked (R127, R329). -/
inductive Park where
  /-- A fault that the driver's page service holds (R355): the entry's number, and that of the lane's sub-crew (R329). -/
  | page (f : LaneFault) (entry group : Nat)
  /-- A PAGE fault that waits for room in the page-fault ring (R355), with the lane's sub-crew. -/
  | pagePost (f : LaneFault) (kind group : Nat)
  /-- A `qcmp`, `qldd`, `qref` or `qcutx` that waits for the retake engine (R170, R172): its sub-crew's number. -/
  | refine (group : Nat)
  /-- `hcall`: waiting for the reply of an entry (R339): the destination register and the length of the instruction. -/
  | hcall (entry d len : Nat)
  /-- `hcall` on a full ring (R340): the lanes of one `hcall` have one number; the lane's request, destination and length. -/
  | hcallPost (group request d len : Nat)
  /-- The refinement or the page service has answered: the lane replays at the next regroup. -/
  | replay
deriving DecidableEq, Repr

/-- A crew register with what R56 needs for writes of one cycle. -/
structure KCell where
  cur : Word
  prev : Word
  cycle : Nat
  lane : Nat
deriving DecidableEq, Repr

/-- An instruction that has issued in a lane and goes on later: the lane stays READY with its PC at the instruction (R78). The crew
registers are those that it read at issue (R5). -/
structure Again where
  on : AgainOn
  instr : Instr
  k : List KCell
deriving DecidableEq, Repr

/-- The state of a thread (R78). SAVED is the state of its block. -/
inductive TState where
  | ready
  /-- The wait record, and the length of the instruction that waits. -/
  | waiting (w : WaitOn) (len : Nat)
  | parked (p : Park)
  | exited
deriving DecidableEq, Repr

/-- A thread (R77). -/
structure Thread where
  pc : BitVec 64
  g : List Word
  o : List Word
  q : List QReg
  /-- p0 to p6; p7 is constant 1. -/
  p : List Bool
  latches : List Latch
  /-- The random counter (R45). -/
  rand : BitVec 48
  /-- The batch counter (R247). -/
  batch : BitVec 32
  /-- The depth of the return stack (R115). -/
  depth : Nat
  st : TState
  /-- The ageing counter (R108). -/
  age : Nat
  /-- The stale-copy mark with the line it names (R111). -/
  stale : Option Nat
  /-- The instruction-buffer lines that the last issued instruction came from (R111). -/
  lastIb : List Nat
  /-- The cycle before which the next instruction does not issue (R62). -/
  stallUntil : Nat
  /-- The lane executed `yield` since the last regroup (R109). -/
  yielded : Bool
  ecause : Word
  epc : BitVec 64
  eaddr : BitVec 64
  einfo : BitVec 64
  emask : BitVec 128
  elanes : Word
  /-- Handler mode (R331). -/
  hmode : Bool
  /-- Outstanding accesses to peers and to non-coherent host memory (R232, R374). -/
  reqs : List Nat
  /-- The iteration at which a parked sweep resumes (R65). -/
  sweepI : Nat
  /-- The iteration of the delivered fault, to which `rett` returns unless s.epc has been written (R65, R335). -/
  resumeI : Nat
  /-- The latches of an instruction whose issue is held, and whether the latches were lost since. -/
  keep : Option (List Latch)
  keepLost : Bool
  /-- Its instruction has issued and has not completed. -/
  again : Option Again
deriving DecidableEq, Repr

/-- A thread at creation (R77): `g` registers, entry point. -/
def Thread.create (gregs entry : Nat) : Thread :=
  { pc := BitVec.ofNat 64 entry, g := List.replicate gregs 0, o := List.replicate 8 0, q := List.replicate 8 QReg.zero,
    p := List.replicate 7 false, latches := List.replicate 4 Latch.none, rand := 0, batch := 0, depth := 0, st := .ready,
    age := 0, stale := none, lastIb := [], stallUntil := 0, yielded := false, ecause := 0, epc := 0, eaddr := 0,
    einfo := 0, emask := 0, elanes := 0, hmode := false, reqs := [], sweepI := 0, resumeI := 0, keep := none, keepLost := false,
    again := none }

/-! ### The crew (R101) -/

/-- A bundle: lanes that stand at one PC (R105). -/
structure Bundle where
  lanes : List Nat
deriving DecidableEq, Repr

/-- A slot of a crew's gathered increments (R363). -/
structure DailySlot where
  counter : Nat
  sum : Word
deriving DecidableEq, Repr

/-- A crew (R101 to R109). -/
structure Crew where
  idx : Nat
  live : Bool
  k : List KCell
  j : List Word
  fstat : Word
  fmask : Word
  role : Nat
  slice : Nat
  slot : Nat
  threads : List Thread
  bundles : List Bundle
  /-- The cycle of the last pick (R107). -/
  lastPick : Nat
  /-- A hold in force for the next cycle, and how many consecutive held picks have been made (R62). -/
  holdFor : Option Nat
  heldPicks : Nat
  /-- The cycle in which the crew is out of the choice by YLD or `yield` (R62, R109). -/
  skipCycle : Option Nat
  /-- The cycle of the records below, and what was set in it (R28, R117, R330, R338). -/
  cyc : Nat
  cycFstat : Word
  cycFmask : Word
  /-- Masks that `jclr` has cleared in the cycle: it takes effect last (R117). -/
  cycClr : List Nat
  /-- Lanes that have faulted in the cycle (R338). -/
  cycFaults : List Nat
  /-- s.tmr (R337). -/
  tmr : BitVec 64
  /-- The timer has fired with this comparator and TIMER has not been taken yet (R338). -/
  fired : Option Nat
  /-- Lanes that are to take TIMER of a comparator that has fired, as soon as they are between two instructions (R338). -/
  owed : List (Nat × Nat)
  dailies : List DailySlot
  /-- The cycle of the oldest increment not flushed (R363). -/
  dailyAge : Option Nat
deriving DecidableEq, Repr

/-- A crew at creation (R101). -/
def Crew.create (idx gregs kregs role slice slot entry clk : Nat) : Crew :=
  { idx, live := true, k := List.replicate kregs ⟨0, 0, 0, 0⟩, j := List.replicate 8 0, fstat := 0, fmask := 0, role,
    slice, slot, threads := List.replicate 32 (Thread.create gregs entry), bundles := [], lastPick := clk,
    holdFor := none, heldPicks := 0, skipCycle := none, cyc := 0, cycFstat := 0, cycFmask := 0, cycClr := [], cycFaults := [], tmr := 0,
    fired := none, owed := [],
    dailies := [], dailyAge := none }

/-! ### Call sheets and launches (R309 to R314) -/

/-- The fields of a call sheet (R309). -/
structure Sheet where
  addr : Nat
  entry : Nat
  director : Nat
  gregs : Nat
  qregs : Nat
  kregs : Nat
  crews : Nat
  roles : Nat
  scratch : Nat
  carve : Nat
  reel : Nat
  pmode : Nat
  retry : Nat
  det : Bool
  idem : Bool
  priv : Nat
  nx : Nat
  ny : Nat
  nz : Nat
  spill : Nat
  casts : Nat
  events : Nat
  deadline : Nat
  takes : Nat
  pbase : Nat
  tbase : Nat
  tsx : Nat
  tsy : Nat
  tsz : Nat
  spbase : Nat
  part : Nat
  lims : List Nat
deriving DecidableEq, Repr

/-- The state of a launch (R312). -/
inductive LState where
  | splitting
  | running
  | done
  | failed
  | cancelled
deriving DecidableEq, Repr

/-- The barrier of a cast at the hub (R274, R291, R293): its members by linear index, the released phases, the arrivals of
the open phase with the hub cycle of each, and the last arriver of each released phase. -/
structure CastHub where
  members : List Nat
  g : Nat
  arrived : List (Nat × Nat)
  lasts : List (Option Nat)
deriving DecidableEq, Repr

/-- A package barrier at the hub (R294, R296): the block arrivals of the open phase and of the next one, each by launch
and linear index, and the core cycle at which a COUNTDOWN elapses. -/
structure PkgHub where
  id : Nat
  count : Nat
  g : Nat
  arrived : List (Nat × Nat)
  next : List (Nat × Nat)
  ending : Option Nat
deriving DecidableEq, Repr

/-- A launch (R312): its queue, tag and sheet, and per block of the grid what has happened. -/
structure Launch where
  tag : Nat
  ctx : Nat
  queue : Nat
  sheetAddr : Nat
  sheet : Sheet
  state : LState
  /-- The hub cycle of the pick, from which the deadline counts. -/
  picked : Nat
  /-- The event word that the record signals (R301). -/
  signal : Option Nat
  ser : Bool
  /-- The blocks that are spawned and not killed, by linear index (R321). -/
  spawned : List Nat
  /-- The s.attempt with which a killed block is to be spawned again, by linear index (R280). -/
  attempts : List (Nat × Nat)
  retired : List Nat
  /-- The casts of the launch (R274). -/
  casts : List CastHub
  /-- The regions of the take table (R323). -/
  regions : List (Nat × Nat)
  /-- Completion records (R276). -/
  recorded : List Nat
deriving DecidableEq, Repr

/-! ### Contexts (R324, R325, R352) -/

/-- The state of a context slot (R325). -/
inductive CtxState where
  | free
  | ready
  | running
  | draining
  | saved
  | faulted
  | reset
deriving DecidableEq, Repr

/-- A context slot: its registers, and the deadlines that the hub runs for it. -/
structure Context where
  state : CtxState
  logcnt : Nat
  lastcls : Nat
  root : Nat
  tvec : Nat
  tmask : Nat
  sbase : Nat
  ssize : Nat
  rslot : Nat
  dbase : Nat
  dcount : Nat
  seed : Nat
  resetus : Nat
  drainus : Nat
  lbase : Nat
  log2n : Nat
  hbase : Nat
  log2h : Nat
  pfbase : Nat
  log2p : Nat
  xbase : Nat
  nexp : Nat
  ctlbseq : Nat
  /-- TAIL and HEAD of the page-fault ring and of the host-call ring (R339, R355). -/
  pfTail : Nat
  pfHead : Nat
  hcTail : Nat
  hcHead : Nat
  /-- The hub cycles at which the drain and the reset deadline pass (R341). -/
  drainEnd : Option Nat
  resetEnd : Option Nat
  /-- The context entered RESET by the reset deadline (R325). -/
  byDeadline : Bool
  /-- The drain deadline has passed and the save step runs (R341). -/
  saving : Bool
  /-- The package barriers that have left their state at ALLOC (R294). -/
  pkgs : List PkgHub
deriving DecidableEq, Repr

/-! ### Blocks (R263) -/

/-- The state of a block (R264). -/
inductive BState where
  | placing
  | resident
  | retiring
  | saved
deriving DecidableEq, Repr

/-- A node of a reel (R161, R162): its handle, fields, and whether it has been spilled. -/
structure RNode where
  handle : Nat
  op : Nat
  count : Nat
  nfl : Nat
  stage : Nat
  /-- Children 0 to 2 of an operation; none for a leaf. -/
  kids : List Nat
  payload : Nat
  spilled : Bool
deriving DecidableEq, Repr

/-- A block's reel (R160): the live nodes in the order of their appends, the sweep queue and the spill total. -/
structure Reel where
  nodes : List RNode
  sweep : List Nat
  spills : Nat
deriving DecidableEq, Repr

/-- A reel with no node. -/
def Reel.empty : Reel := ⟨[], [], 0⟩

/-! ### Tiles (R180 to R208) -/

/-- How a command or copy is held for a page fault (R202, R252). -/
inductive PageHold where
  /-- Waiting for room in the page-fault ring: detail, address and access kind (R355). -/
  | post (detail addr kind : Nat)
  /-- Waiting for an entry of the ring to be answered: its number, and the fault as above. -/
  | entry (num detail addr kind : Nat)
deriving DecidableEq, Repr

/-- The state of a tile name (R186). -/
inductive TileState where
  | unbound
  | pending
  | bound
  | error
deriving DecidableEq, Repr

/-- A tile name: its state and dimensions as the instructions issued so far leave them (0 while an image is to give
them), and its part of the tile store as the commands done so far leave it. -/
structure Tile where
  st : TileState
  m : Nat
  n : Nat
  acc : List Acc
  units : Nat
  /-- The remembered descriptor, 32 bytes as a number (R189). -/
  desc : Option Nat
  /-- The stored width ws that goes with the descriptor, 0 where no image has been read (R189). -/
  ws : Nat
  /-- The error cause of the present binding, 0 for none (R202). -/
  cause : Nat
  ue : Bool
deriving DecidableEq, Repr

/-- An unbound tile name. -/
def Tile.unbound : Tile := ⟨.unbound, 0, 0, [], 0, none, 0, 0, false⟩

/-- A stopped `mrun` for an image (R203): its number among the commands, its w, operands and steps done, and the descriptor as loaded for
its step 0. -/
structure HeldOp where
  cmd : Nat
  w : BitVec 64
  a : Nat
  ks : Nat
  kdone : Nat
  desc : Option Nat
deriving DecidableEq, Repr

/-- A tile command with what it captured at issue (R184). Operations are numbered by opcode. -/
structure TileCmd where
  id : Nat
  ci : Nat
  op : Nat
  w : Fields
  /-- The named tiles, the destination first, with the dimensions and the precision register of each. -/
  tiles : List Nat
  m : Nat
  n : Nat
  wregs : List (BitVec 64)
  a : Nat
  b : Nat
  /-- The lanes of `tsl` and `tss` with the values that `tss` read. -/
  lanes : List (Nat × Nat)
  kdone : Nat
  flags : Nat
  /-- The copy that carries the command (R206). -/
  copy : Option Nat
  /-- The `mrun` that this `msave.stop` stops, and what it holds once that has stopped. -/
  stops : Option Nat
  held : Option HeldOp
  /-- The order in which the command began to wait for units (R186). -/
  waiting : Option Nat
  /-- An `mrest` that has its units. -/
  granted : Bool
  hold : Option PageHold
deriving DecidableEq, Repr

/-- A block of an image in the array: its exponent and the stored codes (R189). -/
structure ImgBlock where
  e : Nat
  codes : List Nat
deriving DecidableEq, Repr

/-- The image in an array: its tile and step, whether it is RN, and its blocks by column; none is padding. -/
structure Image where
  uid : Nat
  tile : Nat
  step : Nat
  ws : Nat
  rn : Bool
  cols : List (List (Option ImgBlock))
deriving DecidableEq, Repr

/-- The command that a core's array serves, whether its step runs (R196), and the bytes of A that the step read. -/
structure ArrayOp where
  uid : Nat
  cmd : Nat
  running : Bool
  rows : List Byte
deriving DecidableEq, Repr

/-! ### Rings and barriers of a block -/

/-- The state of a ring's slot (R271); a FILLING slot holds the copies that it waits for. -/
inductive SlotState where
  | empty
  | filling (copies : List Nat)
  | full
deriving DecidableEq, Repr

/-- A stage ring (R271). The width is its code: 0 for 4 bytes, 1 for 8, 2 for 16. -/
structure Ring where
  base : Nat
  n : Nat
  width : Nat
  pidx : Nat
  cidx : Nat
  slots : List SlotState
deriving DecidableEq, Repr

/-- A ring at block creation. -/
def Ring.none : Ring := ⟨0, 0, 0, 0, 0, []⟩

/-- The active lanes of one `rput` or `rget` that wait together (R272): each lane's item and the copies it carries. -/
structure RingWait where
  group : Nat
  ring : Nat
  put : Bool
  ci : Nat
  pc : Nat
  len : Nat
  w : Fields
  lanes : List (Nat × Nat × List Nat)
deriving DecidableEq, Repr

/-- An arrival at a barrier (R284): crew, lane, the predicate of a .last form, the cycle, and the copies carried (R255). -/
structure Arr where
  ci : Nat
  lane : Nat
  last : Option Nat
  cycle : Nat
  carried : List Nat
deriving DecidableEq, Repr

/-- A block barrier (R287, R288): IDLE without arrivals. `met` holds the s.tid of the thread that met the target, while
carried copies still hold the release; `exits` counts the block's exited threads as the phase has last seen them. -/
structure Bar where
  count : Nat
  arrs : List Arr
  met : Option Nat
  exits : Nat
deriving DecidableEq, Repr

/-- A block barrier that is IDLE. -/
def Bar.idle : Bar := ⟨0, [], none, 0⟩

/-- The outstanding arrivals of a block's threads on a cast or package barrier (R290, R295): `sent` is the phase of the
block's own arrival once that is made, `counted` says that the hub has it, `freed` that its phase was released before the barrier
was configured anew (R294). -/
structure Meet where
  key : Nat
  arrs : List Arr
  sent : Option Nat
  counted : Bool
  freed : Bool
deriving DecidableEq, Repr

/-- What a block's program can change and a region snapshot restores (R277). -/
structure Body where
  crews : List Crew
  /-- Scratchpad bytes that are not 0. -/
  scratch : List Host.Cell
  /-- Lines of scratchpad marked uncorrectable (R393). -/
  bad : List Nat
  /-- The slate buffer of a deterministic launch (R282): the last byte stored at each place. -/
  slate : List Host.Cell
  /-- The places of those that lie in the context's slate area (R282). -/
  slateOut : List Nat
  /-- The 8 KiB virtual pages that those stores were translated on (R353). -/
  slatePages : List Nat
  reel : Reel
  /-- The precision registers (R182). -/
  prec : List (BitVec 64)
  rings : List Ring
  ringWaits : List RingWait
  /-- The cycle of the last put or take, plus 1, and the place above its own in the order of that cycle (R272). -/
  ringAt : Nat × Nat
  bars : List Bar
  casts : List Meet
  pkgs : List Meet
  /-- The arrival numbers k of casts and of package barriers (R291, R295). -/
  castK : List (Nat × Nat)
  pkgK : List (Nat × Nat)
deriving DecidableEq, Repr

/-- The contents of a block with some crews at its creation (R263). -/
def Body.create (crews : List Crew) : Body :=
  { crews, scratch := [], bad := [], slate := [], slateOut := [], slatePages := [], reel := Reel.empty, prec := List.replicate 16 0, rings := List.replicate 8 Ring.none,
    ringWaits := [], ringAt := (0, 0), bars := List.replicate 16 Bar.idle, casts := [], pkgs := [], castK := [], pkgK := [] }

/-- A staged reduction (R260): context, element, operation, type, source block, value. -/
structure StageSlot where
  ctx : Nat
  elem : Nat
  fn : Nat
  ty : Nat
  src : Nat
  val : Nat
deriving DecidableEq, Repr

/-- A block (R263). -/
structure Block where
  uid : Nat
  ctx : Nat
  launch : Nat
  lin : Nat
  attempt : Nat
  state : BState
  die : Nat
  core : Nat
  rslot : Nat
  sheet : Sheet
  /-- The director crew of a die (R316), which is no block of a launch. -/
  isDirector : Bool
  body : Body
  /-- Lines of interleaved private memory that have been written back: crew and virtual line (R213, R323). -/
  privBack : List (Nat × Nat)
  /-- The block is IN an idempotent region (R277). -/
  inside : Bool
  /-- The entry snapshot of the region (R277). -/
  snap : Option Body
  /-- A `done` that takes effect at the region's end (R276). -/
  deferred : Bool
  /-- Staging writes held for the region, oldest first, each with its crew (R278). -/
  heldStage : List (Nat × StageSlot)
  tiles : List Tile
  /-- The incomplete tile commands in issue order (R185). -/
  cmds : List TileCmd
  /-- The scratchpad accesses that wait for the range scoreboard, in issue order (R256). -/
  late : List LateOp
  /-- The virtual clock for the array, and whether the block had a ready array command (R195). -/
  vclock : Nat
  wantsArray : Bool
deriving DecidableEq, Repr

/-- The closed slate buffer of a retired block (R282), by launch and linear index. -/
structure SlateBuf where
  /-- The block that it was. -/
  uid : Nat
  launch : Nat
  lin : Nat
  die : Nat
  ctx : Nat
  cells : List Host.Cell
  out : List Nat
  /-- The virtual pages of its stores. -/
  pages : List Nat
deriving DecidableEq, Repr

/-! ### Caches and memory -/

/-- A line of a core's L1 (R213). -/
structure L1Line where
  core : Nat
  ctx : Nat
  vline : Nat
  pline : Nat
  data : List Byte
  valid : BitVec 128
  written : BitVec 128
  tag : BitVec 2
  /-- A line of interleaved private memory of a crew: no notice, dropped at crew release (R79, R213). -/
  priv : Option (Nat × Nat)
  /-- Marked uncorrectable by the scrubber (R393). -/
  bad : Bool
deriving DecidableEq, Repr

/-- The state of a line in a die's L2 (R212); I lines are not listed. -/
inductive L2State where
  | s
  | e
  | m
deriving DecidableEq, Repr

/-- A line of a die's L2. The hub's copies of watched lines stand here too, under numbers from 8: 8 + n for the TAIL of queue n,
1,032 + n for its event words (R300, R302). -/
structure L2Line where
  die : Nat
  line : Nat
  st : L2State
deriving DecidableEq, Repr

/-- Holders of a line outside the dies, in the directory (R211): sharers, and an owner that holds it in M. -/
structure DirEntry where
  line : Nat
  host : Bool
  peers : List Nat
  coarse : BitVec 64
  owner : Option Nat
deriving DecidableEq, Repr

/-- A release record (R215). -/
structure RelRec where
  line : Nat
  core : Nat
  /-- The peer device whose core released, none for a core of this device. -/
  home : Option Nat
  /-- The context whose program released. -/
  ctx : Nat
  epoch : Nat
  published : Bool
deriving DecidableEq, Repr

/-- A write intent (R220). -/
structure Intent where
  line : Nat
  core : Nat
  /-- The peer device whose core wrote, none for a core of this device. -/
  home : Option Nat
  ctx : Nat
  epoch : Nat
  mask : BitVec 128
deriving DecidableEq, Repr

/-- A line of a core's instruction buffer (R110, R111). -/
structure IbLine where
  id : Nat
  core : Nat
  ctx : Nat
  vline : Nat
  data : List Byte
  stale : Bool
  lastUse : Nat
deriving DecidableEq, Repr

/-- Where a TLB stands: in a core or in a die (R351). -/
inductive TlbAt where
  | core (c : Nat)
  | die (d : Nat)
deriving DecidableEq, Repr

/-- A cached leaf (R349, R351). `tag` is the launch of a shadow translation (R365). -/
structure TlbEntry where
  at_ : TlbAt
  ctx : Nat
  vpage : Nat
  /-- The level of the leaf: 3 for 8 KiB, 2 for 8 MiB, 1 for 8 GiB (R348). -/
  level : Nat
  tag : Option Nat
  frame : Nat
  type : Nat
  exid : Nat
  rd : Bool
  wr : Bool
  xe : Bool
  usr : Bool
  dirty : Bool
  /-- The physical address of the entry. -/
  entryAddr : Nat
deriving DecidableEq, Repr

/-- A leaf that a walk reaches (R349). -/
structure Leaf where
  level : Nat
  frame : Nat
  type : Nat
  exid : Nat
  rd : Bool
  wr : Bool
  xe : Bool
  usr : Bool
  dirty : Bool
  entryAddr : Nat
deriving DecidableEq, Repr

/-- A page walk for a die (R351), with the cores that wait for it. A walk that has ended without a leaf to cache is held
until its waiters have seen its outcome: a fault, or the leaf of an expert page that is not resident. -/
structure Walk where
  id : Nat
  die : Nat
  ctx : Nat
  /-- The 8 KiB virtual page. -/
  vpage : Nat
  tag : Option Nat
  waiters : List Nat
  done : Bool
  fault : Option (Nat × Nat)
  leaf : Option Leaf
deriving DecidableEq, Repr

/-! ### Cores and dies -/

/-- A core's own state beside what it holds for blocks (R11). -/
structure CoreSt where
  carve : Nat
  /-- PENDING: the carve that the core takes when it is empty (R269). -/
  pendingCarve : Option Nat
  epoch : Nat
  /-- Closed epochs that are not published, oldest first (R215). -/
  closed : List Nat
  /-- Lines with an address that the core has read at the L2 while they held another core's unpublished release record: an
  acquire fence after such a read acts as an acquire (R225). -/
  heard : List (Nat × Nat)
  /-- Per slice, the crew that issued last: block and crew (R59). -/
  lastCrew : List (Option (Nat × Nat))
  array : Option ArrayOp
  image : Option Image
deriving DecidableEq, Repr

/-- A compute die's own state. -/
structure DieSt where
  clock : Nat
  /-- The mailbox (R315). -/
  mailbox : List (List Byte)
  /-- The packet that the director serves (R317), and the hub cycle at which it called a custom routine (R318). -/
  serving : Option (List Byte)
  called : Option Nat
deriving DecidableEq, Repr

/-! ### Copies (R246 to R262) -/

/-- The state of a copy (R252); DONE and FAILED copies are not listed. -/
inductive CopyState where
  | queued
  | moving
  /-- HELD for a page fault. -/
  | held (h : PageHold)
deriving DecidableEq, Repr

/-- The captured fields of a copy descriptor (R248). -/
structure CopyDesc where
  gaddr : Nat
  saddr : Nat
  gstride : Nat
  sstride : Nat
  rowb : Nat
  rows : Nat
  kind : Nat
  dir : Nat
  xtra : Nat
deriving DecidableEq, Repr

/-- A copy entry (R246, R252): who issued it, its batch, its die queue, and its scoreboard range (R256). -/
structure Copy where
  id : Nat
  uid : Nat
  core : Nat
  ctx : Nat
  ci : Nat
  lane : Nat
  op : Nat
  batch : Nat
  /-- The address of its instruction. -/
  pc : Nat
  queue : Option Nat
  st : CopyState
  descAddr : Nat
  desc : CopyDesc
  /-- First byte, length, and whether the copy writes the range. -/
  range : Option (Nat × Nat × Bool)
  /-- The destination as an intent of the core (R219): lines with their bytes, and the epoch. -/
  dest : List (Nat × BitVec 128)
  epoch : Nat
  /-- Pieces already moved, and whether all are. -/
  moved : Nat
  /-- What a home outside the device has answered for the next piece. -/
  arrived : Option (List Byte)
  /-- The record of KIND 1, once the copy has read it. -/
  head : Option (List Byte)
  landed : Bool
  /-- Flags of the elements moved so far. -/
  flags : Nat
  /-- The tile command that follows (R258). -/
  follow : Option Nat
deriving DecidableEq, Repr

/-! ### Experts, take regions, page faults, checkpoint (R355 to R368) -/

/-- The state of an expert (R359); ABSENT ones are not listed. -/
inductive EState where
  /-- FETCHING; `started` once its record has been read. -/
  | fetching (started : Bool)
  | resident
  | failed
deriving DecidableEq, Repr

/-- An expert of a context, with the range, source and length of its record once that is read (R358). -/
structure Expert where
  ctx : Nat
  id : Nat
  st : EState
  vbase : Nat
  npg : Nat
  src : Nat
  saddr : Nat
  /-- The hub cycle at which the fetch started. -/
  since : Nat
deriving DecidableEq, Repr

/-- A take region that is OPENING or OPEN (R366). -/
structure Take where
  launch : Nat
  ctx : Nat
  lo : Nat
  size : Nat
  isOpen : Bool
deriving DecidableEq, Repr

/-- A CTLBINV that is not complete, with what may still use a removed entry (R353): requests, and the blocks whose slate buffers
hold bytes of a removed frame. -/
structure Inval where
  ctx : Nat
  reqs : List Nat
  slates : List Nat
deriving DecidableEq, Repr

/-- An entry of a page-fault ring that HEAD has not passed (R355). -/
structure PfEntry where
  ctx : Nat
  num : Nat
  vpage : Nat
  detail : Nat
  joined : Nat
  answered : Bool
  /-- CPFDOOR has named it. -/
  rung : Bool
deriving DecidableEq, Repr

/-- The state of the checkpoint engine (R367). -/
inductive KState where
  | idle
  | cutting
  | streaming
  | done
  | failed
deriving DecidableEq, Repr

/-- A leaf that the checkpoint has still to examine (R368). -/
structure KPage where
  ctx : Nat
  va : Nat
  level : Nat
  entryAddr : Nat
deriving DecidableEq, Repr

/-- The checkpoint engine (R367, R368). -/
structure Checkpoint where
  ctxs : Nat
  agent : Nat
  base : Nat
  pages : Nat
  cause : Nat
  state : KState
  seq : Nat
  full : Bool
  todo : List KPage
  /-- Frames already sent. -/
  sent : List (Nat × Nat)
  /-- The trailer has been sent (R368, step 4). -/
  trailer : Bool
deriving DecidableEq, Repr

/-! ### The retake engines (R172) -/

/-- The outcome of a request of a retake engine. -/
inductive RetakeRes where
  /-- A comparison decided. -/
  | decided (ans : Bool)
  /-- A comparison that failed, with R174's detail. -/
  | failed (detail : Nat)
  /-- A refinement: the bounds reached as FP32, the last stage, whether the node is UND, and its exact value. -/
  | refined (lo hi reached : Nat) (und : Bool) (exact : Option Q)
  /-- A dot leaf formed: its bounds, or NAN. -/
  | dot (nan : Bool) (lo hi : Nat)
  /-- A fault of a dot leaf's reads. -/
  | fault (f : LaneFault)
deriving DecidableEq, Repr

/-- A request of a lane to its core's retake engine, in the order of arrival. -/
structure Retake where
  id : Nat
  /-- The sub-crew that parked with the lane. -/
  group : Nat
  uid : Nat
  ci : Nat
  lane : Nat
  pc : Nat
  len : Nat
  op : Nat
  w : Fields
  /-- The value of A at issue. -/
  a : Nat
  /-- The cycle of the instruction's issue, its active lanes, and those that faulted at issue (R330). -/
  clk : Nat
  act : Nat
  early : Nat
  res : Option RetakeRes
deriving DecidableEq, Repr

/-! ### Requests that leave the device (R232, R374) -/

/-- What an element of a request asks of its home. -/
inductive ReqKind where
  /-- Bytes of non-coherent host memory, as they stand (R232). -/
  | read
  /-- The line of a peer's memory, for the L2 (R212, R213). -/
  | fill
  /-- Ownership of a line of a peer's memory, with the line (R212). -/
  | own
  /-- A store to memory that needs no answer: it is performed with the rest of its instruction (R235). -/
  | held
  /-- A write, an atomic or a reduction: it has a sequence number (R374). -/
  | write
  /-- PUBLISH to a core of the peer (R216). -/
  | publish
deriving DecidableEq, Repr

/-- One element of a request: its home (a peer's agent number, 4,096 for the host), what it asks there, and its timer. -/
structure ReqElem where
  home : Nat
  pa : Nat
  va : Nat
  n : Nat
  kind : ReqKind
  data : List Byte
  /-- The leaf of a held store, whose D is set as it is performed (R354). -/
  leaf : Option Leaf
  /-- The sequence number, once it is sent; reads have none. -/
  seq : Option Nat
  sent : Bool
  since : Nat
  tries : Nat
  waked : Bool
  answer : Option (List Byte)
deriving DecidableEq, Repr

/-- A request: the lane and instruction that wait for it, or the copy; none for a write that nothing waits for. `next` is where the
lane goes on once the instruction is complete. -/
structure Req where
  id : Nat
  owner : Option (Nat × Nat × Nat)
  copy : Option Nat
  pc : Nat
  next : Nat
  op : Nat
  w : Fields
  elems : List ReqElem
  /-- The cycle of the instruction's issue, and its active lanes. -/
  clk : Nat
  act : Nat
  /-- The lanes that faulted at issue. -/
  early : Nat
  /-- The fault that the lane will take when the other lanes' accesses have ended. -/
  failed : Option LaneFault
  /-- A reduction: its lane does not wait for the home (R239). -/
  posted : Bool
deriving DecidableEq, Repr

/-- The model's agent number of the host (R379 gives it none): above every peer's. -/
def hostAgent : Nat := 4096

/-- The model's agent number of a spoke die, C0 to C3 then M0 to M3 (R379). -/
def dieAgent (d : Nat) : Nat := 4097 + d

/-- The state of an agent (R379). -/
inductive AState where
  | absent
  | live
  | fencing
  | striking
  | fenced
deriving DecidableEq, Repr

/-- An agent's row (R379), the hub cycle of its last heartbeat (R378) and the quorum peers that have voted to unfence
it since it entered FENCED (R382). -/
structure Agent where
  state : AState
  inc : Nat
  /-- The incarnation that a port last learned of it in training (R376). -/
  pinc : Option Nat
  route : Nat
  lastBeat : Nat
  votes : List Nat
  /-- The hub cycle at which it entered FENCING or STRIKING: both are bounded (R379, R384). -/
  since : Nat
deriving DecidableEq, Repr

/-- An agent's row at reset. -/
def Agent.reset : Agent := ⟨.absent, 0, none, 0, 0, [], 0⟩

/-! ### Links (R369 to R377) -/

/-- The state of a port (R376, R377). -/
inductive LinkState where
  | down
  | training
  | up
  | sleep
  | waking
  | fenced
deriving DecidableEq, Repr

/-- How a home answers a peer's request (R221, R235, R374, R377). -/
inductive HomeStatus where
  | done
  /-- A conflict with an unpublished intent: the requester raises MME. -/
  | mme
  /-- Data marked uncorrectable: the requester raises POISON. -/
  | poisoned
  /-- A spoke link that the request needs is asleep. -/
  | waking
deriving DecidableEq, Repr

/-- What a sent flit carries; no rule gives the format of a message (R370, R373). -/
inductive LinkMsg where
  /-- An element of a request of this device. -/
  | request (id elem : Nat)
  /-- The answer to a peer's request, with its status and result. -/
  | response (agent seq : Nat) (status : HomeStatus) (result : Nat)
  /-- A snoop of the directory to an outside holder of a line, and whether it takes the line (R211, R212). -/
  | snoop (line : Nat) (take : Bool)
  /-- The answer to a snoop, and whether it is "waking" (R377). -/
  | snooped (line : Nat) (waking : Bool)
deriving DecidableEq, Repr

/-- A data flit sent and not acknowledged (R372): its number, channel and contents, and when it was last sent. -/
structure TxFlit where
  seq : Nat
  chan : Nat
  msg : LinkMsg
  sentAt : Nat
deriving DecidableEq, Repr

/-- A flit put on the wire (R370): TYPE, CHAN, SEQ, the ACK of that moment, and what its payload carries. -/
structure OutFlit where
  type : Nat
  chan : Nat
  seq : Nat
  ack : Nat
  msg : Option LinkMsg
deriving DecidableEq, Repr

/-- A data flit received (R370, R372). -/
structure RxFlit where
  seq : Nat
  chan : Nat
  payload : List Byte
deriving DecidableEq, Repr

/-- A fabric port (0 to 35), a spoke link (36 to 43, C0 to C3 then M0 to M3) or the host link (44): its registers (R376), the timers
of its states (R377), and both ends of its selective repeat (R372). -/
structure Link where
  en : Bool
  slp : Bool
  lmask : Nat
  ord : Nat
  peer : Nat
  pinc : Nat
  st : LinkState
  lanes : Nat
  fecc : Nat
  retx : Nat
  bad : Nat
  /-- Training attempts that have failed. -/
  attempts : Nat
  /-- The hub cycle at which the state, or the training attempt, began. -/
  since : Nat
  /-- The hub cycle of the last data flit in either direction. -/
  lastData : Nat
  /-- The hub cycles of the bad flits of the last microsecond. -/
  badTimes : List Nat
  /-- Lanes lost since the port was enabled. -/
  lost : Nat
  /-- When the link left UP other than to SLEEP, and whether its die is suspect. -/
  outSince : Option Nat
  suspect : Bool
  txNext : Nat
  tx : List TxFlit
  /-- Messages that wait for room in the window or for the port to be UP. -/
  backlog : List (Nat × LinkMsg)
  rxNext : Nat
  /-- Numbers received beyond a gap, and the flits of ordered channels that are held for it. -/
  rxSeen : List Nat
  rxHeld : List RxFlit
  /-- Missing numbers for which a negative acknowledgement has been sent. -/
  asked : List Nat
  /-- Delivered payloads by channel. -/
  inbox : List (Nat × List Byte)
  /-- The flits that the link has put on the wire in this hub cycle, idle ones apart. -/
  out : List OutFlit
  /-- The snoops that a spoke link out of UP has answered "waking": agent and line (R377). -/
  told : List (Nat × Nat)
deriving DecidableEq, Repr

/-- A fabric port at reset (R376). -/
def Link.port : Link :=
  { en := false, slp := false, lmask := 15, ord := 0, peer := 0, pinc := 0, st := .down, lanes := 0, fecc := 0, retx := 0,
    bad := 0, attempts := 0, since := 0, lastData := 0, badTimes := [], lost := 0, outSince := none, suspect := false,
    txNext := 0, tx := [], backlog := [], rxNext := 0, rxSeen := [], rxHeld := [], asked := [], inbox := [], out := [],
    told := [] }

/-- A spoke link at reset: UP with every lane, and free to sleep. DESIGN CHOICE (log entry 2). -/
def Link.spoke (d : Nat) : Link := { Link.port with en := true, slp := true, st := .up, lanes := 15, peer := d }

/-- The host link at reset (R369, R385): UP. DESIGN CHOICE (log entry 2). -/
def Link.host : Link := { Link.port with en := true, st := .up, lanes := 15, peer := hostAgent }

/-! ### Management (R386 to R394) -/

/-- The firmware (R386, R387): whether the boot ROM has tried the flash and an image runs, when the ROM tries again, the
measurement and version of the image, the minimum version, and the flash. -/
structure Firmware where
  tried : Bool
  started : Bool
  retryAt : Nat
  measurement : Nat
  version : Nat
  minVersion : Nat
  flash : Option FwImage
deriving DecidableEq, Repr

/-- The power limiter (R391, R392); `lower` says that the last sample asked for a lower clock. -/
structure Power where
  limit : Nat
  power : Nat
  capped : Bool
  freq : Nat
  lower : Bool
  sampledAt : Nat
deriving DecidableEq, Repr

/-- MGSTAT (R393), attestation (R389, R394) and debug access (R394). -/
structure Mgmt where
  deny : Nat
  ue : Nat
  ce : Nat
  /-- The nonce of the report in progress. -/
  pending : Option Nat
  done : Bool
  report : List Byte
  /-- Extended debug access is in use: a signed challenge has been accepted since reset, or the fuse allows it. -/
  debug : Bool
  /-- The crews that a debug agent has halted, by block. -/
  halted : List (Nat × Nat)
  /-- The hub cycle up to which the command processor's traffic has used the 1 Gb/s that it has (R390). -/
  egressFree : Nat
deriving DecidableEq, Repr

/-- The device's ceiling in watts (R392): that of the ZT8-M. For a ZT8-P the system sets it, at most so high (R1); the model takes the
ZT8-M (DESIGN CHOICE, log entry 94). -/
def powerCap : Nat := 1800

/-! ### Queues and host calls (R298, R303, R339) -/

/-- The state of a queue (R303). -/
inductive QState where
  | unbound
  | empty
  | waiting
  | ready
  | error
deriving DecidableEq, Repr

/-- A queue (R298) with the head record that the hub has read (R300), as a number, and its credit (R304). -/
structure Queue where
  budget : Nat
  ctx : Nat
  en : Bool
  dev : Bool
  door : Bool
  log2sz : Nat
  prio : Nat
  cbase : Nat
  tail : Nat
  head : Nat
  /-- The QTAIL register. -/
  qtail : Nat
  st : QState
  cause : Nat
  record : Option Nat
  /-- The wait events of the record were met when the hub last read them (R302). -/
  met : Bool
  credit : Nat
  /-- The queue is bound and HEAD is still to be set: TAIL is not at hand (R303). -/
  binding : Bool
deriving DecidableEq, Repr

/-- A queue at reset (R298). CBASE has no reset value: 0, DESIGN CHOICE (log entry 2). -/
def Queue.reset : Queue :=
  { budget := 0, ctx := 0, en := false, dev := false, door := false, log2sz := 0, prio := 0, cbase := 0, tail := 0, head := 0,
    qtail := 0, st := .unbound, cause := 0, record := none, met := false, credit := 0, binding := false }

/-- An entry of a host-call ring that HEAD has not passed (R339). -/
structure HcEntry where
  ctx : Nat
  num : Nat
  answered : Bool
  /-- CHDOOR has named it. -/
  rung : Bool
deriving DecidableEq, Repr

/-! ### The model's own fields -/

/-- The bundle that is issuing: block, crew and lanes, with the instruction that was read, or none and the ILL detail of a word that
is none (R66). -/
structure Issue where
  uid : Nat
  crew : Nat
  lanes : List Nat
  instr : Option Instr
  ill : Nat
deriving DecidableEq, Repr

/-- A reason to stop. -/
inductive Fault where
  /-- `exec` of an encoded instruction while no bundle is issuing: no state of the manual. Raised by every meaning of an
  encoded instruction; `step` never meets it. Safe: the machine does nothing. -/
  | noIssue
deriving DecidableEq, Repr

/-- A refusal. -/
inductive Refusal where
  /-- The dispatch has no meaning for the instruction. Safe: nothing is said of it. -/
  | notModelled (mnemonic : String)
deriving DecidableEq, Repr

/-- The state of the machine. -/
structure State where
  /-- Physical memory: bytes that differ from what an unlisted byte reads, addresses rising (R347). -/
  mem : List Host.Cell
  reqs : List Req
  /-- The next sequence number for each home (R374). -/
  seqs : List (Nat × Nat)
  retakes : List Retake
  copies : List Copy
  /-- The staging store (R260). -/
  stage : List StageSlot
  slates : List SlateBuf
  experts : List Expert
  takes : List Take
  invals : List Inval
  faults : List PfEntry
  ckpt : Checkpoint
  /-- The agents that have left their reset row, by number: peers, then `hostAgent`, then the dies (R379). -/
  agents : List (Nat × Agent)
  /-- Lines marked uncorrectable (R235). -/
  poison : List Nat
  /-- Registers marked uncorrectable by the scrubber (R393): block, crew, lane (32 for a crew register) and code. -/
  badRegs : List (Nat × Nat × Nat × Nat)
  l1 : List L1Line
  l2 : List L2Line
  dir : List DirEntry
  /-- The hub's device cache over CXL.cache: the lines of host memory that this device holds, and how (R385). -/
  hostCache : List (Nat × L2State)
  recs : List RelRec
  intents : List Intent
  ib : List IbLine
  tlb : List TlbEntry
  walks : List Walk
  cores : List CoreSt
  dies : List DieSt
  blocks : List Block
  launches : List Launch
  ctxs : List Context
  /-- The queues that have left their reset state, by number (R298). -/
  queues : List (Nat × Queue)
  /-- The last pick of each priority that has had one (R304). -/
  lastPicks : List (Nat × Nat)
  /-- The budget periods whose end has been served (R304). -/
  periods : Nat
  calls : List HcEntry
  /-- Packets that the hub holds for mailboxes, in order (R315): die and 64 bytes. -/
  held : List (Nat × List Byte)
  /-- Dailies that are not 0, by index (R364). -/
  dailies : List (Nat × Word)
  /-- The device's agent number (R376). -/
  hubid : Nat
  hubidSet : Bool
  /-- The fabric ports, spoke links and the host link by number (R369). -/
  links : List Link
  /-- Per requester, the sequence numbers applied here with their results, newest first (R375). -/
  homeWins : List (Nat × List (Nat × HomeStatus × Nat))
  /-- The hub cycle of this device's last heartbeat, and whether it sends none any more (R378, R383). -/
  beatSent : Nat
  beatStop : Bool
  fw : Firmware
  power : Power
  mgmt : Mgmt
  hubCycle : Nat
  agenda : List (Nat × Instr)
  choices : Nat
  issue : Option Issue
  second : Option Issue
  /-- The place in the cycle: 0 before its regroup, then one above the next slice to pick. -/
  turn : Nat
  clkAcc : Nat
  nextId : Nat
  /-- The events that have happened. -/
  news : Nat
deriving DecidableEq, Repr

/-! ### Reset -/

/-- A call sheet of zeros, for an object that has none. -/
def Sheet.none : Sheet :=
  { addr := 0, entry := 0, director := 0, gregs := 0, qregs := 0, kregs := 0, crews := 0, roles := 0, scratch := 0,
    carve := 0, reel := 0, pmode := 0, retry := 0, det := false, idem := false, priv := 0, nx := 0, ny := 0, nz := 0,
    spill := 0, casts := 0, events := 0, deadline := 0, takes := 0, pbase := 0, tbase := 0, tsx := 0, tsy := 0,
    tsz := 0, spbase := 0, part := 0, lims := [] }

/-- A context slot at reset (R324, R352). ROOT and SBASE have no reset value: 0, DESIGN CHOICE (log entry 2). -/
def Context.reset : Context :=
  { state := .free, logcnt := 0, lastcls := 0, root := 0, tvec := 0, tmask := 0, sbase := 0, ssize := 0, rslot := 0,
    dbase := 0, dcount := 0, seed := 0, resetus := 0, drainus := 0, lbase := 0, log2n := 0, hbase := 0, log2h := 0,
    pfbase := 0, log2p := 0, xbase := 0, nexp := 0, ctlbseq := 0, pfTail := 0,
    pfHead := 0, hcTail := 0, hcHead := 0, drainEnd := none, resetEnd := none,
    byDeadline := false, saving := false, pkgs := [] }

/-- A core at reset. -/
def CoreSt.reset : CoreSt :=
  { carve := 0, pendingCarve := none, epoch := 0, closed := [], heard := [], lastCrew := List.replicate 4 none, array := none, image := none }

/-- A compute die at reset. -/
def DieSt.reset : DieSt := { clock := 0, mailbox := [], serving := none, called := none }

/-- The director crew of a die while it serves nothing (R316): its own slot on slice 0 of the core at ring position 0, 64 g
registers, a scratchpad of 64 KiB. Its threads are EXITED between the routines that the stock director calls. -/
def directorBlock (d : Nat) : Block :=
  let c := Crew.create 0 64 0 0 0 16 0 0
  { uid := d, ctx := 0, launch := 0, lin := 0, attempt := 0, state := .resident, die := d, core := 48 * d, rslot := 0,
    sheet := { Sheet.none with gregs := 64, crews := 1, scratch := 65536, pmode := 1, nx := 1, ny := 1, nz := 1 },
    isDirector := true,
    body := Body.create [{ c with live := false, threads := c.threads.map fun t => { t with st := .exited } }],
    privBack := [], inside := false, snap := none, deferred := false, heldStage := [],
    tiles := List.replicate 16 Tile.unbound, cmds := [], late := [], vclock := 0, wantsArray := false }

/-- The machine right after reset: nothing resident, no context allocated, every cache empty. -/
def State.reset : State :=
  { mem := [], reqs := [], seqs := [], retakes := [], copies := [], stage := [], slates := [], experts := [], takes := [], invals := [], faults := [],
    ckpt := ⟨0, 0, 0, 0, 0, .idle, 0, false, [], [], false⟩, agents := [], poison := [], badRegs := [], l1 := [], l2 := [], dir := [], hostCache := [], recs := [], intents := [], ib := [], tlb := [], walks := [],
    cores := List.replicate 192 CoreSt.reset, dies := List.replicate 4 DieSt.reset, blocks := [0, 1, 2, 3].map directorBlock, launches := [],
    ctxs := List.replicate 64 Context.reset, queues := [], lastPicks := [], periods := 0, calls := [], held := [], dailies := [], hubid := 0, hubidSet := false,
    links := List.replicate 36 Link.port ++ (List.range 8).map (fun d => Link.spoke (dieAgent d)) ++ [Link.host],
    homeWins := [], beatSent := 0, beatStop := false, fw := ⟨false, false, 0, 0, 0, 0, none⟩,
    power := ⟨powerCap, 0, false, 1250, false, 0⟩, mgmt := ⟨0, 0, 0, none, false, List.replicate 256 0, false, [], 0⟩, hubCycle := 0,
    agenda := [], choices := 0, issue := none, second := none, turn := 0, clkAcc := 0, nextId := 4, news := 0 }

end Sys2Proof.Machine
end

