-- ==== Sys2Proof/Machine/Memory.lean ====
section
/-! DEFINITION. Bytes by address in one canonical form: addresses strictly rising, no entry equal to what an unlisted
address reads as. Device memory, host memory and scratchpad are held so. -/

namespace Sys2Proof.Machine
open Sys2Proof

/-- What an address that nothing has written reads as. DESIGN CHOICE (log entry 1): the manual gives RAM no contents;
for scratchpad it is R210's 0. Unsafe for global memory. -/
def emptyByte : Byte := 0

/-- The byte at an address. -/
def readByte (m : List Host.Cell) (a : Nat) : Byte :=
  match m with
  | [] => emptyByte
  | (k, v) :: r => if a = k then v else if a < k then emptyByte else readByte r a

/-- The memory with the byte at an address replaced; the canonical form is kept. -/
def writeByte (m : List Host.Cell) (a : Nat) (v : Byte) : List Host.Cell :=
  match m with
  | [] => if v = emptyByte then [] else [(a, v)]
  | (k, x) :: r =>
    if a = k then (if v = emptyByte then r else (a, v) :: r)
    else if a < k then (if v = emptyByte then (k, x) :: r else (a, v) :: (k, x) :: r)
    else (k, x) :: writeByte r a v

/-- Every address of the list is above `lo`, the addresses rise strictly, and no entry is the empty byte. -/
def cellsAbove (lo : Nat) (m : List Host.Cell) : Bool :=
  match m with
  | [] => true
  | (k, v) :: r => decide (lo ≤ k) && v != emptyByte && cellsAbove (k + 1) r

/-- The canonical form. -/
def Memory.wf (m : List Host.Cell) : Bool := cellsAbove 0 m

/-- `n` bytes from an address, lowest first (R3). -/
def readBytes (m : List Host.Cell) (a : Nat) : Nat → List Byte
  | 0 => []
  | n + 1 => readByte m a :: readBytes m (a + 1) n

/-- Bytes written from an address. -/
def writeBytes (m : List Host.Cell) (a : Nat) (bs : List Byte) : List Host.Cell :=
  match bs with
  | [] => m
  | b :: r => writeBytes (writeByte m a b) (a + 1) r

/-- The little-endian number in `n` bytes (R3). -/
def readNat (m : List Host.Cell) (a n : Nat) : Nat := fromBytes (readBytes m a n)

/-- A little-endian number written in `n` bytes (R3). -/
def writeNat (m : List Host.Cell) (a n v : Nat) : List Host.Cell := writeBytes m a (toBytes v n)

/-- The line of an address. -/
def lineOf (a : Nat) : Nat := a / 128

/-- The lines that `n` bytes from an address touch. -/
def linesOf (a n : Nat) : List Nat :=
  if n = 0 then [] else (List.range (lineOf (a + n - 1) - lineOf a + 1)).map (lineOf a + ·)

/-- Bytes merged into memory where a mask is set. -/
def mergeBytes (m : List Host.Cell) (base : Nat) (data : List Byte) (mask : BitVec 128) : List Host.Cell :=
  data.zipIdx.foldl (fun m p => if mask.getLsbD p.2 then writeByte m (base + p.2) p.1 else m) m

/-- The byte mask, within a line, of the bytes of `[a, a + n)` (R220). -/
def lineMask (line a n : Nat) : BitVec 128 :=
  let lo := max a (line * 128)
  let hi := min (a + n) (line * 128 + 128)
  if lo < hi then BitVec.ofNat 128 ((2 ^ (hi - lo) - 1) * 2 ^ (lo - line * 128)) else 0

end Sys2Proof.Machine
end

