-- ==== Sys2Proof/Machine/Operands.lean ====
section
/-! DEFINITION. Every operand form: value sources and destinations (R53, R55), latches (R58 to R61), literals (R52),
predicates and tracked registers (R54), crew registers within a cycle (R56); and what one lane's result changes. -/

namespace Sys2Proof.Machine
open Sys2Proof

/-! ### Registers -/

/-- `n` consecutive 32-bit registers as one number, the first lowest (R19). -/
def regsNat (rs : List Word) (i : Nat) : Nat → Nat
  | 0 => 0
  | n + 1 => (rs.getD i 0).toNat + regsNat rs (i + 1) n * 2 ^ 32

/-- `n` consecutive 32-bit registers written from a number (R19). -/
def setRegs (rs : List Word) (i : Nat) (v : Nat) : Nat → List Word
  | 0 => rs
  | n + 1 => setRegs (rs.set i (BitVec.ofNat 32 v)) (i + 1) (v / 2 ^ 32) n

/-- A crew register as an instruction of cycle `clk` reads it: the value before a write of that cycle (R56). -/
def KCell.read (c : KCell) (clk : Nat) : Word := if c.cycle = clk + 1 then c.prev else c.cur

/-- Crew registers as a cycle reads them, for an instruction that goes on later (R5). -/
def frozenK (ks : List KCell) (clk : Nat) : List KCell := ks.map fun c => ⟨c.read clk, c.read clk, 0, 0⟩

/-- A crew register after lane `lane` writes it in cycle `clk`: the highest lane of a cycle prevails (R56). -/
def KCell.write (c : KCell) (clk lane : Nat) (v : Word) : KCell :=
  if c.cycle = clk + 1 then (if c.lane ≤ lane then { c with cur := v, lane := lane } else c)
  else ⟨v, c.cur, clk + 1, lane⟩

/-- `n` consecutive crew registers as one number. -/
def kNat (ks : List KCell) (clk i : Nat) : Nat → Nat
  | 0 => 0
  | n + 1 => (match ks[i]? with | some c => (c.read clk).toNat | none => 0) + kNat ks clk (i + 1) n * 2 ^ 32

/-- `n` consecutive crew registers written by a lane. -/
def setK (ks : List KCell) (clk lane i v : Nat) : Nat → List KCell
  | 0 => ks
  | n + 1 => setK (updAt ks i fun c => c.write clk lane (BitVec.ofNat 32 v)) clk lane (i + 1) (v / 2 ^ 32) n

/-! ### Latches -/

/-- The latches that a lane's instruction reads: those of its held issue, or its own. -/
def Thread.readLatches (t : Thread) : List Latch := t.keep.getD t.latches

/-- The latch at an index. -/
def Thread.latch (t : Thread) (i : Nat) : Latch := t.readLatches.getD i Latch.none

/-- A push (R58). A result whose issue was held while the latches were lost enters as lost. -/
def Thread.push (t : Thread) (v : Nat) (pend : Bool) : Thread :=
  let l : Latch := if t.keep.isSome && t.keepLost then Latch.none else ⟨BitVec.ofNat 64 v, true, pend⟩
  { t with latches := l :: t.latches.take 3 }

/-- Every latch of the lane invalid (R59). -/
def Thread.loseLatches (t : Thread) : Thread :=
  { t with latches := List.replicate 4 Latch.none, keepLost := t.keepLost || t.keep.isSome }

/-! ### Predicates and tracked registers -/

/-- A predicate; p7 reads 1 (R54). -/
def Thread.pred (t : Thread) (i : Nat) : Bool := if i ≥ 7 then true else t.p.getD i false

/-- A predicate written; p7 discards (R54). -/
def Thread.setPred (t : Thread) (i : Nat) (v : Bool) : Thread := if i ≥ 7 then t else { t with p := t.p.set i v }

/-- A tracked register. -/
def Thread.qreg (t : Thread) (i : Nat) : QReg := t.q.getD i QReg.zero

/-- A tracked register written. -/
def Thread.setQ (t : Thread) (i : Nat) (v : QReg) : Thread := { t with q := t.q.set i v }

/-- The guard of an instruction in a lane (R57). -/
def Thread.guard (t : Thread) (w : Fields) : Bool := t.pred w.gp.toNat != w.gn

/-! ### Value operands -/

/-- The literal of an instruction at a width; `sx` widens it by sign (R52). -/
def litValue (w : Fields) (width : Nat) (sx : Bool) : Nat :=
  match w.ext with
  | .lit v => if sx && decide (width > 32) then wrapInt (sext v.toNat 32) width else v.toNat
  | _ => 0

/-- `rdv` of R57: a value source of a lane at a width. -/
def rdvOf (c : Crew) (t : Thread) (clk : Nat) (w : Fields) (code : BitVec 9) (width : Nat) (sx : Bool) : Nat :=
  let n := code.toNat
  if n = 0xFF then 0
  else if n ≤ 0xFE then regsNat t.g n (width / 32)
  else if n ≤ 0x107 then regsNat t.o (n - 0x100) (width / 32)
  else if n ≤ 0x10B then (t.latch (n - 0x108)).data.toNat % 2 ^ width
  else if n = 0x1FF then litValue w width sx
  else kNat c.k clk (n - 0x110) (width / 32)

/-- The registers of a lane or its crew written with a value (R53, R56); gz discards. -/
def writeValue (c : Crew) (clk lane : Nat) (code : BitVec 9) (width v : Nat) : Crew :=
  let n := code.toNat
  if n = 0xFF then c
  else if n ≤ 0xFE then { c with threads := updAt c.threads lane fun t => { t with g := setRegs t.g n v (width / 32) } }
  else if n ≤ 0x107 then
    { c with threads := updAt c.threads lane fun t => { t with o := setRegs t.o (n - 0x100) v (width / 32) } }
  else { c with k := setK c.k clk lane (n - 0x110) v (width / 32) }

/-- `wrv` of R57 with its latch push (R58, R61). `pend` marks a result that is not yet produced. -/
def wrvOf (c : Crew) (clk lane : Nat) (w : Fields) (code : BitVec 9) (width v : Nat) (pend : Bool) : Crew :=
  let v := v % 2 ^ width
  if !w.wbs && code == 0xFF then c
  else
    let c := if w.wbs then c else writeValue c clk lane code width v
    { c with threads := updAt c.threads lane fun t => t.push (v % 2 ^ 64) pend }

/-! ### What one lane's result changes -/

/-- Sticky flags set in the crew's s.fstat (R28); the record of the cycle lets a clear of the same cycle leave them. -/
def Crew.setFlags (c : Crew) (fl : Nat) : Crew :=
  if fl = 0 then c
  else { c with fstat := c.fstat ||| BitVec.ofNat 32 fl, cycFstat := c.cycFstat ||| BitVec.ofNat 32 fl }

/-- The effect of a register instruction in one lane: a value result, predicates, tracked registers, flags and draws. -/
structure Eff where
  /-- Destination code, width and value. -/
  val : Option (BitVec 9 × Nat × Nat) := none
  preds : List (Nat × Bool) := []
  qs : List (Nat × QReg) := []
  flags : Nat := 0
  /-- The random counter after the lane's draws. -/
  rand : Option Nat := none
deriving DecidableEq, Repr

/-- The predicates, tracked registers and random counter of an effect. -/
def Eff.onThread (e : Eff) (t : Thread) : Thread :=
  let t := e.preds.foldl (fun t p => t.setPred p.1 p.2) t
  let t := e.qs.foldl (fun t p => t.setQ p.1 p.2) t
  match e.rand with
  | none => t
  | some r => { t with rand := BitVec.ofNat 48 r }

/-- A lane's effect applied to its crew. -/
def Eff.apply (e : Eff) (c : Crew) (clk lane : Nat) (w : Fields) : Crew :=
  let c := match e.val with
    | none => c
    | some (code, width, v) => wrvOf c clk lane w code width v false
  let c := { c with threads := updAt c.threads lane e.onThread }
  c.setFlags e.flags

end Sys2Proof.Machine
end

