-- ==== Sys2Proof/Machine/Translate.lean ====
section
/-! DEFINITION. Physical targets, page entries and the walk (R347 to R350, R365). -/

namespace Sys2Proof.Machine
open Sys2Proof

/-- What a physical address selects (R347). -/
inductive Target where
  | host (a : Nat)
  | own (off : Nat)
  | peer (agent off : Nat)
deriving DecidableEq, Repr

/-- The target of a physical address for a device with an agent number (R347). -/
def targetOf (hubid pa : Nat) : Target :=
  if bitAt pa 51 then .host (bitsOf pa 0 51)
  else if bitsOf pa 39 12 = hubid then .own (bitsOf pa 0 39)
  else .peer (bitsOf pa 39 12) (bitsOf pa 0 39)

/-- The key of a physical address in State.mem: host addresses from 2^51, this device's memory from 0, whatever its
agent number; a peer's memory is not held, and its keys lie above every key that is. -/
def memKey (hubid pa : Nat) : Nat :=
  match targetOf hubid pa with
  | .host a => 2 ^ 51 + a
  | .own off => off
  | .peer n off => 2 ^ 52 + n * 2 ^ 39 + off

/-- A class and detail that a translation raises. -/
abbrev XFault := Nat × Nat

/-- PAGE with a detail (R350). -/
def pageFault (d : Nat) : XFault := (6, d)
/-- PROT with a detail (R350). -/
def protFault (d : Nat) : XFault := (5, d)

/-- The shift of the index at a level (R348). -/
def levelShift (level : Nat) : Nat := 43 - 10 * level

/-- Whether a table entry obeys R349. -/
def tableEntryOk (hubid e level : Nat) : Bool :=
  level != 3 && bitsOf e 52 12 == 0 && bitsOf e 2 11 == 0 &&
  (match targetOf hubid (bitsOf e 13 39 * 2 ^ 13) with | .peer _ _ => false | _ => true)

/-- Whether a leaf entry obeys R349. -/
def leafEntryOk (hubid e level : Nat) : Bool :=
  let ty := bitsOf e 2 3
  let rd := bitAt e 5
  let wr := bitAt e 6
  let xe := bitAt e 7
  level != 0 && decide (ty ≤ 4) && bitsOf e 10 3 == 0 && !(wr && xe) && !(wr && !rd) &&
  (level == 3 || (level == 2 && bitsOf e 13 10 == 0) || (level == 1 && bitsOf e 13 20 == 0)) &&
  (match ty with
    | 1 => (level == 2 || level == 3) && !bitAt e 39
    | 2 => level == 3 && bitsOf e 52 12 == 0 && !bitAt e 51 && bitsOf e 39 12 == hubid
    | 3 => level == 3 && bitsOf e 52 12 == 0 && !bitAt e 51 && bitsOf e 39 12 == hubid
    | 4 => bitsOf e 52 12 == 0 && bitAt e 51
    | _ => bitsOf e 52 12 == 0)

/-- The leaf that an entry is. A TYPE 1 frame lies in this device's memory. -/
def leafOf (hubid e level addr : Nat) : Leaf :=
  let ty := bitsOf e 2 3
  { level, type := ty,
    frame := if ty = 1 then hubid * 2 ^ 39 + bitsOf e 13 26 * 2 ^ 13 else bitsOf e 13 39 * 2 ^ 13,
    exid := if ty = 1 then bitsOf e 40 24 else 0,
    rd := bitAt e 5, wr := bitAt e 6, xe := bitAt e 7, usr := bitAt e 8, dirty := bitAt e 9, entryAddr := addr }

/-- The walk of the levels from `level` down, `fuel` levels at most (R348, R350). -/
def walkFrom (m : List Host.Cell) (hubid va : Nat) : Nat → Nat → Nat → Except XFault Leaf
  | 0, _, _ => .error (pageFault 0x04)
  | fuel + 1, level, table =>
    let addr := table + 8 * bitsOf va (levelShift level) 10
    let e := readNat m (memKey hubid addr) 8
    if !bitAt e 0 then .error (pageFault 0x01)
    else if bitAt e 1 then
      (if leafEntryOk hubid e level then .ok (leafOf hubid e level addr) else .error (pageFault 0x04))
    else if tableEntryOk hubid e level then walkFrom m hubid va fuel (level + 1) (bitsOf e 13 39 * 2 ^ 13)
    else .error (pageFault 0x04)

/-- The walk from a context's root (R348). -/
def walkTables (m : List Host.Cell) (hubid root va : Nat) : Except XFault Leaf := walkFrom m hubid va 4 0 root

/-- The bits of the address that a leaf passes through (R348). -/
def Leaf.offsetBits (l : Leaf) : Nat := levelShift l.level

/-- The shadow frame of a TYPE 2 entry: the word 8,192 bytes above it (R365). -/
def shadowFrame (m : List Host.Cell) (hubid : Nat) (l : Leaf) : Except XFault Nat :=
  let w := readNat m (memKey hubid (l.entryAddr + 8192)) 8
  if w = bitsOf w 13 26 * 2 ^ 13 then .ok (hubid * 2 ^ 39 + w) else .error (pageFault 0x04)

/-- The kinds of access, as s.einfo numbers them (R326). -/
inductive Access where
  | read
  | write
  | exec
  | atomic
deriving DecidableEq, Repr

/-- The number of an access kind (R326). -/
def Access.code : Access → Nat
  | .read => 0
  | .write => 1
  | .exec => 2
  | .atomic => 3

end Sys2Proof.Machine
end

