-- ==== Sys2Proof/Machine/Objects.lean ====
section
/-! DEFINITION. Finding and changing the objects of the state, and the messages that leave the device by its ports (R372, R373). -/

namespace Sys2Proof.Machine
open Sys2Proof

/-! ### Finding and changing objects -/

def State.block? (s : State) (uid : Nat) : Option Block := s.blocks.find? fun b => b.uid == uid
def State.updBlock (s : State) (uid : Nat) (f : Block → Block) : State :=
  { s with blocks := mapWhere (fun b => b.uid == uid) f s.blocks }
def Block.crew? (b : Block) (i : Nat) : Option Crew := b.body.crews[i]?
def Block.updCrew (b : Block) (i : Nat) (f : Crew → Crew) : Block :=
  { b with body := { b.body with crews := updAt b.body.crews i f } }
def State.crew? (s : State) (uid i : Nat) : Option Crew := (s.block? uid).bind fun b => b.crew? i
def State.updCrew (s : State) (uid i : Nat) (f : Crew → Crew) : State := s.updBlock uid fun b => b.updCrew i f
def Crew.updThread (c : Crew) (l : Nat) (f : Thread → Thread) : Crew := { c with threads := updAt c.threads l f }
def State.thread? (s : State) (uid i l : Nat) : Option Thread := (s.crew? uid i).bind fun c => c.threads[l]?
def State.updThread (s : State) (uid i l : Nat) (f : Thread → Thread) : State :=
  s.updCrew uid i fun c => c.updThread l f
def State.updCtx (s : State) (c : Nat) (f : Context → Context) : State := { s with ctxs := updAt s.ctxs c f }
def State.launch? (s : State) (tag : Nat) : Option Launch := s.launches.find? fun l => l.tag == tag
def State.updLaunch (s : State) (tag : Nat) (f : Launch → Launch) : State :=
  { s with launches := mapWhere (fun l => l.tag == tag) f s.launches }
def State.updCore (s : State) (c : Nat) (f : CoreSt → CoreSt) : State := { s with cores := updAt s.cores c f }

/-- The die of a core (R9). -/
def dieOf (core : Nat) : Nat := core / 48
/-- The cycle count of a core's die (R81). -/
def State.clockOf (s : State) (core : Nat) : Nat := match s.dies[dieOf core]? with | some d => d.clock | none => 0
/-- An agent's row. -/
def State.agent (s : State) (a : Nat) : Agent := match s.agents.find? fun p => p.1 == a with | some p => p.2 | none => Agent.reset
def State.setAgent (s : State) (a : Nat) (v : Agent) : State :=
  { s with agents := putKey s.agents a v }
/-- Whether an agent is fenced or being fenced: requests to it fail at once (R380). -/
def State.agentDead (s : State) (a : Nat) : Bool := [AState.fencing, .striking, .fenced].contains (s.agent a).state
def State.dieFenced (s : State) (d : Nat) : Bool := s.agentDead (dieAgent d)

/-- Whether fabric ports, host functions and queues have left reset: the firmware runs (R387, R388). -/
def State.awake (s : State) : Bool := s.fw.started

/-- A fresh number for a copy, command, request or block. -/
def State.fresh (s : State) : Nat × State := (s.nextId, { s with nextId := s.nextId + 1 })

/-- A free choice among `n + 1` outcomes; none is consulted where there is only one. -/
def State.choose (s : State) (n : Nat) : Nat × State :=
  if n = 0 then (0, s) else (Config.choose s.choices n % (n + 1), { s with choices := s.choices + 1 })

/-- Whether a block stands on its core. -/
def Block.onCore (b : Block) : Bool := b.state == .resident || b.state == .retiring

/-! ### Sending (R372, R373) -/

/-- A link's state changed. -/
def State.updLink (s : State) (p : Nat) (f : Link → Link) : State := { s with links := updAt s.links p f }

/-- Whether a link has been trained with an agent at its far end: a fabric port with a peer, a spoke link with its die. -/
def Link.leadsTo (k : Link) (p agent : Nat) : Bool :=
  k.lanes != 0 && k.peer == agent && (if p < 36 then decide (agent < 4096) else true)

/-- A flit put on the wire, with the current ACK (R372). -/
def Link.emit (k : Link) (type chan seq : Nat) (msg : Option LinkMsg) : Link := { k with out := k.out ++ [⟨type, chan, seq, k.rxNext, msg⟩] }

/-- A data flit of the window put on the wire. -/
def Link.emitTx (k : Link) (t : TxFlit) : Link := k.emit 1 t.chan t.seq (some t.msg)

/-- Messages moved from the backlog into the window, and out, while it has room and the link is UP: 64 flits at most. -/
def Link.pump (k : Link) (now : Nat) : Nat → Link
  | 0 => k
  | fuel + 1 =>
    if k.st ≠ .up ∨ k.tx.length ≥ 64 then k
    else match k.backlog with
      | [] => k
      | m :: rest =>
        let t : TxFlit := ⟨k.txNext, m.1, m.2, now⟩
        ({ k.emitTx t with tx := k.tx ++ [t], txNext := (k.txNext + 1) % 256, backlog := rest, lastData := now } : Link).pump now fuel

/-- A message put on a link. -/
def Link.send (k : Link) (now chan : Nat) (m : LinkMsg) : Link := ({ k with backlog := k.backlog ++ [(chan, m)] } : Link).pump now 64

/-- The ports that may carry traffic to a peer: those of AROUTE that are trained and not DOWN or FENCED (R373, R379). The far end of one
is the peer, or a switch port that the fabric manager's routing names (R369). -/
def State.portsTo (s : State) (agent : Nat) : List Nat :=
  (List.range 36).filter fun p => bitAt (s.agent agent).route p && (match s.links[p]? with
    | some k => k.lanes != 0 && k.st != .down && k.st != .fenced
    | none => false)

/-- Whether a channel is ordered (R373). -/
def Link.ordered (k : Link) (chan : Nat) : Bool := decide (chan < 4) || bitAt k.ord (chan - 4)

/-- A message about a line sent to a peer, by the port that the hash of the line chooses, on an unordered channel by any that may
(R373); none is sent where no port leads there, and the requester's timer then runs (R374). -/
def State.sendMsg (s : State) (agent chan line : Nat) (m : LinkMsg) : State :=
  let ps := s.portsTo agent
  let free := decide (4 ≤ chan) && decide (2 ≤ ps.length) && ps.any fun p => match s.links[p]? with | some k => !k.ordered chan | none => false
  let r := if free then s.choose (ps.length - 1) else (Config.portHash line % ps.length, s)
  match ps[r.1]? with
  | some p => r.2.updLink p fun k => k.send s.hubCycle chan m
  | none => s

/-- The peers that the directory names for a line: its owner, or every holder (R211). -/
def DirEntry.peersOf (d : DirEntry) (live : List Nat) (all : Bool) : List Nat :=
  let coarse := live.filter fun a => d.coarse.getLsbD (a % 64)
  ((d.owner.toList ++ (if all then d.peers ++ coarse else [])).filter fun a => decide (a < hostAgent)).eraseDups

/-- Snoops sent by the directory to the peers that hold a line: its owner where it is read, every holder where it is taken (R212,
R373). -/
def State.snoopOut (s : State) (line : Nat) (take : Bool) : State :=
  match s.dir.find? fun d => d.line == line with
  | none => s
  | some d => (d.peersOf ((s.agents.filter fun a => a.2.state == .live).map (·.1)) take).foldl
      (fun (s : State) a => s.sendMsg a 2 line (.snoop line take)) s

end Sys2Proof.Machine
end

