-- ==== Sys2Proof/Machine/Post.lean ====
section
/-! DEFINITION. Requests that leave the device: what a place outside is, the elements of a request with their sequence numbers
and timers, and the lines of peers' memory that the L2s hold (R211, R212, R232, R374). -/

namespace Sys2Proof.Machine
open Sys2Proof

/-- Where a translated access is performed (R229, R232, R347). -/
inductive Place where
  /-- This device's memory, by its key. -/
  | home (key : Nat)
  /-- Coherent memory of an agent outside: a peer device, or the host. -/
  | peer (agent : Nat)
  /-- A non-coherent host page (TYPE 4). -/
  | hostIo
deriving DecidableEq, Repr

/-- The place of a physical address under a leaf type: coherent host memory is the host's, as a peer's memory is the peer's. -/
def placeOf (hubid pa type : Nat) : Place :=
  if type = 4 then .hostIo
  else match targetOf hubid pa with
    | .peer n _ => .peer n
    | .host _ => .peer hostAgent
    | .own off => .home off

/-- The agent that serves a place outside the device. -/
def Place.agent : Place → Nat
  | .peer n => n
  | _ => hostAgent

/-- Whether a key, or a line, is of a peer's memory, and the peer. -/
def peerKey (key : Nat) : Bool := decide (2 ^ 52 ≤ key)
def peerLine (line : Nat) : Bool := decide (2 ^ 45 ≤ line)
def peerOf (key : Nat) : Nat := (key - 2 ^ 52) / 2 ^ 39

/-- Whether a line is of coherent memory that this device does not home: the host's, or a peer's. -/
def outsideLine (line : Nat) : Bool := decide (2 ^ 44 ≤ line)
/-- Whether a line is of host memory. -/
def hostLine (line : Nat) : Bool := outsideLine line && !peerLine line
/-- The agent that homes such a line. -/
def lineAgent (line : Nat) : Nat := if peerLine line then peerOf (line * 128) else hostAgent
/-- The physical address of a key: of this device's memory where it is neither the host's nor a peer's. -/
def keyPa (hubid key : Nat) : Nat := if peerKey key then key - 2 ^ 52 else if 2 ^ 51 ≤ key then key else hubid * 2 ^ 39 + key

/-- 20 µs of the hub's 1 GHz counter (R374). -/
def requestTimeout : Nat := 20000

/-- An element of a request. -/
def reqElem (p : Place) (va pa n : Nat) (kind : ReqKind) (data : List Byte) : ReqElem :=
  { home := p.agent, pa, va, n, kind, data, leaf := none, seq := none, sent := false, since := 0, tries := 0, waked := false,
    answer := none }

/-- Whether an element carries a sequence number (R374). -/
def ReqElem.numbered (e : ReqElem) : Bool := e.kind == .write || e.kind == .publish

/-- Whether an element asks for a whole line. -/
def ReqElem.ofLine (e : ReqElem) : Bool := e.kind == .fill || e.kind == .own

/-- The requests with a sequence number outstanding to a home (R374). -/
def State.seqOutstanding (s : State) (home : Nat) : Nat :=
  (s.reqs.flatMap fun r => r.elems.filter fun e => e.home == home && e.numbered && e.sent && e.answer.isNone).length

/-- The next sequence number for a home. -/
def State.nextSeq (s : State) (home : Nat) : Nat :=
  match s.seqs.find? fun p => p.1 == home with | some p => p.2 | none => 0

/-- One element sent, if the home takes one more (R374). -/
def State.sendElem (s : State) (e : ReqElem) : State × ReqElem :=
  if e.sent || e.answer.isSome then (s, e)
  else if !e.numbered then (s, { e with sent := true, since := s.hubCycle, tries := 1 })
  else if s.seqOutstanding e.home ≥ 64 then (s, e)
  else
    let k := s.nextSeq e.home
    ({ s with seqs := putKey s.seqs e.home (k + 1) },
     { e with sent := true, seq := some k, since := s.hubCycle, tries := 1 })

/-- The elements of a request sent in order; those of a lane's non-coherent host accesses leave in program order. -/
def State.sendElems (s : State) (es : List ReqElem) : State × List ReqElem :=
  es.foldl (fun (a : State × List ReqElem) e =>
    let r := a.1.sendElem e
    (r.1, a.2 ++ [r.2])) (s, [])

/-- The messages of elements that have just been sent: a request to a peer leaves by a port, on a channel (R373). -/
def State.carryElems (s : State) (id chan : Nat) (old new : List ReqElem) : State :=
  (old.zip new).zipIdx.foldl (fun (s : State) p =>
    if p.1.2.sent && !p.1.1.sent && decide (p.1.2.home < 4096) then
      s.sendMsg p.1.2.home chan (lineOf p.1.2.pa) (.request id p.2)
    else s) s

/-- The operation code of a request for an expert's source pages (R359): its `pc` is the context, its `clk` the expert. -/
def expertOp : Nat := 0x102

/-- The operation code of a request that sends a page of a checkpoint to its safe tier (R368). -/
def checkpointOp : Nat := 0x104

/-- The operation code of a request that brings a line, or bytes of non-coherent host memory, for an agent of this device: its `pc` is
the die that takes the line, its `clk` a number of the reader. -/
def bringOp : Nat := 0x103

/-- The channel of a request: copies, expert fetches and checkpoints have one of their own (R373). -/
def Req.channel (r : Req) : Nat := if r.copy.isSome || r.op == expertOp || r.op == checkpointOp then 4 else 0

/-- Every request's unsent elements tried again, the oldest request first. -/
def State.sendWaiting (s : State) : State :=
  s.reqs.foldl (fun (s : State) r =>
    let q := s.sendElems r.elems
    ({ q.1 with reqs := mapWhere (fun x => x.id == r.id) (fun x => { x with elems := q.2 }) q.1.reqs } : State).carryElems r.id r.channel r.elems q.2) s

/-- A request posted for a lane, for a copy, or for none. -/
def State.postReq (s : State) (owner : Option (Nat × Nat × Nat)) (copy : Option Nat) (pc next op clk act : Nat) (w : Fields)
    (es : List ReqElem) : State :=
  let posted := op == 0xA9
  let (id, s) := s.fresh
  let q := s.sendElems es
  let r : Req := ⟨id, owner, copy, pc, next, op, w, q.2, clk, act, 0, none, posted⟩
  let s := ({ q.1 with reqs := q.1.reqs ++ [r] } : State).carryElems id r.channel es q.2
  match owner with
  | none => s
  | some (u, c, l) => if posted then s else s.updThread u c l fun t => { t with reqs := t.reqs ++ [id] }

/-- The operation code of a request that is an increment of an event word by the hub or a core (R276, R301): its `act` is the
launch's tag, its `clk` the context, its `pc` the block. -/
def eventOp : Nat := 0x101

/-- The fields of no instruction. -/
def noFields : Fields := ⟨7, false, 0, 0, 0, 0, 0, 0, false, 0, false, false, .none⟩

/-- A write to memory of a home outside that nothing waits for: a line written back, or a slate's bytes. Host memory holds its bytes
at once, so that whatever is asked of the host later finds them. -/
def State.postWrite (s : State) (key : Nat) (bs : List Byte) : State :=
  let a := lineAgent (lineOf key)
  if s.agentDead a then s
  else
    let s : State := if a = hostAgent then { s with mem := writeBytes s.mem key bs } else s
    s.postReq none none 0 0 0 0 0 noFields [reqElem (.peer a) 0 (keyPa s.hubid key) bs.length .write (if a = hostAgent then [] else bs)]

end Sys2Proof.Machine
end

