-- ==== Sys2Proof/Machine/Opcodes.lean ====
section
/-! DEFINITION. The opcode of each instruction (R68, R69): from a constructor to its opcode and fields, and back. -/

namespace Sys2Proof.Machine
open Sys2Proof

/-- An instruction as the encoding sees it. -/
inductive Parts where
  /-- A 64-bit or 96-bit form: opcode, the function code that selects it within its opcode if one does, fields. -/
  | long (op : Nat) (fn : Option Nat) (f : Fields)
  /-- A 32-bit form. -/
  | short (op : Nat) (f : ShortFields)
  /-- An event: it has no encoding. -/
  | event
deriving DecidableEq, Repr

/-- The opcode and fields of an instruction. -/
def partsOf (i : Instr) : Parts :=
  match i with
  | .iadd w => .long 0x01 none w
  | .iaddShort f => .short 0x01 f
  | .isub w => .long 0x02 none w
  | .isubShort f => .short 0x02 f
  | .iaddc w => .long 0x03 none w
  | .isubb w => .long 0x04 none w
  | .imul w => .long 0x05 none w
  | .imulShort f => .short 0x05 f
  | .imulh w => .long 0x06 none w
  | .imad w => .long 0x07 none w
  | .idiv w => .long 0x08 none w
  | .irem w => .long 0x09 none w
  | .imin w => .long 0x0A (some 0) w
  | .iminShort f => .short 0x0A f
  | .imax w => .long 0x0A (some 1) w
  | .iabs w => .long 0x0B (some 0) w
  | .ineg w => .long 0x0B (some 1) w
  | .icmp w => .long 0x0C none w
  | .sel w => .long 0x0D none w
  | .andOp w => .long 0x0E (some 0) w
  | .andShort f => .short 0x0E f
  | .orOp w => .long 0x0E (some 1) w
  | .xorOp w => .long 0x0E (some 2) w
  | .andn w => .long 0x0E (some 3) w
  | .orn w => .long 0x0E (some 4) w
  | .shl w => .long 0x0F (some 0) w
  | .shlShort f => .short 0x0F f
  | .shr w => .long 0x0F (some 1) w
  | .sar w => .long 0x0F (some 2) w
  | .rol w => .long 0x0F (some 3) w
  | .bfx w => .long 0x10 (some 0) w
  | .bfxs w => .long 0x10 (some 1) w
  | .bfi w => .long 0x11 none w
  | .clz w => .long 0x12 (some 0) w
  | .ffs w => .long 0x12 (some 1) w
  | .popc w => .long 0x12 (some 2) w
  | .brev w => .long 0x12 (some 3) w
  | .prmb w => .long 0x13 none w
  | .lea w => .long 0x14 none w
  | .mov w => .long 0x15 none w
  | .movShort f => .short 0x15 f
  | .movl w => .long 0x16 none w
  | .gets w => .long 0x17 none w
  | .pand w => .long 0x18 (some 0) w
  | .por w => .long 0x18 (some 1) w
  | .pxor w => .long 0x18 (some 2) w
  | .pnot w => .long 0x18 (some 3) w
  | .pmov w => .long 0x18 (some 4) w
  | .nop w => .long 0x20 none w
  | .nopShort f => .short 0x20 f
  | .bra w => .long 0x21 none w
  | .brx w => .long 0x22 none w
  | .call w => .long 0x23 none w
  | .callx w => .long 0x24 none w
  | .ret w => .long 0x25 none w
  | .jset w => .long 0x26 none w
  | .jclr w => .long 0x27 none w
  | .wait w => .long 0x28 none w
  | .brk w => .long 0x29 none w
  | .exit w => .long 0x2A none w
  | .yield w => .long 0x2B none w
  | .vote w => .long 0x2C none w
  | .shfl w => .long 0x2D none w
  | .redux w => .long 0x2E none w
  | .scanx w => .long 0x2F none w
  | .matchLanes w => .long 0x30 none w
  | .elect w => .long 0x31 none w
  | .fadd w => .long 0x40 none w
  | .faddShort f => .short 0x40 f
  | .fsub w => .long 0x41 none w
  | .fmul w => .long 0x42 none w
  | .fmulShort f => .short 0x42 f
  | .ffma w => .long 0x43 none w
  | .fmin w => .long 0x44 none w
  | .fminShort f => .short 0x44 f
  | .fmax w => .long 0x45 none w
  | .fcmp w => .long 0x46 none w
  | .fclass w => .long 0x47 none w
  | .frnd w => .long 0x48 none w
  | .fexp w => .long 0x49 none w
  | .flog w => .long 0x4A none w
  | .frcp w => .long 0x4B none w
  | .frsq w => .long 0x4C none w
  | .fsqrt w => .long 0x4D none w
  | .fdiv w => .long 0x4E none w
  | .fsin w => .long 0x4F none w
  | .fcos w => .long 0x50 none w
  | .expins w => .long 0x51 none w
  | .expext w => .long 0x52 none w
  | .cvt w => .long 0x53 none w
  | .cvq w => .long 0x54 none w
  | .cvd w => .long 0x55 none w
  | .hadq w => .long 0x56 none w
  | .cvrn w => .long 0x57 none w
  | .rand w => .long 0x58 none w
  | .rkey w => .long 0x59 none w
  | .ragw w => .long 0x5A none w
  | .segred w => .long 0x5B none w
  | .rgrp w => .long 0x5C none w
  | .vxwalk w => .long 0x5D none w
  | .front w => .long 0x5E none w
  | .qld w => .long 0x80 none w
  | .qldd w => .long 0x81 none w
  | .qmov w => .long 0x82 none w
  | .qadd w => .long 0x83 none w
  | .qsub w => .long 0x84 none w
  | .qmul w => .long 0x85 none w
  | .qfma w => .long 0x86 none w
  | .qdiv w => .long 0x87 none w
  | .qsqrt w => .long 0x88 none w
  | .qneg w => .long 0x89 none w
  | .qabs w => .long 0x8A none w
  | .qcmp w => .long 0x8B none w
  | .qmid w => .long 0x8C none w
  | .qbnd w => .long 0x8D none w
  | .qref w => .long 0x8E none w
  | .qcut w => .long 0x8F none w
  | .qcutx w => .long 0x90 none w
  | .qfree w => .long 0x91 none w
  | .qstat w => .long 0x92 none w
  | .reelSweep _ => .event
  | .retakeRequestDone _ => .event
  | .ld w => .long 0xA0 none w
  | .st w => .long 0xA1 none w
  | .lda w => .long 0xA2 none w
  | .stl w => .long 0xA3 none w
  | .lds w => .long 0xA4 none w
  | .sts w => .long 0xA5 none w
  | .ldv w => .long 0xA6 none w
  | .stv w => .long 0xA7 none w
  | .atom w => .long 0xA8 none w
  | .red w => .long 0xA9 none w
  | .fence w => .long 0xAA none w
  | .wback w => .long 0xAB none w
  | .icinv w => .long 0xAC none w
  | .fetchb w => .long 0xAD none w
  | .pref w => .long 0xAE none w
  | .memoryResponse _ _ _ => .event
  | .publish _ _ => .event
  | .snoopRead _ _ _ => .event
  | .snoopInvalidate _ _ _ => .event
  | .snoopOwn _ _ _ => .event
  | .hostMemoryAccess _ _ _ _ _ => .event
  | .homeRequest _ _ _ => .event
  | .exfetch w => .long 0xB0 none w
  | .extest w => .long 0xB1 none w
  | .ecnt w => .long 0xB2 none w
  | .dailyFlush _ _ => .event
  | .cpy w => .long 0xC0 none w
  | .cpym w => .long 0xC1 none w
  | .cpyd w => .long 0xC2 none w
  | .cpyr w => .long 0xC3 none w
  | .comb w => .long 0xC4 none w
  | .seal w => .long 0xC5 none w
  | .bwait w => .long 0xC6 none w
  | .bpoll w => .long 0xC7 none w
  | .flagr w => .long 0xC8 none w
  | .flagRaise _ => .event
  | .copyStart _ => .event
  | .copyFinish _ => .event
  | .mprec w => .long 0xD0 none w
  | .mloadb w => .long 0xD1 none w
  | .mrun w => .long 0xD2 none w
  | .mzero w => .long 0xD3 (some 0) w
  | .mzeroFree w => .long 0xD3 (some 1) w
  | .mscale w => .long 0xD4 none w
  | .mstat w => .long 0xD5 none w
  | .msave w => .long 0xD6 (some 0) w
  | .msaveStop w => .long 0xD6 (some 1) w
  | .mrest w => .long 0xD7 none w
  | .tsl w => .long 0xD8 none w
  | .tss w => .long 0xD9 none w
  | .twait w => .long 0xDA (some 0) w
  | .twaitT w => .long 0xDA (some 1) w
  | .mrecon w => .long 0xDB none w
  | .tileAllocate _ => .event
  | .arrayPick _ => .event
  | .imageLoaded _ => .event
  | .kStepEnd _ => .event
  | .tileCommandComplete _ => .event
  | .cimParityError _ => .event
  | .tileStoreError _ _ _ _ => .event
  | .rput w => .long 0xE0 (some 0) w
  | .rputInit w => .long 0xE0 (some 1) w
  | .rget w => .long 0xE1 none w
  | .doneRegion w => .long 0xE2 none w
  | .idemb w => .long 0xE3 none w
  | .ideme w => .long 0xE4 none w
  | .carve w => .long 0xE5 none w
  | .carveApply _ => .event
  | .blockAdmit _ => .event
  | .blockRetire _ => .event
  | .slateRelease _ => .event
  | .barMeet w => .long 0xE6 (some 0) w
  | .barPost w => .long 0xE6 (some 1) w
  | .barAwait w => .long 0xE6 (some 2) w
  | .barLast w => .long 0xE6 (some 3) w
  | .cbarMeet w => .long 0xE7 (some 0) w
  | .cbarPost w => .long 0xE7 (some 1) w
  | .cbarAwait w => .long 0xE7 (some 2) w
  | .cbarLast w => .long 0xE7 (some 3) w
  | .castArrival _ _ => .event
  | .pbarMeet w => .long 0xE8 (some 0) w
  | .pbarPost w => .long 0xE8 (some 1) w
  | .pbarAwait w => .long 0xE8 (some 2) w
  | .pbarCfg w => .long 0xE8 (some 3) w
  | .clapperRootArrival _ _ => .event
  | .clapperCountdownElapse _ _ => .event
  | .enq w => .long 0xE9 none w
  | .waitev w => .long 0xEA none w
  | .sigevAdd w => .long 0xEB (some 0) w
  | .sigevSet w => .long 0xEB (some 1) w
  | .tailReread _ => .event
  | .waitWordChange _ => .event
  | .arbiterPick => .event
  | .budgetPeriod => .event
  | .launchSplit _ => .event
  | .takeOpened _ => .event
  | .mailboxPost _ => .event
  | .launchComplete _ => .event
  | .launchDeadline _ => .event
  | .mboxr w => .long 0xEC none w
  | .spawn w => .long 0xED none w
  | .fwd w => .long 0xEE none w
  | .directorWatchdog _ => .event
  | .trap w => .long 0xF0 (some 0) w
  | .trapAbort w => .long 0xF0 (some 1) w
  | .rett w => .long 0xF1 none w
  | .hcall w => .long 0xF2 none w
  | .hostCallPost _ => .event
  | .hostCallReply _ _ => .event
  | .tmrset w => .long 0xF3 none w
  | .sysrd w => .long 0xF4 none w
  | .syswr w => .long 0xF5 none w
  | .bkpt w => .long 0xF6 none w
  | .crewTimerFire _ _ => .event
  | .regroup => .event
  | .alloc _ => .event
  | .run _ => .event
  | .preempt _ => .event
  | .reset _ => .event
  | .drained _ => .event
  | .drainDeadline _ => .event
  | .saveStepComplete _ => .event
  | .resetDeadline _ => .event
  | .resetComplete _ => .event
  | .queueBind _ _ => .event
  | .queueUnbind _ => .event
  | .qtail _ _ => .event
  | .chdoor _ _ => .event
  | .cpfdoor _ _ => .event
  | .pageFaultPost _ => .event
  | .pageFaultReply _ _ => .event
  | .tlbWalkComplete _ => .event
  | .ctlbinv _ _ _ _ => .event
  | .tlbInvalidateComplete => .event
  | .fetch _ _ => .event
  | .evict _ _ => .event
  | .expertFetchStart => .event
  | .expertLand _ _ _ => .event
  | .dailyWrite _ _ => .event
  | .full => .event
  | .dirty => .event
  | .abort => .event
  | .checkpointCutDone => .event
  | .checkpointStreamDone _ => .event
  | .flitReceive _ _ => .event
  | .retransmitTimeout _ _ => .event
  | .requestTimeout _ _ => .event
  | .portEnable _ _ => .event
  | .portDisable _ _ => .event
  | .portTrained _ _ _ _ => .event
  | .trainingTimeout _ => .event
  | .portIdle _ => .event
  | .portErrors _ _ => .event
  | .portWake _ => .event
  | .wakeReady _ => .event
  | .wakeTimeout _ => .event
  | .spokeSuspect _ => .event
  | .heartbeatSend => .event
  | .heartbeat _ => .event
  | .declare _ => .event
  | .fenceCommand _ => .event
  | .agentFenced _ => .event
  | .strikeComplete _ => .event
  | .unfenceVote _ _ _ _ => .event
  | .unfence _ _ => .event
  | .hubid _ => .event
  | .boot _ => .event
  | .recoveryRetry _ => .event
  | .attreq _ => .event
  | .attestationDone => .event
  | .pwrlim _ => .event
  | .powerSample _ => .event
  | .scrub _ _ => .event
  | .registerWrite _ _ _ => .event
  | .debugChallenge _ _ => .event
  | .managementAttestationRequest _ => .event
  | .minimumVersionRaise _ => .event

/-- A row of the inverse map: opcode, function code if it selects, constructor. -/
abbrev BuildRow := Nat × Option Nat × (Fields → Instr)

/-- Opcodes 0x00 to 0x1F (R68). -/
def buildThread : List BuildRow := [
  (0x01, none, .iadd),
  (0x02, none, .isub),
  (0x03, none, .iaddc),
  (0x04, none, .isubb),
  (0x05, none, .imul),
  (0x06, none, .imulh),
  (0x07, none, .imad),
  (0x08, none, .idiv),
  (0x09, none, .irem),
  (0x0A, some 0, .imin),
  (0x0A, some 1, .imax),
  (0x0B, some 0, .iabs),
  (0x0B, some 1, .ineg),
  (0x0C, none, .icmp),
  (0x0D, none, .sel),
  (0x0E, some 0, .andOp),
  (0x0E, some 1, .orOp),
  (0x0E, some 2, .xorOp),
  (0x0E, some 3, .andn),
  (0x0E, some 4, .orn),
  (0x0F, some 0, .shl),
  (0x0F, some 1, .shr),
  (0x0F, some 2, .sar),
  (0x0F, some 3, .rol),
  (0x10, some 0, .bfx),
  (0x10, some 1, .bfxs),
  (0x11, none, .bfi),
  (0x12, some 0, .clz),
  (0x12, some 1, .ffs),
  (0x12, some 2, .popc),
  (0x12, some 3, .brev),
  (0x13, none, .prmb),
  (0x14, none, .lea),
  (0x15, none, .mov),
  (0x16, none, .movl),
  (0x17, none, .gets),
  (0x18, some 0, .pand),
  (0x18, some 1, .por),
  (0x18, some 2, .pxor),
  (0x18, some 3, .pnot),
  (0x18, some 4, .pmov)]

/-- Opcodes 0x20 to 0x3F (R68). -/
def buildCrew : List BuildRow := [
  (0x20, none, .nop),
  (0x21, none, .bra),
  (0x22, none, .brx),
  (0x23, none, .call),
  (0x24, none, .callx),
  (0x25, none, .ret),
  (0x26, none, .jset),
  (0x27, none, .jclr),
  (0x28, none, .wait),
  (0x29, none, .brk),
  (0x2A, none, .exit),
  (0x2B, none, .yield),
  (0x2C, none, .vote),
  (0x2D, none, .shfl),
  (0x2E, none, .redux),
  (0x2F, none, .scanx),
  (0x30, none, .matchLanes),
  (0x31, none, .elect)]

/-- Opcodes 0x40 to 0x7F (R68). -/
def buildVector : List BuildRow := [
  (0x40, none, .fadd),
  (0x41, none, .fsub),
  (0x42, none, .fmul),
  (0x43, none, .ffma),
  (0x44, none, .fmin),
  (0x45, none, .fmax),
  (0x46, none, .fcmp),
  (0x47, none, .fclass),
  (0x48, none, .frnd),
  (0x49, none, .fexp),
  (0x4A, none, .flog),
  (0x4B, none, .frcp),
  (0x4C, none, .frsq),
  (0x4D, none, .fsqrt),
  (0x4E, none, .fdiv),
  (0x4F, none, .fsin),
  (0x50, none, .fcos),
  (0x51, none, .expins),
  (0x52, none, .expext),
  (0x53, none, .cvt),
  (0x54, none, .cvq),
  (0x55, none, .cvd),
  (0x56, none, .hadq),
  (0x57, none, .cvrn),
  (0x58, none, .rand),
  (0x59, none, .rkey),
  (0x5A, none, .ragw),
  (0x5B, none, .segred),
  (0x5C, none, .rgrp),
  (0x5D, none, .vxwalk),
  (0x5E, none, .front)]

/-- Opcodes 0x80 to 0x9F (R68). -/
def buildTracked : List BuildRow := [
  (0x80, none, .qld),
  (0x81, none, .qldd),
  (0x82, none, .qmov),
  (0x83, none, .qadd),
  (0x84, none, .qsub),
  (0x85, none, .qmul),
  (0x86, none, .qfma),
  (0x87, none, .qdiv),
  (0x88, none, .qsqrt),
  (0x89, none, .qneg),
  (0x8A, none, .qabs),
  (0x8B, none, .qcmp),
  (0x8C, none, .qmid),
  (0x8D, none, .qbnd),
  (0x8E, none, .qref),
  (0x8F, none, .qcut),
  (0x90, none, .qcutx),
  (0x91, none, .qfree),
  (0x92, none, .qstat)]

/-- Opcodes 0xA0 to 0xBF (R68). -/
def buildLine : List BuildRow := [
  (0xA0, none, .ld),
  (0xA1, none, .st),
  (0xA2, none, .lda),
  (0xA3, none, .stl),
  (0xA4, none, .lds),
  (0xA5, none, .sts),
  (0xA6, none, .ldv),
  (0xA7, none, .stv),
  (0xA8, none, .atom),
  (0xA9, none, .red),
  (0xAA, none, .fence),
  (0xAB, none, .wback),
  (0xAC, none, .icinv),
  (0xAD, none, .fetchb),
  (0xAE, none, .pref),
  (0xB0, none, .exfetch),
  (0xB1, none, .extest),
  (0xB2, none, .ecnt)]

/-- Opcodes 0xC0 to 0xDF (R68). -/
def buildCopyTile : List BuildRow := [
  (0xC0, none, .cpy),
  (0xC1, none, .cpym),
  (0xC2, none, .cpyd),
  (0xC3, none, .cpyr),
  (0xC4, none, .comb),
  (0xC5, none, .seal),
  (0xC6, none, .bwait),
  (0xC7, none, .bpoll),
  (0xC8, none, .flagr),
  (0xD0, none, .mprec),
  (0xD1, none, .mloadb),
  (0xD2, none, .mrun),
  (0xD3, some 0, .mzero),
  (0xD3, some 1, .mzeroFree),
  (0xD4, none, .mscale),
  (0xD5, none, .mstat),
  (0xD6, some 0, .msave),
  (0xD6, some 1, .msaveStop),
  (0xD7, none, .mrest),
  (0xD8, none, .tsl),
  (0xD9, none, .tss),
  (0xDA, some 0, .twait),
  (0xDA, some 1, .twaitT),
  (0xDB, none, .mrecon)]

/-- Opcodes 0xE0 to 0xFF (R68). -/
def buildGroup : List BuildRow := [
  (0xE0, some 0, .rput),
  (0xE0, some 1, .rputInit),
  (0xE1, none, .rget),
  (0xE2, none, .doneRegion),
  (0xE3, none, .idemb),
  (0xE4, none, .ideme),
  (0xE5, none, .carve),
  (0xE6, some 0, .barMeet),
  (0xE6, some 1, .barPost),
  (0xE6, some 2, .barAwait),
  (0xE6, some 3, .barLast),
  (0xE7, some 0, .cbarMeet),
  (0xE7, some 1, .cbarPost),
  (0xE7, some 2, .cbarAwait),
  (0xE7, some 3, .cbarLast),
  (0xE8, some 0, .pbarMeet),
  (0xE8, some 1, .pbarPost),
  (0xE8, some 2, .pbarAwait),
  (0xE8, some 3, .pbarCfg),
  (0xE9, none, .enq),
  (0xEA, none, .waitev),
  (0xEB, some 0, .sigevAdd),
  (0xEB, some 1, .sigevSet),
  (0xEC, none, .mboxr),
  (0xED, none, .spawn),
  (0xEE, none, .fwd),
  (0xF0, some 0, .trap),
  (0xF0, some 1, .trapAbort),
  (0xF1, none, .rett),
  (0xF2, none, .hcall),
  (0xF3, none, .tmrset),
  (0xF4, none, .sysrd),
  (0xF5, none, .syswr),
  (0xF6, none, .bkpt)]

/-- The rows of an opcode's class. -/
def buildTable (op : Nat) : List BuildRow :=
  if op < 0x20 then buildThread else if op < 0x40 then buildCrew else if op < 0x80 then buildVector
  else if op < 0xA0 then buildTracked else if op < 0xC0 then buildLine else if op < 0xE0 then buildCopyTile
  else buildGroup

/-- Whether a row is the one of an opcode and function code. -/
def BuildRow.selects (r : BuildRow) (op fn : Nat) : Bool :=
  r.1 == op && (match r.2.1 with | none => true | some k => k == fn)

/-- The instruction of an opcode and fields. -/
def buildLong (op : Nat) (f : Fields) : Option Instr :=
  ((buildTable op).find? fun r => BuildRow.selects r op f.fn.toNat).map fun r => r.2.2 f

/-- The instruction of the 32-bit form of an opcode (R50, R68). -/
def buildShort (op : Nat) (f : ShortFields) : Option Instr :=
  if op = 0x01 then some (.iaddShort f)
  else if op = 0x02 then some (.isubShort f)
  else if op = 0x05 then some (.imulShort f)
  else if op = 0x0A then some (.iminShort f)
  else if op = 0x0E then some (.andShort f)
  else if op = 0x0F then some (.shlShort f)
  else if op = 0x15 then some (.movShort f)
  else if op = 0x20 then some (.nopShort f)
  else if op = 0x40 then some (.faddShort f)
  else if op = 0x42 then some (.fmulShort f)
  else if op = 0x44 then some (.fminShort f)
  else none

end Sys2Proof.Machine
end

