-- ==== Sys2Proof/WellFormed.lean ====
section
/-! DEFINITION. Well-formedness: an instruction that some word of the encoding stands for, under given launch limits. -/

namespace Sys2Proof
open Sys2Proof.Machine

/-- The ILL detail of an instruction under the launch's limits, 0 where it is legal; an event has none (R66). A function
code that does not select the constructor is detail 0x04. -/
def Instr.illDetail (lim : Limits) (i : Instr) : Nat :=
  match partsOf i with
  | .long op fn f =>
    match fn with
    | none => Machine.illDetail lim op f
    | some k => if f.fn.toNat = k then Machine.illDetail lim op f else 0x04
  | .short op f => illDetailShort lim op f
  | .event => 0

/-- The instruction is encodable: no cause of ILL applies but the launch's register counts. -/
def Instr.wf (i : Instr) : Bool := i.illDetail Limits.all == 0

/-- Whether an instruction has an encoding. -/
def Instr.encoded (i : Instr) : Bool :=
  match partsOf i with
  | .event => false
  | _ => true

end Sys2Proof
end

