-- ==== Sys2Proof/Machine/Ops.lean ====
section
/-! DEFINITION. The named operations over the state: finding and changing an object, the agents' own accesses, the
fault log, the kill of a block, taking a fault and returning from one (R326 to R335, R344), and the frame in which
every instruction of a bundle runs (R57, R59, R66, R67, R106, R112, R330). -/

namespace Sys2Proof.Machine
open Sys2Proof

/-! ### Frozen contexts -/

/-- Whether nothing of a context issues or starts: its save step runs (R341), or a checkpoint cuts (R368). -/
def State.frozen (s : State) (ctx : Nat) : Bool :=
  (match s.ctxs[ctx]? with | some c => c.saving | none => false) || (s.ckpt.state == .cutting && bitAt s.ckpt.ctxs ctx &&
    (match s.ctxs[ctx]? with | some c => c.state == .running | none => false))

/-! ### The agents' own accesses

The hub and the engines reach virtual memory through a context's tables without the USR check of programs. -/

/-- Whether an expert of a context is RESIDENT (R359). -/
def State.expertResident (s : State) (ctx exid : Nat) : Bool :=
  s.experts.any fun e => e.ctx == ctx && e.id == exid && e.st == .resident

/-- The physical address of a virtual address for a device agent, by a walk of its own, with its leaf (R350). -/
def State.agentXlate (s : State) (ctx va : Nat) (acc : Access) (user : Bool) (shadow : Bool) : Except XFault (Nat × Leaf) :=
  match s.ctxs[ctx]? with
  | none => .error (protFault 0x01)
  | some c =>
    if va ≥ 2 ^ 53 then .error (protFault 0x01) else
    match walkTables s.mem s.hubid c.root va with
    | .error e => .error e
    | .ok l =>
      if l.type = 3 then .error (pageFault 0x03)
      else if user && !l.usr then .error (protFault 0x02)
      else if (match acc with | .read => !l.rd | .write => !l.wr | .exec => !l.xe | .atomic => !(l.rd && l.wr)) then
        .error (protFault 0x02)
      else if l.type = 1 && !s.expertResident ctx l.exid then .error (pageFault 0x02)
      else
        let off := va % 2 ^ l.offsetBits
        if l.type = 2 && shadow then
          match shadowFrame s.mem s.hubid l with
          | .error e => .error e
          | .ok f => .ok (f + off, l)
        else .ok (l.frame + off, l)

/-- The physical address alone. -/
def State.agentPa (s : State) (ctx va : Nat) (acc : Access) (user : Bool) (shadow : Bool) : Except XFault Nat :=
  match s.agentXlate ctx va acc user shadow with
  | .ok p => .ok p.1
  | .error e => .error e

/-- Bytes of the coherent memory at a physical address. -/
def State.agentMem (s : State) (pa n : Nat) : List Byte := readBytes s.mem (memKey s.hubid pa) n

/-- Every copy of some lines dropped, as they are written at their home: outside holders are snooped (R212, R373). What a dead agent
holds stays for the strike (R381). -/
def State.dropHolders (s : State) (lines : List Nat) : State :=
  let s := lines.foldl (fun (s : State) k => s.snoopOut k true) s
  { s with l2 := s.l2.filter fun l => !lines.contains l.line || s.dieFenced l.die,
           dir := s.dir.filter fun d => !lines.contains d.line || (match d.owner with | some a => s.agentDead a | none => false),
           hostCache := s.hostCache.filter fun h => !lines.contains h.1 }

/-- The part of some bytes at a key that lies in a line of a peer's memory, written: into a die's line where one owns it, else at the
peer, and what the dies hold of the line is given up. -/
def State.peerWrite (s : State) (line k : Nat) (bs : List Byte) : State :=
  let lo := max k (line * 128)
  let part := (bs.drop (lo - k)).take (line * 128 + 128 - lo)
  if s.l2.any fun l => l.line == line && l.st == .m then { s with mem := writeBytes s.mem lo part }
  else
    let held := s.l2.any fun l => l.line == line
    let s : State := if held then { s with l2 := s.l2.filter fun l => l.line != line
                                           mem := writeBytes s.mem (line * 128) (List.replicate 128 0) } else s
    s.postWrite lo part

/-- A coherent write by an agent at the home: the bytes change and nobody else holds the lines any more (R212). -/
def State.homeWrite (s : State) (pa : Nat) (bs : List Byte) : State :=
  let k := memKey s.hubid pa
  if peerKey k then (linesOf k bs.length).foldl (fun (s : State) line => s.peerWrite line k bs) s
  else
    let s := s.dropHolders (linesOf k bs.length)
    { s with mem := writeBytes s.mem k bs }

/-- D of an entry, by an atomic OR or AND at its home (R354, R368), and in every cached copy of it. -/
def State.putDirty (s : State) (entryAddr : Nat) (d : Bool) : State :=
  let b := readByte s.mem (memKey s.hubid (entryAddr + 1))
  { s.homeWrite (entryAddr + 1) [if d then b ||| 2 else b &&& 0xFD] with
    tlb := mapWhere (fun e => e.entryAddr == entryAddr) (fun e => { e with dirty := d }) s.tlb }

/-- The device frames that a leaf names, each with its size in 8 KiB pages: the shadow frame is one of them (R368). -/
def leafFrames (m : List Host.Cell) (hubid e level addr : Nat) : List (Nat × Nat) :=
  let l := leafOf hubid e level addr
  match targetOf hubid l.frame with
  | .own _ =>
    let n := 1024 ^ (3 - level)
    if l.type = 2 then (match shadowFrame m hubid l with | .ok f => [(l.frame, n), (f, n)] | .error _ => [(l.frame, n)])
    else [(l.frame, n)]
  | _ => []

/-- The parts of a run of 8 KiB pages that lie outside another run; runs are a first address and a number of pages. -/
def outsideRun (t : Nat × Nat) (r : Nat × Nat) : List (Nat × Nat) :=
  let e := r.1 + 8192 * r.2
  let te := t.1 + 8192 * t.2
  if e ≤ t.1 ∨ te ≤ r.1 then [r]
  else (if r.1 < t.1 then [(r.1, (t.1 - r.1) / 8192)] else []) ++ (if te < e then [(te, (e - te) / 8192)] else [])

/-- The parts of a run of pages that no run of a list holds. -/
def outsideRuns (sent : List (Nat × Nat)) (r : Nat × Nat) : List (Nat × Nat) :=
  sent.foldl (fun rs t => rs.flatMap (outsideRun t)) [r]

def State.updCkpt (s : State) (f : Checkpoint → Checkpoint) : State := { s with ckpt := f s.ckpt }

/-- The header of a page in an image (R368, step 4): context slot, virtual address, frame address, SEQ. No rule gives their places
(DESIGN CHOICE, log entry 23). -/
def imageHeader (ctx va frame seq : Nat) : List Byte := toBytes ctx 8 ++ toBytes va 8 ++ toBytes frame 8 ++ toBytes seq 8 ++ toBytes 0 32

/-- A part of a checkpoint's image sent to its safe tier, on channel 4 (R368, R373). -/
def State.sendImage (s : State) (at_ : Nat) (bs : List Byte) : State :=
  s.postReq none none 0 0 checkpointOp 0 0 noFields
    [reqElem (.peer s.ckpt.agent) 0 (s.ckpt.agent * 2 ^ 39 + (s.ckpt.base + at_) % 2 ^ 39) bs.length .write bs]

/-- The pages of a run of frames sent, the first at a place of the image. -/
def State.sendPages (s : State) (p : KPage) (first : Nat) (run : Nat × Nat) : State :=
  (List.range run.2).foldl (fun (s : State) i =>
    let frame := run.1 + 8192 * i
    s.sendImage (8256 * (first + i)) (imageHeader p.ctx (p.va + 8192 * i) frame s.ckpt.seq ++ s.agentMem frame 8192)) s

/-- A checkpoint's destination has failed (R368, step 5): nothing of it is sent any more. -/
def State.failCheckpoint (s : State) (cause : Nat) : State :=
  ({ s with reqs := s.reqs.filter fun r => r.op != checkpointOp } : State).updCkpt fun k =>
    { k with state := .failed, cause, todo := [], trailer := false }

/-- One page examined by the checkpoint (R368, steps 2 and 3): sent where the mode is FULL or D is set, then D cleared.
A frame that several entries map is sent once, page by page of 8 KiB. The entry is read as it stands. -/
def State.examine (s : State) (p : KPage) (level : Nat) : State :=
  let e := readNat s.mem (memKey s.hubid p.entryAddr) 8
  let k := { s.ckpt with todo := s.ckpt.todo.filter fun q => q.entryAddr != p.entryAddr }
  if !(bitAt e 0 && bitAt e 1) then { s with ckpt := k }
  else if s.ckpt.full || bitAt e 9 then
    let fresh := (leafFrames s.mem s.hubid e level p.entryAddr).foldl (fun (a : List (Nat × Nat)) f => a ++ outsideRuns (k.sent ++ a) f) []
    let s : State := fresh.foldl (fun (s : State) f =>
      (s.sendPages p s.ckpt.pages f).updCkpt fun k => { k with pages := (k.pages + f.2) % 2 ^ 32 }) { s with ckpt := k }
    (s.updCkpt fun k => { k with sent := k.sent ++ fresh }).putDirty p.entryAddr false
  else { s with ckpt := k }

/-- D set by a walker before a write (R354); while a checkpoint streams, the engine first examines a page that it has
not yet examined (R368). -/
def State.setDirty (s : State) (l : Leaf) : State :=
  let pend := if s.ckpt.state = .streaming then s.ckpt.todo.find? fun p => p.entryAddr == l.entryAddr else none
  match pend with
  | some p => (s.examine p l.level).putDirty l.entryAddr true
  | none => if l.dirty then s else s.putDirty l.entryAddr true

/-- The pieces of a range by the 8 KiB pages it lies in: offset in the range, and length. -/
def pagePieces : Nat → Nat → Nat → Nat → List (Nat × Nat)
  | 0, _, _, _ => []
  | fuel + 1, va, off, n =>
    if n ≤ off then []
    else
      let k := min (n - off) (8192 - (va + off) % 8192)
      (off, k) :: pagePieces fuel va (off + k) n

/-- The translations of a range for a device agent, piece by piece; the first that fails. -/
def State.agentRange (s : State) (ctx va n : Nat) (acc : Access) : Except XFault (List (Nat × Nat × Nat × Leaf)) :=
  (pagePieces (n / 8192 + 2) va 0 n).mapM fun p => match s.agentXlate ctx (va + p.1) acc false false with
    | .error e => .error e
    | .ok t => .ok (p.1, p.2, t.1, t.2)

/-- A write by an agent at a virtual address: D is set first (R354); nothing where a piece does not translate. -/
def State.agentWrite (s : State) (ctx va : Nat) (bs : List Byte) : State :=
  match s.agentRange ctx va bs.length .write with
  | .error _ => s
  | .ok ps => ps.foldl (fun (s : State) p => (s.setDirty p.2.2.2).homeWrite p.2.2.1 ((bs.drop p.1).take p.2.1)) s

/-- A read by an agent of a number at a virtual address. -/
def State.agentRead (s : State) (ctx va n : Nat) : Except XFault Nat :=
  match s.agentRange ctx va n .read with
  | .error e => .error e
  | .ok ps => .ok (fromBytes (ps.flatMap fun p => s.agentMem p.2.2.1 p.2.1))

/-! ### The fault log (R346) -/

/-- An event of R346. -/
structure LogEvent where
  cls : Nat
  detail : Nat
  handler : Bool := false
  async : Bool := false
  core : Nat := 0xFFFF
  crew : Nat := 0
  blk : Nat := 0
  attempt : Nat := 0
  pc : Nat := 0
  lanes : Nat := 0
  tag : Nat := 0
  eaddr : Nat := 0
  einfo : Nat := 0
  copy : Nat := 0
deriving DecidableEq, Repr

/-- The 64 bytes of an entry (R346). -/
def LogEvent.bytes (e : LogEvent) (ctx cycle : Nat) : List Byte :=
  toBytes e.cls 1 ++ toBytes e.detail 1 ++ toBytes (ofBool e.handler + 2 * ofBool e.async) 1 ++ toBytes ctx 1 ++
  toBytes e.core 2 ++ toBytes (e.crew % 32) 2 ++ toBytes e.blk 4 ++ toBytes e.attempt 4 ++ toBytes e.pc 8 ++
  toBytes e.lanes 4 ++ toBytes e.tag 4 ++ toBytes e.eaddr 8 ++ toBytes e.einfo 8 ++ toBytes e.copy 8 ++
  toBytes cycle 8

/-- An event logged: LASTCLS always, the entry where the context has a log (R346). -/
def State.logEvent (s : State) (ctx : Nat) (e : LogEvent) : State :=
  let s := s.updCtx ctx fun c => { c with lastcls := e.cls }
  match s.ctxs[ctx]? with
  | none => s
  | some c =>
    if c.lbase = 0 then s else
    let va := c.lbase + 64 * (c.logcnt % 2 ^ c.log2n)
    match s.agentRange ctx va 64 .write with
    | .error _ => s
    | .ok _ =>
      (s.agentWrite ctx va (e.bytes ctx s.hubCycle)).updCtx ctx fun c => { c with logcnt := (c.logcnt + 1) % 2 ^ 32 }

/-! ### Dailies gathered by a crew (R363) -/

/-- A completion event that cannot be made is logged as PROT 0x0A with the fault that it met (R276, R326). -/
def State.logEventFailure (s : State) (ctx tag lin va cls detail : Nat) : State :=
  s.logEvent ctx { cls := 5, detail := 0x0A, async := true, blk := lin, tag, eaddr := va, einfo := cls * 256 + detail }

/-- A sparse table of words with one entry changed; zeros are not listed. -/
def setSparse (t : List (Nat × Word)) (i : Nat) (v : Word) : List (Nat × Word) :=
  match t with
  | [] => if v = 0 then [] else [(i, v)]
  | (k, x) :: r =>
    if i = k then (if v = 0 then r else (i, v) :: r)
    else if i < k then (if v = 0 then (k, x) :: r else (i, v) :: (k, x) :: r)
    else (k, x) :: setSparse r i v

/-- The count of a daily (R364). -/
def State.daily (s : State) (i : Nat) : Word := match s.dailies.find? fun p => p.1 == i with | some p => p.2 | none => 0

/-- The gathered increments of a crew flushed to the hub (R363). -/
def State.flushDailies (s : State) (uid ci : Nat) : State :=
  match s.crew? uid ci with
  | none => s
  | some c =>
    let s := c.dailies.foldl (fun (s : State) d =>
      { s with dailies := setSparse s.dailies d.counter (s.daily d.counter + d.sum) }) s
    s.updCrew uid ci fun c => { c with dailies := [], dailyAge := none }

/-! ### The end of a block -/

/-- The packet of one block (R314). -/
def blockPacket (sheet tag attempt x y z : Nat) : List Byte :=
  toBytes (sheet % 2 ^ 53) 8 ++ toBytes tag 4 ++ toBytes attempt 4 ++ toBytes x 4 ++ toBytes (x + 1) 4 ++
  toBytes y 4 ++ toBytes (y + 1) 4 ++ toBytes z 4 ++ toBytes (z + 1) 4 ++ toBytes 0 24

/-- The die that takes over the work of a die: itself, or the next live one in ascending order (R313). -/
def State.liveDie (s : State) (d : Nat) : Nat :=
  (([0, 1, 2, 3].map fun i => (d + i) % 4).find? fun i => !s.dieFenced i).getD d

/-- The coordinates of a linear index (R81). -/
def Sheet.coords (sh : Sheet) (lin : Nat) : Nat × Nat × Nat := (lin % sh.nx, lin / sh.nx % sh.ny, lin / sh.nx / sh.ny)

/-- A block and everything it holds freed, with nothing published (R264); its gathered increments are flushed. -/
def State.removeBlock (s : State) (uid : Nat) : State :=
  match s.block? uid with
  | none => s
  | some b =>
    let s := (List.range b.body.crews.length).foldl (fun s i => s.flushDailies uid i) s
    { s with news := s.news + 1,
             blocks := s.blocks.filter fun b => b.uid != uid,
             copies := s.copies.filter fun c => c.uid != uid,
             retakes := s.retakes.filter fun r => r.uid != uid,
             reqs := s.reqs.filter fun r => (match r.owner with | some o => o.1 != uid | none => true) &&
               !(s.copies.any fun c => c.uid == uid && r.copy == some c.id),
             l1 := s.l1.filter fun l => match l.priv with | some p => p.1 != uid | none => true,
             cores := s.cores.map fun c => { c with
               array := c.array.filter fun a => a.uid != uid, image := c.image.filter fun i => i.uid != uid } }

/-- The take regions of a launch closed without a commit (R366): shadow translations and the lines of the regions go, STATUS
is written with a release at scope sys (R323). -/
def State.closeTakes (s : State) (tag status : Nat) : State :=
  match s.launches.find? fun l => l.tag == tag with
  | none => s
  | some l =>
    let mine := s.takes.filter fun t => t.launch == tag
    if mine.isEmpty then s
    else
      let hit : L1Line → Bool := fun k => k.ctx == l.ctx && mine.any fun t =>
        decide (t.lo ≤ k.vline * 128) && decide (k.vline * 128 < t.lo + t.size)
      let s : State := { s with
        mem := (s.l1.filter fun k => hit k && k.written != 0).foldl (fun m k => mergeBytes m (k.pline * 128) k.data k.written) s.mem
        l1 := s.l1.filter fun k => !hit k
        takes := s.takes.filter fun t => t.launch != tag
        tlb := s.tlb.filter fun e => e.tag != some tag }
      s.agentWrite l.ctx (l.sheet.takes + 4) (toBytes status 4)

/-- A launch ends without being DONE (R312): its take regions close, its slate buffers are dropped, its cast barriers cleared (R345). -/
def State.endLaunch (s : State) (tag : Nat) (st : LState) : State :=
  let s := (s.closeTakes tag 2).updLaunch tag fun l => { l with state := st, casts := [] }
  { s with slates := s.slates.filter fun b => b.launch != tag }

/-- A launch that is still going is FAILED. -/
def State.failLaunch (s : State) (tag : Nat) : State :=
  match s.launch? tag with
  | some l => if l.state = .running ∨ l.state = .splitting then s.endLaunch tag .failed else s
  | none => s

/-- Whether a killed block is spawned again (R280). -/
def Block.retries (b : Block) : Bool := b.sheet.idem && decide (b.attempt < b.sheet.retry)

/-- The director of a die left idle, its packet served (R317, R318). -/
def State.idleDirector (s : State) (d : Nat) : State :=
  let rest : Thread → Thread := fun t => { t with st := .exited, reqs := [] }
  let idle : Crew → Crew := fun c => { c with live := false, bundles := [], threads := c.threads.map rest }
  let blocks := mapWhere (fun (b : Block) => b.isDirector && b.die == d)
    (fun b => { b with body := { b.body with crews := b.body.crews.map idle } }) s.blocks
  { s with blocks, dies := updAt s.dies d fun k => { k with serving := none, called := none } }

/-- The context goes to FAULTED: every block of it is killed, a launch whose block has no retry left is FAILED, a director
that runs a routine in it goes idle (R312, R325, R344). -/
def State.faultContext (s : State) (ctx : Nat) : State :=
  let s := s.updCtx ctx fun c => if c.state = .running ∨ c.state = .draining then { c with state := .faulted } else c
  let mine := s.blocks.filter fun b => b.ctx == ctx && !b.isDirector
  let s := mine.foldl (fun (s : State) b => s.removeBlock b.uid) s
  let s := mine.foldl (fun (s : State) b => if b.retries then s else s.failLaunch b.launch) s
  (s.blocks.filter fun b => b.ctx == ctx && b.isDirector).foldl (fun (s : State) b => s.idleDirector b.die) s

/-- A fault of a director's routine that nothing recovers: it serves no block that could be spawned again, so its launch is
FAILED and its context goes to FAULTED (R344); the stock director goes on. -/
def State.failDirector (s : State) (b : Block) : State :=
  ((s.failLaunch b.launch).idleDirector b.die).faultContext b.ctx

/-- An unrecoverable fault kills a block: relaunched while the launch allows it, else the context goes to FAULTED
(R280, R312, R344). -/
def State.killBlock (s : State) (uid : Nat) : State :=
  match s.block? uid with
  | none => s
  | some b =>
    if b.isDirector then s.failDirector b else
    let s := s.removeBlock uid
    let s := s.updLaunch b.launch fun l => { l with spawned := l.spawned.filter (· != b.lin), attempts := putKey l.attempts b.lin (b.attempt + 1) }
    if b.retries then
      let xyz := b.sheet.coords b.lin
      let pkt := blockPacket b.sheet.addr b.launch (b.attempt + 1) xyz.1 xyz.2.1 xyz.2.2
      { s with held := s.held ++ [(s.liveDie b.die, pkt)] }
    else
      (s.failLaunch b.launch).faultContext b.ctx

/-! ### Taking a fault (R327 to R332) -/

/-- PROT with an address (R326). -/
def protF (detail eaddr : Nat) : LaneFault := ⟨5, detail, eaddr, 0, 0⟩
/-- ALIGN with the address and the log2 of the required alignment (R326). -/
def alignF (addr log2 : Nat) : LaneFault := ⟨4, 0, addr, log2, 0⟩
/-- ILL with the descriptor cause (R326). -/
def descF (addr value : Nat) : LaneFault := ⟨1, 0x10, addr, value % 2 ^ 32, 0⟩
/-- ILL of a detail of R66. -/
def illF (detail : Nat) : LaneFault := ⟨1, detail, 0, 0, 0⟩
/-- s.einfo of REMOTE for a home (R326). -/
def remoteInfo (home : Nat) : Nat :=
  if home = hostAgent then 2 ^ 12 else if home < hostAgent then home else 2 ^ 13 + (home - dieAgent 0)

/-- REMOTE with reissues exhausted (R374). -/
def remoteF (va home : Nat) : LaneFault := ⟨9, 0x01, va, remoteInfo home, 0⟩

/-- Whether one chunk stands before another in the order of their group of 8. -/
def chunkBefore (k chunk : Nat) : Bool :=
  decide (Config.stackHash k < Config.stackHash chunk) || (Config.stackHash k == Config.stackHash chunk && decide (k < chunk))

/-- The HBM stack of a line of device memory: the place of its chunk among the 8 of its aligned group, so that each of the 8 stacks holds
64 GiB (R8). The order within a group and the size of a chunk are free (DEDUCED, log entry 98). -/
def stackOf (line : Nat) : Nat :=
  let chunk := line / 2 ^ (Config.stackChunk % 30)
  ((List.range 8).filter fun i => chunkBefore (chunk / 8 * 8 + i) chunk).length

/-- The memory die that serves a line of device memory: stacks 2i and 2i + 1 are of die Mi (R8). -/
def memDie (line : Nat) : Nat := 4 + stackOf line / 2

/-- The dead agent that holds the only copy of a line which its strike has still to poison: a die, or an owner outside (R380, R381). -/
def State.deadHolder (s : State) (line : Nat) : Option Nat :=
  match s.l2.find? fun l => l.line == line && l.st != .s && s.dieFenced l.die with
  | some l => some (dieAgent l.die)
  | none => ((s.dir.find? fun d => d.line == line).bind (·.owner)).filter s.agentDead

/-- The fenced agent on which a line of coherent memory depends: a dead holder, the host, or the memory die of a line that no die holds
(R8, R380, R383). A peer's line that a die holds depends on nobody. -/
def State.deadHome (s : State) (line : Nat) : Option Nat :=
  match s.deadHolder line with
  | some a => some a
  | none =>
    if peerLine line then (if s.agentDead (lineAgent line) && !s.l2.any (fun l => l.line == line) then some (lineAgent line) else none)
    else if outsideLine line then (if s.agentDead hostAgent then some hostAgent else none)
    else if s.agentDead (dieAgent (memDie line)) && !s.l2.any (fun l => l.line == line) then some (dieAgent (memDie line))
    else none

/-- REMOTE for coherent memory whose agent is fenced. -/
def State.hostFault (s : State) (va key : Nat) : Option LaneFault := (s.deadHome (lineOf key)).map (remoteF va)

/-- A translation's fault at an address. A walk that meets a dead agent answers with REMOTE and the agent's number. -/
def xlateF (e : XFault) (addr : Nat) (acc : Access) : LaneFault :=
  if e.1 = 9 then ⟨9, 0x01, addr, remoteInfo e.2, 0⟩ else ⟨e.1, e.2, addr, if e.1 = 6 then acc.code else 0, 0⟩

/-- A PAGE fault, or REEL in place of one (R164): the driver's page service is offered it first (R355). -/
def LaneFault.isPage (f : LaneFault) : Bool := f.cls == 6 || (f.cls == 0x0B && f.detail == 2 && f.einfo / 256 == 6)
/-- The kind of access of a fault for the page service: a spill writes. -/
def LaneFault.accessKind (f : LaneFault) : Nat := if f.cls = 6 then f.einfo % 4 else 1
/-- The PAGE detail of a fault for the page service. -/
def LaneFault.pageDetail (f : LaneFault) : Nat := if f.cls = 6 then f.detail else f.einfo % 256

/-- Whether a class is delivered to the context's handler (R327, step 2). -/
def Context.delivers (c : Context) (cls : Nat) : Bool := c.tvec != 0 && bitAt c.tmask cls && cls != 0x0D

/-- One lane after its delivery (R331). `mask` holds the lanes delivered together; TIMER, TRAP and BKPT return behind
the instruction. -/
def Thread.deliver (t : Thread) (tvec : Nat) (f : LaneFault) (mask pc next : Nat) : Thread :=
  { t with
    ecause := BitVec.ofNat 32 (f.cls * 2 ^ 24 + f.detail * 2 ^ 16)
    eaddr := BitVec.ofNat 64 f.eaddr, einfo := BitVec.ofNat 64 f.einfo, emask := BitVec.ofNat 128 f.emask
    elanes := BitVec.ofNat 32 mask
    epc := BitVec.ofNat 64 (if f.cls ≥ 0x10 then next else pc)
    resumeI := if f.cls ≥ 0x10 then t.sweepI else bitsOf f.einfo 52 12, sweepI := 0
    hmode := true, pc := BitVec.ofNat 64 tvec, st := .ready, age := 0, stale := none, keep := none, keepLost := false, again := none }

/-- Lanes taken out of a crew's bundles: those that wait, park, exit or go elsewhere (R106). -/
def Crew.leaveBundles (c : Crew) (lanes : List Nat) : Crew :=
  { c with bundles := (c.bundles.map fun b => ⟨b.lanes.filter fun l => !lanes.contains l⟩).filter fun b => !b.lanes.isEmpty }

/-- The crew after some of its lanes are delivered: every lane's latches are lost (R59), and those lanes leave their bundles (R106). -/
def Crew.deliver (c : Crew) (tvec pc next : Nat) (fs : List (Nat × LaneFault)) : Crew :=
  let c := ({ c with threads := c.threads.map Thread.loseLatches } : Crew).leaveBundles (fs.map (·.1))
  fs.foldl (fun c p => c.updThread p.1 fun t =>
    t.deliver tvec p.2 (laneMask (fs.map (·.1))) pc next) c

/-- Lanes parked (R59, R78, R127): their latches are lost and their ageing counters are 0. -/
def Thread.park (t : Thread) (p : Park) : Thread :=
  { t.loseLatches with st := .parked p, age := 0, keep := none, keepLost := false, again := none }

/-- The crew's records of a cycle, fresh where the cycle is new. -/
def Crew.inCycle (c : Crew) (clk : Nat) : Crew :=
  if c.cyc = clk + 1 then c else { c with cyc := clk + 1, cycFstat := 0, cycFmask := 0, cycClr := [], cycFaults := [] }

/-- Lanes that fault in a cycle are remembered in it: a timer that fires in it reaches them later (R338). -/
def Crew.noteFaults (c : Crew) (clk : Nat) (fs : List (Nat × LaneFault)) : Crew :=
  let c := c.inCycle clk
  { c with cycFaults := c.cycFaults ++ (fs.filter fun p => p.2.cls != 0x10).map (·.1) }

/-- The classes among some faults, ascending. -/
def classesOf (fs : List (Nat × LaneFault)) : List Nat := (List.range 0x13).filter fun k => fs.any fun p => p.2.cls == k

/-- The log entries of lanes whose faults are unrecoverable (R344, R346): one for each class, detail and mode. -/
def State.logLanes (s : State) (b : Block) (ci pc : Nat) (fs : List (Nat × LaneFault)) (hm : Nat → Bool) : State :=
  let keys := (fs.map fun p => (p.2.cls, p.2.detail, hm p.1)).eraseDups
  keys.foldl (fun s k =>
    let grp := fs.filter fun p => (p.2.cls, p.2.detail, hm p.1) == k
    match grp with
    | [] => s
    | p :: _ => s.logEvent b.ctx
        { cls := k.1, detail := k.2.1, handler := k.2.2, core := b.core, crew := ci, blk := b.lin, attempt := b.attempt,
          pc := pc, lanes := laneMask (grp.map (·.1)), tag := b.launch, eaddr := p.2.eaddr, einfo := p.2.einfo }) s

/-- The disposition of lanes that fault at one PC as one sub-crew (R327, R331, R332, R344). `offer` says that PAGE is
first offered to the driver's page service; `fatal` that nothing is delivered (`trap.abort`, R334). -/
def State.takeFaults (s : State) (uid ci pc next : Nat) (fs : List (Nat × LaneFault)) (offer fatal : Bool) : State :=
  match s.block? uid with
  | none => s
  | some b =>
    match b.crew? ci, s.ctxs[b.ctx]? with
    | some c, some ctx =>
      let hm : Nat → Bool := fun l => match c.threads[l]? with | some t => t.hmode | none => false
      let serviced : Nat × LaneFault → Bool := fun p => offer && p.2.isPage && ctx.pfbase != 0
      let delivered : Nat × LaneFault → Bool := fun p => !(fatal && p.2.cls == 0x11) && !serviced p && !hm p.1 && ctx.delivers p.2.cls
      let toPark := fs.filter serviced
      let toKill := fs.filter fun p => !serviced p && !delivered p && p.2.cls != 0x10
      if toKill.isEmpty then
        let s := s.updCrew uid ci fun c => c.noteFaults (s.clockOf b.core) fs
        let (group, s) := if toPark.isEmpty then (0, s) else s.fresh
        let s := s.updCrew uid ci fun c =>
          toPark.foldl (fun c p => c.updThread p.1 fun t => t.park (.pagePost p.2 p.2.accessKind group)) c
        (classesOf (fs.filter delivered)).foldl (fun s k =>
          s.updCrew uid ci fun c => c.deliver ctx.tvec pc next (fs.filter fun p => delivered p && p.2.cls == k)) s
      else (s.logLanes b ci pc toKill hm).killBlock uid
    | _, _ => s

/-! ### The frame of an instruction -/

/-- What an instruction does in one lane. -/
inductive LaneRes where
  /-- It completes; the PC advances. -/
  | next
  /-- It completes; the lane goes to a target. -/
  | jump (pc : Nat)
  /-- It completes; the lane returns to an instruction, a sweep of which goes on at an iteration (R65). -/
  | resume (pc i : Nat)
  /-- The lane waits at the instruction (R78). -/
  | wait (w : WaitOn)
  /-- The lane performs the whole instruction, or the rest of it, later: when a copy has left the range scoreboard (R256), or when
  something has happened. -/
  | again (on : AgainOn)
  /-- The lane parks without a fault (R78). -/
  | park (p : Park)
  /-- The access has left the device: the lane stays READY at the instruction until it is answered (R232, R374; DEDUCED, log
  entry 17). -/
  | out
  /-- A precise fault. -/
  | fault (f : LaneFault)
  /-- The lane exits. -/
  | exit
deriving DecidableEq, Repr

/-- What a lane of an issuing bundle sees: the state at issue and where it stands in it. -/
structure Ctx where
  s0 : State
  uid : Nat
  ci : Nat
  b : Block
  c : Crew
  w : Fields
  op : Nat
  /-- The address of the instruction, and its length. -/
  pc : Nat
  len : Nat
  clk : Nat
  bundle : List Nat
  /-- The active lanes that no earlier check has faulted: S of R120. -/
  act : List Nat
  /-- The number of active lanes. -/
  active : Nat
  /-- The instruction itself. -/
  instr : Option Instr

/-- The result of an instruction's body: the bundle does not issue, or some lanes have results (the others: next). -/
inductive BodyRes where
  | hold (s : State)
  | done (s : State) (rs : List (Nat × LaneRes))

/-- A lane's thread as it stood at issue. -/
def Ctx.t (x : Ctx) (l : Nat) : Thread :=
  x.c.threads.getD l (Thread.create 0 0)

/-- A value source of a lane as it stood at issue (R5, R57). -/
def Ctx.rd (x : Ctx) (l : Nat) (code : BitVec 9) (width : Nat) : Nat := rdvOf x.c (x.t l) x.clk x.w code width false
/-- A value source whose literal is widened by sign (R52). -/
def Ctx.rdS (x : Ctx) (l : Nat) (code : BitVec 9) (width : Nat) : Nat := rdvOf x.c (x.t l) x.clk x.w code width true
def Ctx.a (x : Ctx) (l width : Nat) : Nat := x.rd l x.w.a width
def Ctx.bv (x : Ctx) (l width : Nat) : Nat := x.rd l x.w.b width
def Ctx.cv (x : Ctx) (l width : Nat) : Nat := x.rd l x.w.c width
/-- The lowest active lane. -/
def Ctx.low (x : Ctx) : Nat := x.act.headD 0
def Ctx.fn (x : Ctx) : Nat := x.w.fn.toNat
def Ctx.mod (x : Ctx) : Nat := x.w.mod.toNat
/-- The global index of a lane's thread (R44). -/
def Ctx.gtid (x : Ctx) (l : Nat) : Nat := x.b.lin * 32 * x.b.sheet.crews + 32 * x.ci + l
/-- The key of a lane's random stream (R44). -/
def Ctx.key (x : Ctx) (l : Nat) : Nat := (match x.s0.ctxs[x.b.ctx]? with | some c => c.seed | none => 0) ^^^ x.gtid l

/-- Which lanes a source is read for: each lane its own, or one lane for a group (R59). Field 0 is A, 1 B, 2 C, 3 D. -/
structure ReadAs where
  field : Nat
  /-- 1: every lane for itself; k: the lowest active lane of each group of k lanes for the whole group. -/
  group : Nat
deriving DecidableEq, Repr

/-- The code of a field. -/
def fieldCode (w : Fields) (f : Nat) : BitVec 9 := match f with | 0 => w.a | 1 => w.b | 2 => w.c | _ => w.d

/-- The index of the latch that a code names. -/
def latchIndex (code : BitVec 9) : Option Nat :=
  if 0x108 ≤ code.toNat ∧ code.toNat ≤ 0x10B then some (code.toNat - 0x108) else none

/-- The LATCH fault of a lane, if one of its sources reads an invalid latch (R59, R60). -/
def latchFault (c : Crew) (w : Fields) (act : List Nat) (reads : List ReadAs) (l : Nat) : Option LaneFault :=
  reads.findSome? fun r =>
    match latchIndex (fieldCode w r.field) with
    | none => none
    | some i =>
      let reader := if r.group ≤ 1 then l else ((act.filter fun k => k / r.group == l / r.group).headD l)
      match c.threads[reader]? with
      | none => none
      | some t => if (t.latch i).valid then none else some ⟨3, i, 0, 0, 0⟩

/-- The 32-bit registers that an operand field names, as codes. -/
def Cls.units (cls : Cls) (code : Nat) : List Nat :=
  let w := match cls with
    | .src w => w
    | .dst w => w
    | .getsDst w => w
    | .half => 32
    | .swept => 32
    | _ => 0
  if code = 0xFF || code = 0x1FF || (decide (0x108 ≤ code) && decide (code ≤ 0x10B)) then []
  else (List.range (w / 32)).map (code + ·)

/-- The registers that an access behind the range scoreboard has still to write in a lane (R62, R256). -/
def LateOp.owes (k : LateOp) (l : Nat) : List Nat :=
  if k.w.wbs || !(k.op == 0xA4 || k.op == 0xA8) then []
  else
    let us := Cls.units (.dst (max 32 (8 * k.n))) k.w.d.toNat
    if k.lane == l then us else us.filter fun u => decide (0x110 ≤ u)

/-- The registers that a `tsl` under way has still to write in a lane; crew registers count for every lane (R62, R198). -/
def TileCmd.owes (k : TileCmd) (l : Nat) : List Nat :=
  if k.op ≠ 0xD8 || k.w.wbs then []
  else
    let w := if k.w.fn = 0 then 32 else if k.w.fn = 1 then 128 else 64
    let us := Cls.units (.dst w) k.w.d.toNat
    if k.lanes.any fun p => p.1 == l then us else us.filter fun u => decide (0x110 ≤ u)

/-- Whether an instruction reads or writes what a `tsl` or a scratchpad access under way has not yet produced, in one of some
lanes: register dependencies interlock (R62, R104). -/
def Block.owesTo (b : Block) (c : Crew) (ci op : Nat) (w : Fields) (act : List Nat) : Bool :=
  let ks := b.cmds.filter fun k => k.ci == ci && k.op == 0xD8
  let ls := b.late.filter fun k => k.ci == ci
  if ks.isEmpty && ls.isEmpty then false
  else match shapeOf op w with
    | .error _ => false
    | .ok s =>
      let fs := [(s.d, w.d), (s.a, w.a), (s.b, w.b), (s.c, w.c)]
      let us := fs.flatMap fun f => f.1.units f.2.toNat
      let is := fs.filterMap fun f => if f.1.isSrc then latchIndex f.2 else none
      act.any fun l =>
        us.any (fun u => (ks.any fun k => (k.owes l).contains u) || ls.any fun k => (k.owes l).contains u) ||
        (match c.threads[l]? with | some t => is.any fun i => (t.latch i).pend | none => false)

/-- Whether an instruction may issue in a lane that still has scratchpad accesses behind the range scoreboard: it neither
orders other accesses nor leaves the block (R118, R126, R253; DEDUCED, log entry 64). -/
def passesLate (op : Nat) (w : Fields) : Bool :=
  let swept := match w.ext with | .sweep _ _ _ _ => true | _ => false
  decide (op < 0x28) || op == 0x29 || (decide (0x2B ≤ op) && decide (op < 0x5A) && !swept) || op == 0x5B || op == 0x5C ||
  (decide (0x80 ≤ op) && decide (op < 0xA2)) || (decide (0xA4 ≤ op) && decide (op ≤ 0xA7)) || op == 0xAE ||
  ((op == 0xA8 || op == 0xA9) && bitsOf w.c.toNat 3 3 == 0)

/-- Whether an instruction may issue in a lane whose reductions on peer memory are under way: no acquire, fence or other
ordering, and no access that could pass them (R227, R239). -/
def passesPosted (op : Nat) (w : Fields) : Bool :=
  passesLate op w && (decide (op < 0xA0) || (op == 0xA9 && bitsOf w.c.toNat 3 3 == 0) || op == 0xA4 || op == 0xA5 || op == 0xAE)

/-- The roles of R112: COPY and MAT instructions by opcode. -/
def roleOk (op role : Nat) : Bool :=
  if [0xC0, 0xC1, 0xC2, 0xC3, 0xC4, 0xC5, 0xC8].contains op then role == 1
  else if [0xD0, 0xD1, 0xD2, 0xD3, 0xD4, 0xD6, 0xD7, 0xDB].contains op then role == 2
  else true

/-- A tile name of a block. -/
def Block.tile (b : Block) (t : Nat) : Tile := b.tiles.getD t Tile.unbound

/-- The tile names whose dimensions an instruction captures at issue (R183, R184). -/
def tileNames (op : Nat) (w : Fields) : List Nat :=
  if [0xD1, 0xD2, 0xD6, 0xD9].contains op then [w.d.toNat]
  else if op = 0xD8 then [w.a.toNat]
  else if op = 0xDB then w.d.toNat :: [w.a.toNat, w.b.toNat, w.c.toNat].take (w.mod.toNat + 1)
  else []

/-- Whether an image has still to give a tile name its dimensions (R203). -/
def Block.imagePends (b : Block) (t : Nat) : Bool := (b.tile t).st == .pending && (b.tile t).m == 0

/-- Whether the follow-on of a lane's `cpym` descriptor names such a tile (R203, R258). -/
def Block.followPends (b : Block) (c : Crew) (clk : Nat) (w : Fields) (l : Nat) : Bool :=
  match c.threads[l]? with
  | none => false
  | some t =>
    let da := rdvOf c t clk w w.a 32 false
    da % 32 == 0 && decide (da + 64 ≤ b.sheet.scratch) && b.imagePends (fromBytes (readBytes b.body.scratch (da + 33) 1))

/-- The dolly entries and tile commands that an instruction takes, for a number of active lanes (R184, R246, R258). -/
def takesEntries (op n : Nat) : Nat × Nat :=
  (if [0xC0, 0xC1, 0xC2, 0xC3, 0xC4, 0xC8].contains op then n else 0,
   if n = 0 then 0 else if op = 0xC1 then n
   else if [0xD0, 0xD1, 0xD2, 0xD3, 0xD4, 0xD6, 0xD7, 0xD8, 0xD9, 0xDB].contains op then 1 else 0)

/-- Whether the dolly has free entries for an instruction (R246), its block room for its tile commands (R185), and the tiles that it
names their dimensions: it is not ready to issue before (R104). -/
def State.hasRoom (s : State) (b : Block) (c : Crew) (op : Nat) (w : Fields) (act : List Nat) : Bool :=
  let n := takesEntries op act.length
  (n.1 == 0 || decide ((s.copies.filter fun k => k.core == b.core).length + n.1 ≤ 128)) &&
  (n.2 == 0 || (decide (b.cmds.length + n.2 ≤ 64) && !(tileNames op w).any b.imagePends)) &&
  !(op == 0xC1 && act.any (b.followPends c (s.clockOf b.core) w))

/-- Whether a lane's accesses under way let an instruction issue. -/
def State.laneFree (s : State) (b : Block) (ci l op : Nat) (w : Fields) : Bool :=
  (passesLate op w || !b.late.any fun k => k.ci == ci && k.lane == l) &&
  (passesPosted op w || !s.reqs.any fun r => r.posted && r.owner == some (b.uid, ci, l))

/-- Whether an instruction can issue in some active lanes (R62, R104): what it reads and writes has been produced, the accesses of its
lanes that are under way let it, and it finds the entries that it takes. One of another role faults instead (R112). -/
def State.issuable (s : State) (b : Block) (c : Crew) (ci op : Nat) (w : Fields) (act : List Nat) : Bool :=
  !roleOk op c.role || (!b.owesTo c ci op w act && act.all (fun l => s.laneFree b ci l op w) && s.hasRoom b c op w act)

/-- The registers of a lane, or of its crew, that some operand fields of an instruction name. -/
def fieldUnits (op : Nat) (w : Fields) (p : Cls → Bool) : List Nat :=
  match shapeOf op w with
  | .error _ => []
  | .ok s => [(s.d, w.d), (s.a, w.a), (s.b, w.b), (s.c, w.c)].flatMap fun f => if p f.1 then f.1.units f.2.toNat else []

/-- The value sources of a shape, each lane for itself. -/
def Shape.reads (s : Shape) : List ReadAs :=
  (if s.a.isSrc then [⟨0, 1⟩] else []) ++ (if s.b.isSrc then [⟨1, 1⟩] else []) ++ (if s.c.isSrc then [⟨2, 1⟩] else [])

/-- The PC reached by the most of some lanes, the lower on a tie (R106). -/
def majorityPc (pcs : List (Nat × Nat)) : Option Nat :=
  (pcs.foldl (fun (best : Option (Nat × Nat)) p =>
    let n := (pcs.filter fun q => q.2 == p.2).length
    match best with
    | none => some (p.2, n)
    | some (bp, bn) => if bn < n || (bn == n && decide (p.2 < bp)) then some (p.2, n) else some (bp, bn)) none).map (·.1)

/-- The bundle of some lanes after they have issued: the lanes at the PC that most have reached (R106). -/
def Crew.followBundle (c : Crew) (lanes : List Nat) : Crew :=
  let pcs := lanes.filterMap fun l => match c.threads[l]? with
    | some t => if t.st = .ready && t.again.isNone && t.reqs.isEmpty then some (l, t.pc.toNat) else none
    | none => none
  let keep := match majorityPc pcs with
    | none => []
    | some pc => (pcs.filter fun p => p.2 == pc).map (·.1)
  { c with bundles := (c.bundles.map fun b => if b.lanes == lanes then ⟨keep⟩ else b).filter fun b => !b.lanes.isEmpty }

/-- The cycle before which a lane does not issue again: STALL counts from the cycle in which its instruction issued (R62). -/
def Thread.stalled (t : Thread) (clk stall : Nat) : Nat := if t.again.isSome then t.stallUntil else clk + 1 + stall

/-- The stale-copy mark of a lane that has reached its next PC (R111). -/
def Thread.remark (t : Thread) (staleAt : Nat → Option Nat) : Thread :=
  { t with stale := t.lastIb.find? fun id => staleAt id == some (lineOf t.pc.toNat) }

/-- A lane after its instruction (R62, R78, R108, R111). `staleAt` gives the virtual line of a stale copy; `ks` are the crew registers
that the instruction read. -/
def Thread.finish (t : Thread) (r : LaneRes) (i : Option Instr) (ks : List KCell) (len stall clk : Nat)
    (staleAt : Nat → Option Nat) : Thread :=
  let kept := t.readLatches
  let t := { t with age := 0, stallUntil := t.stalled clk stall, keep := none, keepLost := false, again := none }
  let t := match r with
    | .next => { t with pc := t.pc + BitVec.ofNat 64 len, sweepI := 0 }
    | .jump pc => { t with pc := BitVec.ofNat 64 pc, sweepI := 0 }
    | .resume pc i => { t with pc := BitVec.ofNat 64 pc, sweepI := i }
    | .wait w => { t with st := .waiting w len }
    | .again on => { t with again := i.map fun i => ⟨on, i, ks⟩, keep := some kept }
    | .park p => t.park p
    | .out => t
    | .fault _ => t
    | .exit => { t with st := .exited }
  t.remark staleAt

/-- s.fmask after a partly faulting instruction: the OR over one cycle (R330). -/
def Crew.setFmask (c : Crew) (m : Nat) : Crew :=
  let v := c.cycFmask ||| BitVec.ofNat 32 m
  { c with fmask := v, cycFmask := v }

/-- Lanes removed from the rejoin masks from `j` up (R116, R119). -/
def Crew.removeFromMasks (c : Crew) (j lanes : Nat) : Crew :=
  { c with j := c.j.zipIdx.map fun p => if p.2 ≥ j then p.1 &&& ~~~ (BitVec.ofNat 32 lanes) else p.1 }

/-- The virtual line of a stale copy in an instruction buffer (R111). -/
def State.staleAt (s : State) (id : Nat) : Option Nat := (s.ib.find? fun l => l.id == id && l.stale).map (·.vline)

/-- Whether a request is of an instruction's issue: the crew, the address and the cycle. -/
def Req.issuedAt (r : Req) (uid ci pc clk : Nat) : Bool :=
  r.pc == pc && r.clk == clk && (match r.owner with | some o => o.1 == uid && o.2.1 == ci | none => false)

/-- Whether the bundle's instruction issued in an earlier cycle and goes on now. -/
def Ctx.goesOn (x : Ctx) : Bool := match x.bundle with | l :: _ => (x.t l).again.isSome | [] => false

/-- YLD and HOLD of an instruction for the cycle after its issue (R62). -/
def Ctx.hints (x : Ctx) (c : Crew) : Crew :=
  if x.goesOn then c
  else { c with skipCycle := if x.w.yld then some (x.clk + 1) else c.skipCycle, holdFor := if x.w.hold then some (x.clk + 1) else c.holdFor }

/-- The end of an instruction: every lane's outcome, the hints, s.fmask, the bundle, then the faults (R62, R106, R329,
R330). -/
def finishIssue (x : Ctx) (s : State) (active : List Nat) (rs : List (Nat × LaneRes)) (fatal : Bool) : State :=
  let res : Nat → LaneRes := fun l => match rs.find? fun r => r.1 == l with | some r => r.2 | none => .next
  let faults := x.bundle.filterMap fun l => match res l with | .fault f => some (l, f) | _ => none
  let exits := x.bundle.filter fun l => match res l with | .exit => true | _ => false
  let s := s.updCrew x.uid x.ci fun c =>
    let c := x.bundle.foldl (fun c l => c.updThread l fun t =>
      t.finish (res l) x.instr (frozenK x.c.k x.clk) x.len x.w.stall.toNat x.clk s.staleAt) c
    let c := if exits.isEmpty then c else c.removeFromMasks 0 (laneMask exits)
    let c := x.hints c
    let c := if !faults.isEmpty && decide (faults.length < active.length) then c.setFmask (laneMask (faults.map (·.1)))
      else c
    -- lanes that fault leave the bundle; what becomes of them follows
    let c := faults.foldl (fun c p => c.updThread p.1 fun t => t.park .replay) c
    c.followBundle x.bundle
  let wrote := fieldUnits x.op x.w fun c => !c.isSrc
  let fresh : Nat × Nat × Nat × Nat → Bool := fun r => r.1 == x.uid && r.2.1 == x.ci && wrote.contains r.2.2.2 &&
    (r.2.2.1 == 32 || active.contains r.2.2.1) && !faults.any fun p => p.1 == r.2.2.1
  -- a register written anew is no longer marked (R393)
  let s := { s with issue := none, badRegs := s.badRegs.filter fun r => !fresh r }
  if faults.isEmpty then s else
  let sent : Req → Bool := fun r => r.issuedAt x.uid x.ci x.pc x.clk
  let early := laneMask (faults.map fun p => p.1)
  let parked : Retake → Bool := fun r => r.uid == x.uid && r.ci == x.ci && r.pc == x.pc && r.clk == x.clk
  let s : State := { s with reqs := mapWhere sent (fun r => { r with early := early }) s.reqs,
                            retakes := mapWhere parked (fun r => { r with early := early }) s.retakes }
  s.takeFaults x.uid x.ci x.pc (x.pc + x.len) faults true fatal

/-- The bundle's instruction has issued and goes on after the next event: its lanes keep the latches and the crew registers that it
reads (R5, R58, R62; log entry 10). -/
def holdIssue (x : Ctx) (s : State) : State :=
  let s := s.updCrew x.uid x.ci fun c => x.hints (x.bundle.foldl (fun c l => c.updThread l fun t =>
    let t := { t with age := 0, stallUntil := t.stalled x.clk x.w.stall.toNat,
                      again := x.instr.map fun i => ⟨.news s.news, i, frozenK x.c.k x.clk⟩ }
    if t.keep.isSome then t else { t with keep := some t.latches, keepLost := false }) c)
  { s with issue := none }

/-- The crew as an instruction reads it: one that issued earlier reads the crew registers as they then stood (R5). -/
def Crew.asRead (c : Crew) (lanes : List Nat) : Crew :=
  match (c.threads[lanes.headD 0]?).bind (·.again) with
  | some a => { c with k := a.k }
  | none => c

/-- The issue of an instruction of a class opcode and a length: where it stands, the crew in its cycle, and the lanes whose
guard holds (R57); none where no bundle issues. -/
def State.issueCtx (s : State) (op len : Nat) (w : Fields) : Option Ctx :=
  match s.issue with
  | none => none
  | some i =>
    match s.block? i.uid with
    | none => none
    | some b =>
      match b.crew? i.crew with
      | none => none
      | some c0 =>
        let clk := s.clockOf b.core
        let c := (c0.inCycle clk).asRead i.lanes
        let act := i.lanes.filter fun l => match c.threads[l]? with | some t => t.guard w | none => false
        some { s0 := s.updCrew i.uid i.crew fun c => c.inCycle clk, uid := i.uid, ci := i.crew, b, c, w, op,
               pc := match c.threads[i.lanes.headD 0]? with | some t => t.pc.toNat | none => 0,
               len, clk, bundle := i.lanes, act, active := act.length, instr := i.instr }

/-- A bundle that is not ready does not issue: its lanes age (R104, R108). -/
def Ctx.notReady (x : Ctx) : State :=
  { x.s0.updCrew x.uid x.ci fun c => x.bundle.foldl (fun c l => c.updThread l fun t => { t with age := min (t.age + 1) 511 }) c with
    issue := none }

/-- The limits of the launch that a bundle runs for (R66). -/
def Ctx.limits (x : Ctx) : Limits := ⟨x.b.sheet.gregs, x.b.sheet.kregs, x.b.sheet.qregs⟩

/-- The POISON fault of a lane that reads a register marked uncorrectable (R393; its place behind LATCH: DESIGN CHOICE, log entry 99). -/
def Ctx.markedFault (x : Ctx) (l : Nat) : Option LaneFault :=
  let us := fieldUnits x.op x.w Cls.isSrc
  if x.s0.badRegs.any fun r => r.1 == x.uid && r.2.1 == x.ci && (r.2.2.1 == l || r.2.2.1 == 32) && us.contains r.2.2.2 then
    some ⟨8, 0, 0, 0, 0⟩ else none

/-- The LATCH faults of the active lanes (R60), and those of marked registers (R393). -/
def Ctx.latchFaults (x : Ctx) (reads : List ReadAs) : List (Nat × LaneRes) :=
  x.act.filterMap fun l => ((latchFault x.c x.w x.act reads l).orElse fun _ => x.markedFault l).map fun f => (l, LaneRes.fault f)

/-- One fault in every lane of the bundle (R66, R112). -/
def Ctx.faultAll (x : Ctx) (f : LaneFault) (fatal : Bool) : Host.Outcome State Fault Refusal :=
  .next (finishIssue x x.s0 x.bundle (x.bundle.map fun l => (l, .fault f)) fatal)

/-- Every instruction of a bundle runs in this frame: ILL and ROLE fault the whole bundle, one that is not ready does not issue, LATCH
faults the lanes concerned;
then the body runs over the active lanes that remain (R57, R66, R67, R112). `reads` says how the sources are read. -/
def runInstr (op len : Nat) (ill : Limits → Nat) (w : Fields) (s : State) (reads : List ReadAs)
    (body : Ctx → BodyRes) (fatal : Bool := false) : Host.Outcome State Fault Refusal :=
  match s.issueCtx op len w with
  | none => .fault .noIssue
  | some x =>
    if ill x.limits ≠ 0 then x.faultAll (illF (ill x.limits)) fatal
    else if !roleOk op x.c.role then x.faultAll ⟨2, 0, 0, x.c.role, 0⟩ fatal
    else if !x.goesOn && !x.s0.issuable x.b x.c x.ci op w x.act then .next x.notReady
    else
      let lf := x.latchFaults reads
      let y : Ctx := { x with act := x.act.filter fun l => !lf.any fun p => p.1 == l }
      match body y with
      | .hold s => .next (holdIssue y s)
      | .done s rs => .next (finishIssue y s x.act (lf ++ rs) fatal)

/-- The instruction length of some fields in bytes (R47). -/
def fieldsLength (w : Fields) : Nat := match w.ext with | .none => 8 | _ => 12

/-- The ILL detail of a 64-bit or 96-bit instruction whose meaning is for one value of FN, or for all (R66). -/
def illLong (op : Nat) (fn : Option Nat) (w : Fields) (lim : Limits) : Nat :=
  match fn with
  | none => illDetail lim op w
  | some k => if w.fn.toNat = k then illDetail lim op w else 0x04

/-- The frame of a 64-bit or 96-bit instruction. -/
def runLong (op : Nat) (fn : Option Nat) (w : Fields) (s : State) (reads : List ReadAs)
    (body : Ctx → BodyRes) (fatal : Bool := false) : Host.Outcome State Fault Refusal :=
  runInstr op (fieldsLength w) (illLong op fn w) w s reads body fatal

/-- The frame of a 32-bit instruction, as the 64-bit one that it stands for (R50). -/
def runShort (op : Nat) (f : ShortFields) (s : State) (reads : List ReadAs)
    (body : Ctx → BodyRes) : Host.Outcome State Fault Refusal :=
  runInstr op 4 (fun lim => illDetailShort lim op f) (expandShort op f) s reads body

/-- A body that changes registers alone: each active lane's effect from the state at issue, applied in ascending lane
order (R5, R56), or a fault of the lane. -/
def regBody (f : Ctx → Nat → Except LaneFault Eff) (x : Ctx) : BodyRes :=
  let rs := x.act.map fun l => (l, f x l)
  .done
    (x.s0.updCrew x.uid x.ci fun c => rs.foldl (fun c p => match p.2 with
      | .ok e => e.apply c x.clk p.1 x.w
      | .error _ => c) c)
    (rs.filterMap fun p => match p.2 with | .ok _ => none | .error e => some (p.1, .fault e))

/-- Each lane for itself for the fields given. -/
def eachLane (fields : List Nat) : List ReadAs := fields.map fun f => ⟨f, 1⟩

end Sys2Proof.Machine
end

