-- ==== Sys2Proof/Machine/Thread.lean ====
section
/-! DEFINITION. The thread class 0x00 to 0x1F (R82 to R100): integers, logic, shifts, fields, moves, special registers
and predicates. Every instruction here changes registers, predicates and DZ alone (R85). -/

namespace Sys2Proof.Machine
open Sys2Proof

/-! ### Shared operations -/

/-- The element width of an integer type code (R83). -/
def elemWidth (ty : Nat) : Nat := match ty % 4 with | 0 => 32 | 1 => 64 | 2 => 16 | _ => 8
/-- Whether a type code is signed (R83). -/
def typeSigned (ty : Nat) : Bool := decide (ty % 8 < 4)
/-- An element as the integer its type reads (R86). -/
def elemInt (ty x : Nat) : Int := if typeSigned ty then sext x (elemWidth ty) else (x % 2 ^ elemWidth ty : Nat)
/-- The range of a type (R18). -/
def typeMin (ty : Nat) : Int := if typeSigned ty then intMin (elemWidth ty) else 0
def typeMax (ty : Nat) : Int := if typeSigned ty then intMax (elemWidth ty) else (2 : Int) ^ elemWidth ty - 1

/-- The pseudocode of R86 on whole operands: each element by `f`, clamped under .sat, wrapped otherwise. -/
def mapElems (ty : Nat) (sat : Bool) (f : Int → Int → Int → Int) (a b c : Nat) : Nat :=
  let n := elemWidth ty
  packElems n ((List.range (typeWidth ty / n)).map fun e =>
    let r := f (elemInt ty (elemAt a n e)) (elemInt ty (elemAt b n e)) (elemInt ty (elemAt c n e))
    wrapInt (if sat then clampInt r (typeMin ty) (typeMax ty) else r) n)

/-- Whether a type's literal is widened by sign: .i64 (R52). -/
def typeSx (ty : Nat) : Bool := ty % 8 == 1

/-- A value source of a type. -/
def Ctx.ty (x : Ctx) (l : Nat) (code : BitVec 9) (ty : Nat) : Nat :=
  rdvOf x.c (x.t l) x.clk x.w code (typeWidth ty) (typeSx ty)

/-- The effect of a value result in D. -/
def Ctx.out (x : Ctx) (width v : Nat) : Eff := { val := some (x.w.d, width, v) }

/-- An element-wise instruction (R86). -/
def arithEff (f : Int → Int → Int → Int) (x : Ctx) (l : Nat) : Except LaneFault Eff :=
  let ty := x.mod % 8
  .ok (x.out (typeWidth ty)
    (mapElems ty (bitAt x.mod 3) f (x.ty l x.w.a ty) (x.ty l x.w.b ty) (x.ty l x.w.c ty)))

/-- The sources of three operands. -/
def readsAB : List ReadAs := eachLane [0, 1]
def readsABC : List ReadAs := eachLane [0, 1, 2]
def readsA : List ReadAs := eachLane [0]

/-- Quotient truncated toward zero, remainder and DZ of one element (R88). -/
def divElem (x y : Int) : Int × Int × Nat := if y = 0 then (0, x, fDZ) else (x.tdiv y, x.tmod y, 0)

/-- `idiv` and `irem` (R88). -/
def divEff (rem : Bool) (x : Ctx) (l : Nat) : Except LaneFault Eff :=
  let ty := x.mod % 8
  let r := divElem (elemInt ty (x.ty l x.w.a ty)) (elemInt ty (x.ty l x.w.b ty))
  .ok { x.out (typeWidth ty) (wrapInt (if rem then r.2.1 else r.1) (elemWidth ty)) with flags := r.2.2 }

/-- The carry and borrow chains (R89): sum or difference, and the carry or borrow out. -/
def carryEff (sub : Bool) (x : Ctx) (l : Nat) : Except LaneFault Eff :=
  let n := if x.fn = 1 then 64 else 32
  let k := x.mod % 8
  let sx := false
  let a := rdvOf x.c (x.t l) x.clk x.w x.w.a n sx
  let b := rdvOf x.c (x.t l) x.clk x.w x.w.b n sx
  let ci := ofBool ((x.t l).pred k)
  let s : Int := if sub then (a : Int) - b - ci else (a : Int) + b + ci
  .ok { x.out n (wrapInt s n) with preds := [(k, if sub then decide (s < 0) else decide (s ≥ 2 ^ n))] }

/-- The conditions of `icmp` and `qcmp` (R90). -/
def condHolds (fn : Nat) (lt eq : Bool) : Bool :=
  match fn with
  | 0 => eq
  | 1 => !eq
  | 2 => lt
  | 3 => lt || eq
  | 4 => !(lt || eq)
  | _ => !lt

/-- A bitwise operation at 32 or 64 bits (R92). -/
def logicEff (f : Nat → Nat → Nat → Nat) (x : Ctx) (l : Nat) : Except LaneFault Eff :=
  let w := typeWidth x.mod
  .ok (x.out w (f w (x.a l w) (x.bv l w)))

/-- The complement over `w` bits. -/
def notBits (w v : Nat) : Nat := 2 ^ w - 1 - v % 2 ^ w

/-- A shift: the amount is B as 32 bits, of which 5 or 6 count (R93). -/
def shiftEff (f : Nat → Nat → Nat → Nat) (x : Ctx) (l : Nat) : Except LaneFault Eff :=
  let w := typeWidth x.mod
  .ok (x.out w (f w (x.a l w) (x.bv l 32 % w)))

/-- The field of `bfx` and `bfxs` (R94). -/
def extractField (signed : Bool) (a b : Nat) : Nat :=
  let o := bitsOf b 0 8
  let k := bitsOf b 8 8
  if k = 0 then 0
  else if o ≥ 32 then (if signed && bitAt a 31 then 0xFFFFFFFF else 0)
  else
    let n := min (o + k) 32 - o
    let f := bitsOf a o n
    if signed then wrapInt (sext f n) 32 else f

/-- The result of `bfi` (R95). -/
def insertField (r f c : Nat) : Nat :=
  let o := bitsOf c 0 8
  let k := bitsOf c 8 8
  if k ≠ 0 ∧ o < 32 then setBits r o (min (o + k) 32 - o) f else r

/-- A function of each element of A (R96). -/
def countEff (f : Nat → Nat → Nat) (x : Ctx) (l : Nat) : Except LaneFault Eff :=
  let ty := x.mod % 8
  let n := elemWidth ty
  let w := typeWidth ty
  .ok (x.out w (packElems n ((unpackElems (x.a l w) n (w / n)).map (f n))))

/-- The highest set bit counted from the top: zero bits above it, n for 0 (R96). -/
def clzOf (n x : Nat) : Nat := if x = 0 then n else n - 1 - Nat.log2 x
/-- The index of the lowest set bit, n for 0 (R96). -/
def ffsOf (n x : Nat) : Nat := ((List.range n).find? (bitAt x)).getD n
/-- The bits reversed (R96). -/
def brevOf (n x : Nat) : Nat := (List.range n).foldl (fun a i => a + ofBool (bitAt x i) * 2 ^ (n - 1 - i)) 0

/-- One byte of `prmb` (R97). -/
def permByte (src sel k : Nat) : Nat :=
  let nib := bitsOf sel (4 * k) 4
  let b := bitsOf src (8 * (nib % 8)) 8
  if nib ≥ 8 then (if b ≥ 128 then 255 else 0) else b

/-- `prmb` (R97). -/
def permBytes (a b sel : Nat) : Nat := packElems 8 ((List.range 4).map (permByte (a + b * 2 ^ 32) sel))

/-- `lea` (R98): base, index and scale, wrapped to the base's width. -/
def leaEff (x : Ctx) (l : Nat) : Except LaneFault Eff :=
  let b := x.bv l 32
  let i : Int := if bitAt x.fn 0 then (b : Int) else sext b 32
  let w := if bitAt x.fn 1 then 32 else 64
  .ok (x.out w (wrapInt ((x.a l w : Int) + i * 2 ^ x.mod) w))

/-! ### Special registers (R81, R328) -/

/-- s.bundle and s.active are masks of the instruction itself; the others come from the objects it runs in. -/
def readSpecial (x : Ctx) (l n : Nat) : Nat :=
  let t := x.t l
  let sh := x.b.sheet
  let xyz := sh.coords x.b.lin
  match n with
  | 0x00 => l
  | 0x01 => x.ci
  | 0x02 => 32 * x.ci + l
  | 0x03 => x.b.lin
  | 0x04 => xyz.1
  | 0x05 => xyz.2.1
  | 0x06 => xyz.2.2
  | 0x07 => sh.nx
  | 0x08 => sh.ny
  | 0x09 => sh.nz
  | 0x0A => sh.crews
  | 0x0B => x.gtid l
  | 0x0C => x.b.core
  | 0x0D => dieOf x.b.core
  | 0x0E => x.c.slice
  | 0x0F => x.c.role
  | 0x10 => x.b.ctx
  | 0x11 => x.c.fstat.toNat
  | 0x12 => x.c.fmask.toNat
  | 0x13 => laneMask x.bundle
  | 0x14 => laneMask x.act
  | 0x15 => x.clk % 2 ^ 64
  | 0x16 => sh.addr
  | 0x17 => x.b.attempt
  | 0x18 => sh.gregs
  | 0x40 => t.ecause.toNat
  | 0x41 => t.epc.toNat
  | 0x42 => t.eaddr.toNat
  | 0x43 => t.einfo.toNat
  | 0x44 => t.emask.toNat
  | 0x45 => t.elanes.toNat
  | 0x46 => ofBool t.hmode
  | _ => x.c.tmr.toNat

/-- `gets` and `sysrd` (R82, R336). -/
def getEff (x : Ctx) (l : Nat) : Except LaneFault Eff :=
  let n := x.w.a.toNat
  .ok (x.out (specialWidth n) (readSpecial x l n))

/-- The predicate group (R100). -/
def predEff (f : Bool → Bool → Bool) (x : Ctx) (l : Nat) : Except LaneFault Eff :=
  let t := x.t l
  let a := t.pred x.w.a.toNat != bitAt x.mod 0
  let b := t.pred x.w.b.toNat != bitAt x.mod 1
  .ok { preds := [(x.w.d.toNat, f a b)] }

/-- `mov` (R99). -/
def movEff (x : Ctx) (l : Nat) : Except LaneFault Eff :=
  let w := 32 * 2 ^ x.mod
  .ok (x.out w (x.a l w))

def addFn : Int → Int → Int → Int := fun a b _ => a + b
def subFn : Int → Int → Int → Int := fun a b _ => a - b
def mulFn : Int → Int → Int → Int := fun a b _ => a * b
/-- The high half of a product of n-bit elements (R86). -/
def mulHighFn (n : Nat) : Int → Int → Int → Int := fun a b _ => a * b / (2 : Int) ^ n
def madFn : Int → Int → Int → Int := fun a b c => a * b + c
def minFn : Int → Int → Int → Int := fun a b _ => if a ≤ b then a else b
def maxFn : Int → Int → Int → Int := fun a b _ => if a ≤ b then b else a
def shlFn : Nat → Nat → Nat → Nat := fun w a s => a * 2 ^ s % 2 ^ w
def andFn : Nat → Nat → Nat → Nat := fun _ a b => a &&& b

/-! ### The instructions -/

def execIadd (w : Fields) (s : State) := runLong 0x01 none w s readsAB (regBody (arithEff addFn))
def execIaddShort (f : ShortFields) (s : State) := runShort 0x01 f s readsAB (regBody (arithEff addFn))
def execIsub (w : Fields) (s : State) := runLong 0x02 none w s readsAB (regBody (arithEff subFn))
def execIsubShort (f : ShortFields) (s : State) := runShort 0x02 f s readsAB (regBody (arithEff subFn))
def execIaddc (w : Fields) (s : State) := runLong 0x03 none w s readsAB (regBody (carryEff false))
def execIsubb (w : Fields) (s : State) := runLong 0x04 none w s readsAB (regBody (carryEff true))
def execImul (w : Fields) (s : State) := runLong 0x05 none w s readsAB (regBody (arithEff mulFn))
def execImulShort (f : ShortFields) (s : State) := runShort 0x05 f s readsAB (regBody (arithEff mulFn))
def execImulh (w : Fields) (s : State) :=
  runLong 0x06 none w s readsAB (regBody fun x l => arithEff (mulHighFn (elemWidth (x.mod % 8))) x l)
def execImad (w : Fields) (s : State) := runLong 0x07 none w s readsABC (regBody (arithEff madFn))
def execIdiv (w : Fields) (s : State) := runLong 0x08 none w s readsAB (regBody (divEff false))
def execIrem (w : Fields) (s : State) := runLong 0x09 none w s readsAB (regBody (divEff true))
def execImin (w : Fields) (s : State) := runLong 0x0A (some 0) w s readsAB (regBody (arithEff minFn))
def execIminShort (f : ShortFields) (s : State) := runShort 0x0A f s readsAB (regBody (arithEff minFn))
def execImax (w : Fields) (s : State) := runLong 0x0A (some 1) w s readsAB (regBody (arithEff maxFn))
def execIabs (w : Fields) (s : State) := runLong 0x0B (some 0) w s readsA (regBody (arithEff fun a _ _ => a.natAbs))
def execIneg (w : Fields) (s : State) := runLong 0x0B (some 1) w s readsA (regBody (arithEff fun a _ _ => -a))

/-- `icmp` (R90). -/
def execIcmp (w : Fields) (s : State) := runLong 0x0C none w s readsAB (regBody fun x l =>
  let ty := x.mod
  let a := elemInt ty (x.ty l x.w.a ty)
  let b := elemInt ty (x.ty l x.w.b ty)
  .ok { preds := [(x.w.d.toNat, condHolds x.fn (decide (a < b)) (decide (a = b)))] })

/-- `sel` (R91). -/
def execSel (w : Fields) (s : State) := runLong 0x0D none w s readsAB (regBody fun x l =>
  let n := if x.fn = 1 then 64 else 32
  .ok (x.out n (if (x.t l).pred (x.mod % 8) then x.a l n else x.bv l n)))

def execAndOp (w : Fields) (s : State) := runLong 0x0E (some 0) w s readsAB (regBody (logicEff andFn))
def execAndShort (f : ShortFields) (s : State) := runShort 0x0E f s readsAB (regBody (logicEff andFn))
def execOrOp (w : Fields) (s : State) := runLong 0x0E (some 1) w s readsAB (regBody (logicEff fun _ a b => a ||| b))
def execXorOp (w : Fields) (s : State) := runLong 0x0E (some 2) w s readsAB (regBody (logicEff fun _ a b => a ^^^ b))
def execAndn (w : Fields) (s : State) :=
  runLong 0x0E (some 3) w s readsAB (regBody (logicEff fun n a b => a &&& notBits n b))
def execOrn (w : Fields) (s : State) :=
  runLong 0x0E (some 4) w s readsAB (regBody (logicEff fun n a b => a ||| notBits n b))
def execShl (w : Fields) (s : State) := runLong 0x0F (some 0) w s readsAB (regBody (shiftEff shlFn))
def execShlShort (f : ShortFields) (s : State) := runShort 0x0F f s readsAB (regBody (shiftEff shlFn))
def execShr (w : Fields) (s : State) := runLong 0x0F (some 1) w s readsAB (regBody (shiftEff fun _ a s => a / 2 ^ s))
def execSar (w : Fields) (s : State) :=
  runLong 0x0F (some 2) w s readsAB (regBody (shiftEff fun n a s => wrapInt (sext a n / 2 ^ s) n))
def execRol (w : Fields) (s : State) :=
  runLong 0x0F (some 3) w s readsAB (regBody (shiftEff fun n a s => (a * 2 ^ s + a / 2 ^ (n - s)) % 2 ^ n))
def execBfx (w : Fields) (s : State) := runLong 0x10 (some 0) w s readsAB (regBody fun x l =>
  .ok (x.out 32 (extractField false (x.a l 32) (x.bv l 32))))
def execBfxs (w : Fields) (s : State) := runLong 0x10 (some 1) w s readsAB (regBody fun x l =>
  .ok (x.out 32 (extractField true (x.a l 32) (x.bv l 32))))
def execBfi (w : Fields) (s : State) := runLong 0x11 none w s readsABC (regBody fun x l =>
  .ok (x.out 32 (insertField (x.a l 32) (x.bv l 32) (x.cv l 32))))
def execClz (w : Fields) (s : State) := runLong 0x12 (some 0) w s readsA (regBody (countEff clzOf))
def execFfs (w : Fields) (s : State) := runLong 0x12 (some 1) w s readsA (regBody (countEff ffsOf))
def execPopc (w : Fields) (s : State) := runLong 0x12 (some 2) w s readsA (regBody (countEff fun n x => popcount x n))
def execBrev (w : Fields) (s : State) := runLong 0x12 (some 3) w s readsA (regBody (countEff brevOf))
def execPrmb (w : Fields) (s : State) := runLong 0x13 none w s readsABC (regBody fun x l =>
  .ok (x.out 32 (permBytes (x.a l 32) (x.bv l 32) (x.cv l 32))))
def execLea (w : Fields) (s : State) := runLong 0x14 none w s readsAB (regBody leaEff)
def execMov (w : Fields) (s : State) := runLong 0x15 none w s readsA (regBody movEff)
def execMovShort (f : ShortFields) (s : State) := runShort 0x15 f s readsA (regBody movEff)
/-- `movl` (R99). -/
def execMovl (w : Fields) (s : State) := runLong 0x16 none w s readsAB (regBody fun x l =>
  .ok (x.out 64 (x.a l 32 + x.bv l 32 * 2 ^ 32)))
def execGets (w : Fields) (s : State) := runLong 0x17 none w s [] (regBody getEff)
def execPand (w : Fields) (s : State) := runLong 0x18 (some 0) w s [] (regBody (predEff fun a b => a && b))
def execPor (w : Fields) (s : State) := runLong 0x18 (some 1) w s [] (regBody (predEff fun a b => a || b))
def execPxor (w : Fields) (s : State) := runLong 0x18 (some 2) w s [] (regBody (predEff fun a b => a != b))
def execPnot (w : Fields) (s : State) := runLong 0x18 (some 3) w s [] (regBody (predEff fun a _ => !a))
def execPmov (w : Fields) (s : State) := runLong 0x18 (some 4) w s [] (regBody (predEff fun a _ => a))

end Sys2Proof.Machine
end

