-- ==== Sys2Proof/Machine/Crew.lean ====
section
/-! DEFINITION. The crew class 0x20 to 0x3F (R109, R112 to R125) but for the calls, which reach private memory. -/

namespace Sys2Proof.Machine
open Sys2Proof

/-! ### Control transfer (R114) -/

/-- The outcome of a lane that branches to a target: ALIGN where it is not a multiple of 4 (R47, R114). -/
def branchTo (target : Nat) : LaneRes := if target % 4 = 0 then .jump target else .fault (alignF target 2)

/-- The target of a relative branch: PC + sext(A, 32) (R114). -/
def Ctx.relTarget (x : Ctx) (l : Nat) : Nat := wrapInt ((x.pc : Int) + sext (x.a l 32) 32) 64

/-- A body that only moves the lanes. -/
def moveBody (f : Ctx → Nat → LaneRes) (x : Ctx) : BodyRes := .done x.s0 (x.act.map fun l => (l, f x l))

/-- A body that changes the crew once for all active lanes, each of which completes. -/
def crewBody (f : Ctx → Crew → Crew) (x : Ctx) : BodyRes :=
  .done (if x.act.isEmpty then x.s0 else x.s0.updCrew x.uid x.ci (f x)) []

def execNop (w : Fields) (s : State) := runLong 0x20 none w s [] (moveBody fun _ _ => .next)
def execNopShort (f : ShortFields) (s : State) := runShort 0x20 f s [] (moveBody fun _ _ => .next)
def execBra (w : Fields) (s : State) := runLong 0x21 none w s readsA (moveBody fun x l => branchTo (x.relTarget l))
def execBrx (w : Fields) (s : State) := runLong 0x22 none w s readsA (moveBody fun x l => branchTo (x.a l 64))

/-! ### Rejoin masks (R116 to R119) -/

/-- `jset` (R117): no effect on a mask that a `jclr` of the same cycle clears. -/
def Crew.setMask (c : Crew) (j lanes : Nat) : Crew :=
  if c.cycClr.contains j then c else { c with j := updAt c.j j fun m => m ||| BitVec.ofNat 32 lanes }

/-- `jclr` (R117). -/
def Crew.clearMask (c : Crew) (j : Nat) : Crew := { c with j := updAt c.j j fun _ => 0, cycClr := j :: c.cycClr }

def execJset (w : Fields) (s : State) :=
  runLong 0x26 none w s [] (crewBody fun x c => c.setMask x.w.d.toNat (laneMask x.act))
def execJclr (w : Fields) (s : State) := runLong 0x27 none w s [] (crewBody fun x c => c.clearMask x.w.d.toNat)
def execWait (w : Fields) (s : State) :=
  runLong 0x28 none w s [] (moveBody fun x _ => .wait (.mask x.w.d.toNat))

/-- `brk` (R119): a lane whose target is misaligned faults and stays in its masks. -/
def execBrk (w : Fields) (s : State) := runLong 0x29 none w s readsA fun x =>
  let rs := x.act.map fun l => (l, branchTo (x.relTarget l))
  let gone := x.act.filter fun l => x.relTarget l % 4 == 0
  .done (if gone.isEmpty then x.s0 else x.s0.updCrew x.uid x.ci fun c => c.removeFromMasks x.w.d.toNat (laneMask gone)) rs

/-- `exit` (R116): the frame removes the lanes from every mask in the same cycle. -/
def execExit (w : Fields) (s : State) := runLong 0x2A none w s [] (moveBody fun _ _ => .exit)

/-- `yield` (R109): the active lanes count with weight 0 at the next regroup, and the crew leaves the next pick. -/
def execYield (w : Fields) (s : State) := runLong 0x2B none w s [] fun x =>
  .done (x.s0.updCrew x.uid x.ci fun c =>
    let c := x.act.foldl (fun c l => c.updThread l fun t => { t with yielded := true }) c
    { c with skipCycle := some (x.clk + 1) }) []

/-! ### Cross-lane instructions (R120 to R125) -/

/-- `vote` (R121). -/
def voteEff (x : Ctx) (_ : Nat) : Except LaneFault Eff :=
  let yes := x.act.filter fun l => (x.t l).pred x.w.a.toNat != bitAt x.mod 0
  let m := laneMask yes
  let all := laneMask x.act
  match x.fn with
  | 0 => .ok { preds := [(x.w.d.toNat, m == all)] }
  | 1 => .ok { preds := [(x.w.d.toNat, m != 0)] }
  | 2 => .ok { preds := [(x.w.d.toNat, m == 0 || m == all)] }
  | 3 => .ok (x.out 32 m)
  | _ => .ok (x.out 32 (popcount m 32))

def execVote (w : Fields) (s : State) := runLong 0x2C none w s [] (regBody voteEff)

/-- `shfl` (R123). -/
def shflEff (x : Ctx) (l : Nat) : Except LaneFault Eff :=
  let w := if bitAt x.mod 3 then 64 else 32
  let b := x.bv l 32
  let z := 32 / 2 ^ min (bitsOf b 8 3) 5
  let base := l - l % z
  let n := bitsOf b 0 5 % z
  let src : Option Nat := match x.fn with
    | 0 => some (base + n)
    | 1 => if bitsOf b 0 8 ≤ l then some (l - bitsOf b 0 8) else none
    | 2 => some (l + bitsOf b 0 8)
    | _ => some (l ^^^ n)
  let ok := match src with
    | some k => decide (base ≤ k) && decide (k < base + z) && x.act.contains k
    | none => false
  .ok { x.out w (x.a (if ok then src.getD l else l) w) with preds := [(x.mod % 8, ok)] }

def execShfl (w : Fields) (s : State) := runLong 0x2D none w s readsAB (regBody shflEff)

/-- One step of a fold: operation, type or rounding code, accumulated value and next value (R122). -/
def foldStep (fn m acc v : Nat) : Nat × Nat :=
  let n := elemWidth m
  match fn with
  | 0 => ((acc + v) % 2 ^ n, 0)
  | 1 => (if elemInt m acc ≤ elemInt m v then acc else v, 0)
  | 2 => (if elemInt m acc ≤ elemInt m v then v else acc, 0)
  | 3 => (acc &&& v, 0)
  | 4 => (acc ||| v, 0)
  | 5 => (acc ^^^ v, 0)
  | 6 => fAdd fp32 (Rm.ofCode m 0) (fp32.decode acc) (fp32.decode v)
  | 7 => fMinMax fp32 false acc v
  | _ => fMinMax fp32 true acc v

/-- The identity of an operation (R46). -/
def foldIdentity (fn m : Nat) : Nat :=
  let n := elemWidth m
  match fn with
  | 0 => 0
  | 1 => wrapInt (typeMax m) n
  | 2 => wrapInt (typeMin m) n
  | 3 => 2 ^ n - 1
  | 4 => 0
  | 5 => 0
  | 6 => fp32.zeroBits true
  | 7 => fp32.infBits false
  | _ => fp32.infBits true

/-- The fold of one value: a floating operation quiets a NaN to the canonical one (R22, R23). -/
def foldOne (fn v : Nat) : Nat × Nat :=
  if 6 ≤ fn && (fp32.decode v).isNan then (fp32.nanBits, snanFlag [fp32.decode v]) else (v, 0)

/-- The left fold of values in order, without an identity (R46): the value and the flags. -/
def foldVals (fn m : Nat) (vs : List Nat) : Nat × Nat :=
  match vs with
  | [] => (foldIdentity fn m, 0)
  | [v] => foldOne fn v
  | v :: r => r.foldl (fun acc v =>
      let s := foldStep fn m acc.1 v
      (s.1, acc.2 ||| s.2)) (v, 0)

/-- The operand A of a fold at its type and width; a literal of an .i64 fold is sign-extended (R52, R122). -/
def Ctx.foldA (x : Ctx) (m k : Nat) : Nat :=
  let w := foldWidth x.fn m
  if x.fn ≤ 2 && m == 1 then x.rdS k x.w.a w else x.a k w

/-- `redux` (R122). -/
def reduxEff (x : Ctx) (_ : Nat) : Except LaneFault Eff :=
  let w := foldWidth x.fn x.mod
  let r := foldVals x.fn x.mod (x.act.map fun k => x.foldA x.mod k)
  .ok { x.out w r.1 with flags := r.2 }

def execRedux (w : Fields) (s : State) := runLong 0x2E none w s readsA (regBody reduxEff)

/-- `scanx` (R122): the fold of the lanes at or below, or strictly below. -/
def scanxEff (x : Ctx) (l : Nat) : Except LaneFault Eff :=
  let m := x.mod % 8
  let w := foldWidth x.fn m
  let lanes := x.act.filter fun k => if bitAt x.mod 3 then decide (k < l) else decide (k ≤ l)
  let r := foldVals x.fn m (lanes.map fun k => x.foldA m k)
  .ok { x.out w r.1 with flags := r.2 }

def execScanx (w : Fields) (s : State) := runLong 0x2F none w s readsA (regBody scanxEff)

/-- `match` (R124). -/
def matchEff (x : Ctx) (l : Nat) : Except LaneFault Eff :=
  let w := typeWidth (x.mod % 2)
  let v := x.a l w
  if x.fn = 0 then .ok (x.out 32 (laneMask (x.act.filter fun k => x.a k w == v)))
  else .ok (x.out 32 (if x.act.all fun k => x.a k w == v then laneMask x.act else 0))

def execMatchLanes (w : Fields) (s : State) := runLong 0x30 none w s readsA (regBody matchEff)

/-- `elect` (R125). -/
def electEff (x : Ctx) (l : Nat) : Except LaneFault Eff :=
  let k := if x.fn = 0 then x.act.headD 0 else x.act.getLastD 0
  .ok { preds := [(x.w.d.toNat, l == k)] }

def execElect (w : Fields) (s : State) := runLong 0x31 none w s [] (regBody electEff)

end Sys2Proof.Machine
end

