-- ==== Sys2Proof/Decode.lean ====
section
/-! DEFINITION. The decoder, total on any parcels and bytes, which rejects by name; then the encoder, from the same
layouts (R47 to R51, R63, R66). -/

namespace Sys2Proof
open Sys2Proof.Machine

/-- Why the decoder refuses a word: the rows of R66, and too few parcels. -/
inductive DecodeErr where
  | lenReserved
  | opZero
  | opUnassigned
  | fnUnassigned
  | modUndefined
  | operandCode
  | badDestination
  | badLiteral
  | badForm
  | noShortForm
  | misaligned
  | beyondCount
  | badWbs
  | badHints
  | reservedBits
  /-- The parcels end before the instruction does. -/
  | truncated
deriving DecidableEq, Repr

/-- The detail code of R66, 0 for a truncated word. -/
def DecodeErr.detail : DecodeErr → Nat
  | .lenReserved => 0x01
  | .opZero => 0x02
  | .opUnassigned => 0x03
  | .fnUnassigned => 0x04
  | .modUndefined => 0x05
  | .operandCode => 0x06
  | .badDestination => 0x07
  | .badLiteral => 0x08
  | .badForm => 0x09
  | .noShortForm => 0x0A
  | .misaligned => 0x0B
  | .beyondCount => 0x0C
  | .badWbs => 0x0D
  | .badHints => 0x0E
  | .reservedBits => 0x0F
  | .truncated => 0x00

/-- The name of a detail code of R66. -/
def DecodeErr.ofDetail (d : Nat) : DecodeErr :=
  ([.lenReserved, .opZero, .opUnassigned, .fnUnassigned, .modUndefined, .operandCode, .badDestination, .badLiteral,
    .badForm, .noShortForm, .misaligned, .beyondCount, .badWbs, .badHints] : List DecodeErr).getD (d - 1) .reservedBits

/-- What the decoder answers: an instruction and its length in bytes, or the reason it refuses. -/
inductive Decoded where
  | ok (i : Instr) (len : Nat)
  | ill (e : DecodeErr)
deriving DecidableEq, Repr

/-! ### Reading the parcels -/

/-- The opcode of a first parcel (R48). -/
def parcelOp (p : Word) : Nat := (p.extractLsb' 2 8).toNat
/-- The length code of a first parcel (R47). -/
def parcelLen (p : Word) : Nat := (p.extractLsb' 0 2).toNat

/-- The fields of a first parcel (R48). -/
def parseFirst (p : Word) : ShortFields :=
  { gp := p.extractLsb' 10 3, gn := p.getLsbD 13, d := p.extractLsb' 14 9, a := p.extractLsb' 23 9 }

/-- The fields of a first and a second parcel (R48, R49). -/
def parseSecond (s : ShortFields) (p : Word) (ext : Ext) : Fields :=
  { gp := s.gp, gn := s.gn, d := s.d, a := s.a, b := p.extractLsb' 0 9, c := p.extractLsb' 9 9,
    fn := p.extractLsb' 18 4, mod := p.extractLsb' 22 4, wbs := p.getLsbD 26, stall := p.extractLsb' 27 3,
    yld := p.getLsbD 30, hold := p.getLsbD 31, ext := ext }

/-- Sweep control (R63). -/
def parseSweep (p : Word) : Ext :=
  .sweep (p.extractLsb' 0 12) (p.extractLsb' 12 6) (p.extractLsb' 18 6) (p.extractLsb' 24 6)

/-- The instruction, or the refusal of a detail. -/
def finishDecode (detail : Nat) (i : Option Instr) (len : Nat) : Decoded :=
  if detail ≠ 0 then .ill (.ofDetail detail)
  else match i with
    | some i => .ok i len
    | none => .ill .opUnassigned

/-- A 64-bit or 96-bit instruction of an opcode; `extra` is the detail of its third parcel's reserved bits. -/
def decodeLong (lim : Limits) (op : Nat) (f : Fields) (extra len : Nat) : Decoded :=
  finishDecode (minDetail [illDetail lim op f, extra]) (buildLong op f) len

/-- Whether C of a second parcel selects the literal form (R51). -/
def selectsLiteral (p : Word) : Bool := p.extractLsb' 9 9 == (0x1FF : BitVec 9)

/-- The decoder under the launch's limits: total on any list of parcels. -/
def decode (lim : Limits) (ps : List Word) : Decoded :=
  match ps with
  | [] => .ill .truncated
  | p0 :: rest =>
    let op := parcelOp p0
    let s := parseFirst p0
    if parcelLen p0 = 3 then .ill .lenReserved
    else if parcelLen p0 = 0 then finishDecode (illDetailShort lim op s) (buildShort op s) 4
    else match rest with
      | [] => .ill .truncated
      | p1 :: rest =>
        if parcelLen p0 = 1 then decodeLong lim op (parseSecond s p1 .none) 0 8
        else match rest with
          | [] => .ill .truncated
          | p2 :: _ =>
            if selectsLiteral p1 then decodeLong lim op (parseSecond s p1 (.lit p2)) 0 12
            else decodeLong lim op (parseSecond s p1 (parseSweep p2)) (if p2.extractLsb' 30 2 = 0 then 0 else 0x0F) 12

/-- The parcels of bytes in memory order (R3, R47); bytes after the last whole parcel are dropped. -/
def parcelsOfBytes : List Byte → List Word
  | b0 :: b1 :: b2 :: b3 :: r => (b3 ++ b2 ++ b1 ++ b0) :: parcelsOfBytes r
  | _ => []

/-- The decoder on bytes. -/
def decodeBytes (lim : Limits) (bs : List Byte) : Decoded := decode lim (parcelsOfBytes bs)

/-- The parcels of a word numbered as the opcode table numbers its bits; bits from `nbits` up are 0. -/
def tableParcels (nbits w : Nat) : List Word :=
  let x := w % 2 ^ nbits
  [BitVec.ofNat 32 x, BitVec.ofNat 32 (x / 2 ^ 32), BitVec.ofNat 32 (x / 2 ^ 64)]

/-- The instruction that the decoder reads from a word of the opcode table. -/
def decodeTableWord (nbits w : Nat) : Option Instr :=
  match decode Limits.all (tableParcels nbits w) with
  | .ok i _ => some i
  | .ill _ => none

/-! ### The encoder -/

/-- A first parcel (R48). -/
def packFirst (op len : Nat) (s : ShortFields) : Word :=
  s.a ++ s.d ++ BitVec.ofBool s.gn ++ s.gp ++ BitVec.ofNat 8 op ++ BitVec.ofNat 2 len

/-- A second parcel (R49). -/
def packSecond (f : Fields) : Word :=
  BitVec.ofBool f.hold ++ BitVec.ofBool f.yld ++ f.stall ++ BitVec.ofBool f.wbs ++ f.mod ++ f.fn ++ f.c ++ f.b

/-- The first parcel's fields of a longer instruction. -/
def Fields.first (f : Fields) : ShortFields := ⟨f.gp, f.gn, f.d, f.a⟩

/-- The words of an instruction; an event has none. -/
def encode (i : Instr) : List Word :=
  match partsOf i with
  | .short op s => [packFirst op 0 s]
  | .long op _ f =>
    match f.ext with
    | .none => [packFirst op 1 f.first, packSecond f]
    | .lit v => [packFirst op 2 f.first, packSecond f, v]
    | .sweep cnt sd sa sb => [packFirst op 2 f.first, packSecond f, (0 : BitVec 2) ++ sb ++ sa ++ sd ++ cnt]
  | .event => []

/-- The length in bytes of an instruction. -/
def Instr.len (i : Instr) : Nat := 4 * (encode i).length

end Sys2Proof
end

