-- ==== Sys2Proof/Machine/Reel.lean ====
section
/-! DEFINITION. The reel of a block: counts, the sweep, appends and spills (R160 to R165, R179). -/

namespace Sys2Proof.Machine
open Sys2Proof

/-- The largest handle (R160). -/
def maxHandle : Nat := 16777215

def Reel.node? (r : Reel) (h : Nat) : Option RNode := r.nodes.find? fun n => n.handle == h
def Reel.upd (r : Reel) (h : Nat) (f : RNode → RNode) : Reel :=
  { r with nodes := mapWhere (fun n => n.handle == h) f r.nodes }

/-- A count gained; 255 pins (R163). -/
def RNode.gain (n : RNode) : RNode := if n.count < 255 then { n with count := n.count + 1 } else n
def Reel.gain (r : Reel) (h : Nat) : Reel := if h = 0 then r else r.upd h RNode.gain

/-- `drop` (R163): a count lost, and the handle queued where none is left. -/
def Reel.drop (r : Reel) (h : Nat) : Reel :=
  match r.node? h with
  | none => r
  | some n =>
    if n.count = 255 then r
    else
      let r := r.upd h fun n => { n with count := n.count - 1 }
      if n.count ≤ 1 then { r with sweep := r.sweep ++ [h] } else r

/-- One handle swept (R165): the node freed, then its children dropped in order. -/
def Reel.sweepOne (r : Reel) : Reel :=
  match r.sweep with
  | [] => r
  | h :: rest =>
    match r.node? h with
    | none => { r with sweep := rest }
    | some n =>
      let r : Reel := { r with nodes := r.nodes.filter fun m => m.handle != h, sweep := rest }
      n.kids.foldl (fun r k => if k = 0 then r else r.drop k) r

/-- The sweep queue emptied: each handle swept frees a node. -/
def Reel.sweepN : Nat → Reel → Reel
  | 0, r => r
  | k + 1, r => if r.sweep.isEmpty then r else Reel.sweepN k r.sweepOne
def Reel.sweepAll (r : Reel) : Reel := r.sweepN (r.nodes.length + r.sweep.length)

/-- The lowest handle that names no live node. -/
def Reel.freeHandle (r : Reel) : Nat :=
  ((List.range (r.nodes.length + 1)).find? fun i => (r.node? (i + 1)).isNone).getD 0 + 1

/-- The slots of the window and the capacity of a reel (R160). -/
def Sheet.window (sh : Sheet) : Nat := sh.reel * 256
def Sheet.reelCap (sh : Sheet) : Nat := min (sh.window + sh.spill) maxHandle
/-- The bytes of a block's spill area. -/
def Sheet.spillBytes (sh : Sheet) : Nat := roundUp (16 * sh.reelCap) 8192
/-- The place of a spilled node (R161). -/
def Block.spillAddr (b : Block) (h : Nat) : Nat := b.sheet.spbase + b.lin * b.sheet.spillBytes + 16 * (h - 1)

/-- The children that an operation uses (R162). -/
def kidsOf (op : Nat) : Nat := if op ≤ 0x12 then 2 else if op = 0x13 then 3 else if op = 0x14 then 2 else 1

/-- The 16 bytes of a node (R161). -/
def RNode.bytes (n : RNode) : List Byte :=
  let child := if n.op < 0x10 then n.payload % 2 ^ 64
    else n.kids.foldr (fun k a => a * 2 ^ 24 + k % 2 ^ 24) 0
  toBytes n.op 1 ++ toBytes n.count 1 ++ toBytes n.nfl 1 ++ toBytes n.stage 1 ++ toBytes child 9 ++ toBytes 0 3

/-- The nodes that hold a slot of the window. -/
def Reel.inWindow (r : Reel) : List RNode := r.nodes.filter fun n => !n.spilled

/-- The children of a new node gain a count, and it is written (R163). -/
def Reel.add (r : Reel) (h op : Nat) (kids : List Nat) (payload nfl : Nat) : Reel :=
  let r := kids.foldl Reel.gain r
  { r with nodes := r.nodes ++ [⟨h, op, 0, nfl, 0, kids, payload, false⟩] }

/-- REEL with a detail. -/
def reelF (detail eaddr einfo : Nat) : LaneFault := ⟨0x0B, detail, eaddr, einfo, 0⟩

/-- The reel of a block. -/
def State.reelOf (s : State) (uid : Nat) : Reel := match s.block? uid with | some b => b.body.reel | none => Reel.empty

/-- A spilled node written at its place through the L2 of the block's die (R164): D is set, nobody outside holds the line. A line that
depends on a dead agent is REMOTE, with the agent (R380). -/
def State.spillWrite (s : State) (b : Block) (n : RNode) : Except XFault State :=
  match s.agentXlate b.ctx (b.spillAddr n.handle) .write false false with
  | .error e => .error e
  | .ok (pa, l) =>
    match s.deadHome (lineOf (memKey s.hubid pa)) with
    | some a => .error (9, a)
    | none => .ok ((s.setDirty l).homeWrite pa n.bytes)

/-- The node that 16 bytes hold, at a handle (R161). -/
def RNode.ofBytes (handle : Nat) (bs : List Byte) : RNode :=
  let v := fromBytes bs
  let op := bitsOf v 0 8
  let leaf := decide (op < 0x10)
  { handle, op, count := bitsOf v 8 8, nfl := bitsOf v 16 8, stage := bitsOf v 24 8,
    kids := if leaf then [] else [bitsOf v 32 24, bitsOf v 56 24, bitsOf v 80 24].take (kidsOf op),
    payload := if leaf then bitsOf v 32 64 else 0, spilled := true }

/-- A reel with its spilled nodes as their places hold them (R164). A node whose place no longer translates is as the state holds it,
and bytes marked uncorrectable or of a dead memory die are read as they stand: no rule says what the engine makes of them (DESIGN
CHOICE, log entry 84). -/
def State.loadSpilled (s : State) (b : Block) (r : Reel) : Reel :=
  { r with nodes := r.nodes.map fun n =>
      if n.spilled then
        match s.agentPa b.ctx (b.spillAddr n.handle) .read false false with
        | .ok pa => RNode.ofBytes n.handle (s.agentMem pa 16)
        | .error _ => n
      else n }

/-- The spilled nodes of a reel that have changed written again at their places (R164). A write that fails then is dropped (DESIGN
CHOICE, log entry 84). -/
def State.syncSpilled (s : State) (b : Block) (r : Reel) : State :=
  (r.nodes.filter fun n => n.spilled && b.body.reel.node? n.handle != some n && (b.body.reel.node? n.handle).isSome).foldl
    (fun (s : State) n => match s.spillWrite b n with | .ok t => t | .error _ => s) s

/-- The reel of a block changed. -/
def State.setReel (s : State) (uid : Nat) (r : Reel) : State :=
  let s := match s.block? uid with
    | some b => if r.nodes.any (·.spilled) then s.syncSpilled b r else s
    | none => s
  s.updBlock uid fun b => { b with body := { b.body with reel := r } }

/-- The earliest appended node of the window spilled (R164). -/
def State.spillOne (s : State) (b : Block) (r : Reel) : Except LaneFault (State × Reel) :=
  match r.inWindow with
  | [] => .error (reelF 0x01 0 0)
  | n :: _ =>
    match s.spillWrite b n with
    | .error e => .error (reelF 0x02 (b.spillAddr n.handle) (e.1 * 256 + (if e.1 = 9 then 1 else e.2)))
    | .ok s => .ok (s, { r.upd n.handle fun n => { n with spilled := true } with spills := min (r.spills + 1) (2 ^ 32 - 1) })

/-- `append` (R163): the new handle, or REEL. -/
def State.append (s : State) (b : Block) (op : Nat) (kids : List Nat) (payload nfl : Nat) : State × Except LaneFault Nat :=
  let r := s.reelOf b.uid
  let h := r.freeHandle
  if r.nodes.length ≥ b.sheet.reelCap then (s, .error (reelF 0x01 0 0))
  else
    let r := if r.inWindow.length < b.sheet.window then r else r.sweepAll
    if r.inWindow.length < b.sheet.window then (s.setReel b.uid (r.add h op kids payload nfl), .ok h)
    else match s.spillOne b r with
      | .error f => (s.setReel b.uid r, .error f)
      | .ok (s, r) => (s.setReel b.uid (r.add h op kids payload nfl), .ok h)

/-- `setq` (R163). -/
def State.setq (s : State) (uid ci l d : Nat) (q : QReg) : State :=
  let old := match s.thread? uid ci l with | some t => (t.qreg d).handle.toNat | none => 0
  let r := (s.reelOf uid).gain q.handle.toNat
  let r := if old = 0 then r else r.drop old
  (s.setReel uid r).updThread uid ci l fun t => t.setQ d q

/-- The reel references of a crew's tracked registers released with its slot (R79). -/
def State.releaseHandles (s : State) (uid ci : Nat) : State :=
  match s.crew? uid ci with
  | none => s
  | some c =>
    let hs := c.threads.flatMap fun t => t.q.filterMap fun q => if q.handle.toNat = 0 then none else some q.handle.toNat
    if hs.isEmpty then s
    else (s.setReel uid (hs.foldl Reel.drop (s.reelOf uid))).updCrew uid ci fun c =>
      { c with threads := c.threads.map fun t => { t with q := t.q.map fun _ => QReg.zero } }

/-- REEL_SWEEP (R165): the core's sweep unit takes the oldest queued handle of a block. -/
def execReelSweep (uid : Nat) (s : State) : Host.Outcome State Fault Refusal :=
  match s.block? uid with
  | none => .next s
  | some b => .next (if b.onCore then s.setReel uid b.body.reel.sweepOne else s)

end Sys2Proof.Machine
end

