-- ==== Sys2Proof/Machine/Issue.lean ====
section
/-! DEFINITION. How instructions come to issue: the instruction buffer, the regroup, the pick, the end of a cycle
(R103 to R111, R118). -/

namespace Sys2Proof.Machine
open Sys2Proof

/-! ### The instruction buffer (R110, R111) -/

/-- The line that a lane reads its next instruction from: its stale copy while its PC is inside it, else the line of
its context that is not stale. -/
def State.ibLine? (s : State) (core ctx vline : Nat) (stale : Option Nat) : Option IbLine :=
  match (stale.bind fun id => s.ib.find? fun l => l.id == id && l.core == core && l.vline == vline) with
  | some l => some l
  | none => s.ib.find? fun l => l.core == core && l.ctx == ctx && l.vline == vline && !l.stale

/-- The parcel at an address, if its line is present. -/
def State.ibParcel (s : State) (core ctx va : Nat) (stale : Option Nat) : Option Word :=
  (s.ibLine? core ctx (lineOf va) stale).map fun l => BitVec.ofNat 32 (fromBytes ((l.data.drop (va % 128)).take 4))

/-- The parcels of the instruction at an address: those that its length asks for, if every line is present. -/
def State.ibFetch (s : State) (core ctx va : Nat) (stale : Option Nat) : Option (List Word) :=
  match s.ibParcel core ctx va stale with
  | none => none
  | some p0 =>
    if parcelLen p0 = 0 ∨ parcelLen p0 = 3 then some [p0]
    else match s.ibParcel core ctx (va + 4) stale with
      | none => none
      | some p1 =>
        if parcelLen p0 = 1 then some [p0, p1]
        else (s.ibParcel core ctx (va + 8) stale).map fun p2 => [p0, p1, p2]

/-- The buffered lines that the instruction at an address lies in: as many as its length reaches (R110). -/
def State.ibLines (s : State) (core ctx va : Nat) (stale : Option Nat) : List Nat :=
  let len := match s.ibParcel core ctx va stale with
    | none => 4
    | some p0 => if parcelLen p0 = 1 then 8 else if parcelLen p0 = 2 then 12 else 4
  (([va, va + len - 4].filterMap fun a => s.ibLine? core ctx (lineOf a) stale).map fun l : IbLine => l.id).eraseDups

/-- The lines that the instruction at an address needs and that are not present: the first of them. -/
def State.ibMissing (s : State) (core ctx va : Nat) (stale : Option Nat) : Option Nat :=
  match s.ibParcel core ctx va stale with
  | none => some (lineOf va)
  | some p0 =>
    if parcelLen p0 = 0 ∨ parcelLen p0 = 3 then none
    else if (s.ibParcel core ctx (va + 4) stale).isNone then some (lineOf (va + 4))
    else if parcelLen p0 = 2 && (s.ibParcel core ctx (va + 8) stale).isNone then some (lineOf (va + 8))
    else none

/-- A thread is eligible (R104): READY, with its next instruction in the buffer. A lane whose instruction has issued and has
not completed, since its access has left the device or waits, has no next instruction yet: a fault of the access is precise (R235;
log entry 17). -/
def State.eligible (s : State) (b : Block) (t : Thread) : Bool :=
  (match t.st with | .ready => true | _ => false) && t.again.isNone && t.reqs.isEmpty &&
    (s.ibFetch b.core b.ctx t.pc.toNat t.stale).isSome

/-- The decoded instruction of a bundle, under its launch's limits. Lanes at one PC may stand on different copies of a line;
the whole bundle executes the copy of its lowest lane (R111; DESIGN CHOICE, log entry 27). -/
def State.bundleInstr (s : State) (b : Block) (c : Crew) (lanes : List Nat) : Decoded :=
  match c.threads[lanes.headD 0]? with
  | none => .ill .truncated
  | some t =>
    match s.ibFetch b.core b.ctx t.pc.toNat t.stale with
    | none => .ill .truncated
    | some ps => decode ⟨b.sheet.gregs, b.sheet.kregs, b.sheet.qregs⟩ ps

/-- The bundle of some lanes with the instruction that it reads in this cycle, or the ILL detail of its word (R66). -/
def State.readIssue (s : State) (uid ci : Nat) (lanes : List Nat) : Issue :=
  match s.block? uid, s.crew? uid ci with
  | some b, some c => (match s.bundleInstr b c lanes with
    | .ok i _ => ⟨uid, ci, lanes, some i, 0⟩
    | .ill e => ⟨uid, ci, lanes, none, e.detail⟩)
  | _, _ => ⟨uid, ci, lanes, none, 0⟩

/-- The opcode and the fields of an encoded instruction. -/
def opFields (i : Instr) : Option (Nat × Fields) :=
  match partsOf i with
  | .long op _ f => some (op, f)
  | .short op f => some (op, expandShort op f)
  | .event => none

/-- Whether a bundle's instruction can issue: ILL always does (R62, R66, R104). -/
def State.produced (s : State) (b : Block) (c : Crew) (lanes : List Nat) : Bool :=
  if b.late.isEmpty && b.cmds.isEmpty && s.copies.isEmpty && !s.reqs.any (·.posted) then true
  else match s.bundleInstr b c lanes with
    | .ill _ => true
    | .ok i _ =>
      match opFields i with
      | none => true
      | some (op, w) =>
        s.issuable b c c.idx op w (lanes.filter fun l => match c.threads[l]? with | some t => t.guard w | none => false)

/-- A bundle is ready to issue (R104): every lane eligible, its STALL run out, what it reads produced. -/
def State.bundleReady (s : State) (b : Block) (c : Crew) (bd : Bundle) : Bool :=
  (!bd.lanes.isEmpty && bd.lanes.all fun l => match c.threads[l]? with
    | none => false
    | some t => s.eligible b t && decide (t.stallUntil ≤ s.clockOf b.core)) &&
  s.produced b c bd.lanes

/-! ### The regroup (R105, R109) -/

/-- A group of the histogram: PC, stale-copy mark, lanes, weight, largest ageing counter. -/
structure Group where
  pc : Nat
  stale : Bool
  lanes : List Nat
  weight : Nat
  oldest : Nat
deriving DecidableEq, Repr

/-- Whether a thread executes from a stale copy: its stale-copy mark with its PC inside the line (R111). -/
def State.marked (s : State) (b : Block) (t : Thread) : Bool :=
  match s.ibLine? b.core b.ctx (lineOf t.pc.toNat) t.stale with
  | some l => l.stale
  | none => false

/-- The groups of a crew's eligible threads. A lane that executed `yield` counts with weight 0 unless every eligible group
holds such a lane: then these are the only eligible groups (R109). -/
def State.groupsOf (s : State) (b : Block) (c : Crew) : List Group :=
  let ts := c.threads.zipIdx.filter fun p => s.eligible b p.1
  let keys := (ts.map fun p => (p.1.pc.toNat, s.marked b p.1)).eraseDups
  let gs := keys.map fun k =>
    let m := ts.filter fun p => (p.1.pc.toNat, s.marked b p.1) == k
    { pc := k.1, stale := k.2, lanes := m.map (·.2), weight := (m.filter fun p => !p.1.yielded).length,
      oldest := m.foldl (fun a p => max a p.1.age) 0 : Group }
  if gs.all fun g => decide (g.weight < g.lanes.length) then gs.map fun g => { g with weight := g.lanes.length } else gs

/-- Whether the first group is chosen before the second: aged groups first, by age; then the more populous; ties to
the lower PC, then to the unmarked copy. -/
def Group.before (g h : Group) : Bool :=
  let tie := decide (g.pc < h.pc) || (g.pc == h.pc && !g.stale && h.stale)
  let ga := decide (g.oldest ≥ 256)
  let ha := decide (h.oldest ≥ 256)
  if ga != ha then ga
  else if ga then (if g.oldest = h.oldest then tie else decide (h.oldest < g.oldest))
  else (if g.weight = h.weight then tie else decide (h.weight < g.weight))

/-- The first of some groups by the order of choice. -/
def firstGroup (gs : List Group) : Option Group :=
  gs.foldl (fun best g => match best with
    | none => some g
    | some h => if g.before h then some g else some h) none

/-- The bundles that a regroup forms: up to two groups. -/
def chooseGroups (gs : List Group) : List Bundle :=
  match firstGroup gs with
  | none => []
  | some g =>
    match firstGroup (gs.filter fun h => !(h.pc == g.pc && h.stale == g.stale)) with
    | none => [⟨g.lanes⟩]
    | some h => [⟨g.lanes⟩, ⟨h.lanes⟩]

/-- A crew regrouped. -/
def State.regroupCrew (s : State) (b : Block) (c : Crew) : Crew :=
  { c with bundles := chooseGroups (s.groupsOf b c), threads := c.threads.map fun t => { t with yielded := false } }

/-- Every crew of the dies whose cycle count is a multiple of 4 regrouped (R105). -/
def State.regroupAll (s : State) : State :=
  { s with blocks := s.blocks.map fun b =>
      if b.state = .resident && s.clockOf b.core % 4 == 0 then
        { b with body := { b.body with crews := b.body.crews.map fun c => if c.live then s.regroupCrew b c else c } }
      else b }

/-- REGROUP (R105): every fourth cycle, each slice re-forms the bundles of its crews. -/
def execRegroup (s : State) : Host.Outcome State Fault Refusal := .next s.regroupAll

/-! ### The pick (R107, R108) -/

/-- A crew that can be picked: its place and its ready bundles. -/
structure Pickable where
  uid : Nat
  ci : Nat
  slice : Nat
  slot : Nat
  lastPick : Nat
  held : Bool
  skip : Bool
  ready : List (List Nat)
deriving DecidableEq, Repr

/-- The crews with a ready bundle that no debug agent has halted (R394), each with its slice numbered 4 × core + slice. -/
def State.pickables (s : State) : List Pickable :=
  s.blocks.flatMap fun b =>
    if b.state ≠ .resident || s.frozen b.ctx then [] else
    b.body.crews.zipIdx.filterMap fun p =>
      let c := p.1
      let clk := s.clockOf b.core
      let ready := (c.bundles.filter (s.bundleReady b c)).map (·.lanes)
      if !c.live || ready.isEmpty || s.mgmt.halted.contains (b.uid, p.2) then none
      else some { uid := b.uid, ci := p.2, slice := 4 * b.core + c.slice, slot := c.slot, lastPick := c.lastPick,
                  held := c.holdFor == some clk && decide (c.heldPicks < 8), skip := c.skipCycle == some clk, ready }

/-- The ordinary pick among the ready crews of a slice: the least recently picked, the lower slot on a tie; a crew that
YLD or `yield` removed only where no other is ready. -/
def ordinaryPick (ps : List Pickable) : Option Pickable :=
  let rest := ps.filter fun p => !p.skip
  leastBy (fun p => p.lastPick * 32 + p.slot) (if rest.isEmpty then ps else rest)

/-- What has issued in a crew and can go on: the first lanes whose copy has left the scoreboard, or since whose hold an event
has happened, with their instruction (log entry 10). -/
def State.crewAgain (s : State) (uid ci : Nat) (c : Crew) : Option (Issue × Instr) :=
  c.threads.findSome? fun t =>
    match t.again with
    | none => none
    | some a =>
      let due := match a.on with
        | .range id => !s.copies.any fun c => c.id == id
        | .news n => n != s.news
      if t.st = .ready && due then
        let lanes := (c.threads.zipIdx.filter fun q => q.1.st == .ready && q.1.again == some a && q.1.pc == t.pc).map (·.2)
        some (⟨uid, ci, lanes, some a.instr, 0⟩, a.instr)
      else none

/-- What has issued and can go on in the cycle, on the slice that comes next: slices are numbered 4 × core + slice, and act in
ascending order (R9). -/
def State.nextAgain (s : State) : Option (Nat × Issue × Instr) :=
  leastBy (·.1) (s.blocks.flatMap fun b =>
    if !b.onCore then [] else
    b.body.crews.zipIdx.filterMap fun p =>
      let k := 4 * b.core + p.1.slice
      if s.turn ≤ k + 1 then (s.crewAgain b.uid p.2 p.1).map fun a => (k, a) else none)

/-- A reduction that failed at its home, with its lane between two instructions (R239). -/
def State.nextPosted (s : State) : Option Req :=
  s.reqs.find? fun r => r.posted && r.failed.isSome && (match r.owner with
    | none => true
    | some (u, ci, l) => match s.thread? u ci l with
      | some t => t.st == .ready && t.again.isNone && t.reqs.isEmpty
      | none => true)

/-- REMOTE taken by a lane for such a reduction, at the instruction that the lane has come to: the reduction is not performed
again (DESIGN CHOICE, log entry 65). -/
def State.takePosted (s : State) (r : Req) : State :=
  let s : State := { s with reqs := s.reqs.filter fun q => q.id != r.id }
  match r.owner, r.failed with
  | some (u, ci, l), some f =>
    (match s.thread? u ci l with
    | some t =>
      let s := s.updCrew u ci fun c => (c.updThread l fun t => t.park .replay).leaveBundles [l]
      s.takeFaults u ci t.pc.toNat t.pc.toNat [(l, f)] true false
    | none => s)
  | _, _ => s

/-- The pick of a slice. -/
def pickOf (ps : List Pickable) : Option Pickable :=
  match ps.find? (·.held) with
  | some p => some p
  | none => ordinaryPick ps

/-- The next slice of the cycle that has a ready crew, and its pick. -/
def State.nextPick (s : State) : Option Pickable :=
  let ps := s.pickables.filter fun p => decide (s.turn ≤ p.slice + 1)
  match leastBy (·.slice) ps with
  | none => none
  | some q => pickOf (ps.filter fun p => p.slice == q.slice)

/-- What has issued and goes on before the next pick: on a slice not above that pick's. -/
def State.againNow (s : State) : Option (Nat × Issue × Instr) :=
  match s.nextAgain with
  | none => none
  | some a => match s.nextPick with
    | some p => if a.1 ≤ p.slice then some a else none
    | none => some a

/-- The bookkeeping of a pick: the pick itself, consecutive held picks, the ageing of eligible lanes that do not issue,
and the loss of latches when another crew issued in between (R59, R62, R107, R108). -/
def State.recordPick (s : State) (p : Pickable) : State :=
  match s.block? p.uid with
  | none => s
  | some b =>
    let clk := s.clockOf b.core
    let sl := p.slice % 4
    let changed := match s.cores[b.core]? with
      | some c => c.lastCrew.getD sl none != some (p.uid, p.ci)
      | none => true
    let issuing := p.ready.flatten
    let s := s.updCrew p.uid p.ci fun c =>
      { c with lastPick := clk, holdFor := none, heldPicks := if p.held then c.heldPicks + 1 else 0,
               threads := c.threads.zipIdx.map fun q =>
                 let t := if changed then q.1.loseLatches else q.1
                 if !issuing.contains q.2 && s.eligible b t then { t with age := min (t.age + 1) 511 } else t }
    let s := s.updCore b.core fun c => { c with lastCrew := c.lastCrew.set sl (some (p.uid, p.ci)) }
    { s with turn := p.slice + 2 }

/-- The lanes of a bundle marked with the line that their instruction comes from (R111). -/
def State.markFetch (s : State) (b : Block) (ci : Nat) (lanes : List Nat) : State :=
  let used := match s.crew? b.uid ci with
    | none => []
    | some c => match c.threads[lanes.headD 0]? with
      | none => []
      | some t => s.ibLines b.core b.ctx t.pc.toNat t.stale
  let ib := mapWhere (fun (l : IbLine) => used.contains l.id) (fun l => { l with lastUse := s.clockOf b.core }) s.ib
  let s : State := { s with ib }
  s.updCrew b.uid ci fun c => lanes.foldl (fun c l => c.updThread l fun t =>
    match s.ibLine? b.core b.ctx (lineOf t.pc.toNat) t.stale with
    | none => t
    | some line => { t with lastIb := s.ibLines b.core b.ctx t.pc.toNat t.stale,
                            stale := if line.stale then some line.id else none }) c

/-- The bundles of a pick marked with the lines that they read in its cycle. -/
def State.markPicked (s : State) (uid ci : Nat) (bundles : List (List Nat)) : State :=
  bundles.foldl (fun (s : State) lanes => match s.block? uid with
    | none => s
    | some b => s.markFetch b ci lanes) s

/-! ### Released lanes and exited crews (R79, R118) -/

/-- What a thread waits on. -/
def Thread.waitsOn (t : Thread) : Option WaitOn := match t.st with | .waiting w _ => some w | _ => none

/-- Whether a mask's release occurs: every lane of it waits on it, and some lane waits (R118). -/
def Crew.releases (c : Crew) (j : Nat) : Bool :=
  let waits : Nat → Bool := fun l => match c.threads[l]? with | some t => t.waitsOn == some (.mask j) | none => false
  (lanesOf (c.j.getD j 0).toNat).all waits && (List.range 32).any waits

/-- A thread whose wait is over: it completes its instruction and is READY (R78). -/
def Thread.complete (t : Thread) : Thread :=
  match t.st with
  | .waiting _ len => { t with st := .ready, pc := t.pc + BitVec.ofNat 64 len }
  | _ => t

/-- The release of one mask (R118). -/
def Crew.releaseMask (c : Crew) (j : Nat) : Crew :=
  if c.releases j then
    { c with j := updAt c.j j fun _ => 0,
             threads := c.threads.map fun t => if t.waitsOn = some (.mask j) then t.complete else t }
  else c

/-- Every release that is due at the end of a crew's cycle. -/
def Crew.releaseMasks (c : Crew) : Crew := (List.range 8).foldl Crew.releaseMask c

/-- The end of a crew's issue in a cycle: mask releases; then, when its last thread has exited, the crew's slot, its
registers and its private lines are released, and when the block's last crew has, the block retires (R79, R102, R264). -/
def State.endPick (s : State) (uid ci : Nat) : State :=
  match s.block? uid with
  | none => s
  | some _ =>
    let s := s.updCrew uid ci Crew.releaseMasks
    match s.block? uid, s.crew? uid ci with
    | none, _ => s
    | _, none => s
    | some b, some c =>
      if c.live && c.threads.all (fun t => t.st == .exited) then
        if b.isDirector then s.idleDirector b.die else
        let s := (s.flushDailies uid ci).releaseHandles uid ci
        let s := s.updCrew uid ci fun c => { c with live := false, bundles := [] }
        let s := { s with l1 := s.l1.filter fun l => l.priv != some (uid, ci), news := s.news + 1 }
        s.updBlock uid fun b => if b.body.crews.all fun c => !c.live then { b with state := .retiring } else b
      else s

/-! ### The clocks (R10, R105) -/

/-- The flits of a hub cycle that has ended are on their way. -/
def State.clearWire (s : State) : State :=
  if s.links.any fun k => !k.out.isEmpty then { s with links := s.links.map fun k => { k with out := [] } } else s

/-- One core cycle: every die counts, the hub counts in its own ratio (1,000 hub cycles to `freq` core cycles in MHz),
and the regroup of the new cycle is due. The four dies' counters leave reset at 0 together and count together, though no rule relates
one to another (R17, R81; DESIGN CHOICE, log entry 81). -/
def State.tickClocks (s : State) (freq : Nat) : State :=
  let acc := s.clkAcc + 1000
  let s := if acc / freq = 0 then s else s.clearWire
  { s with dies := s.dies.map fun d => { d with clock := d.clock + 1 },
           hubCycle := s.hubCycle + acc / freq, clkAcc := acc % freq, turn := 0 }

end Sys2Proof.Machine
end

