-- ==== Sys2Proof/Machine/Access.lean ====
section
/-! DEFINITION. A program's way to memory: TLBs and walks (R350, R351, R354), the L1 and the L2 with their transitions
(R212, R213), write intents and race detection (R220, R221), epochs and publication (R215, R216). -/

namespace Sys2Proof.Machine
open Sys2Proof

/-! ### Translation -/

/-- Whether a cached leaf maps an address. -/
def TlbEntry.maps (e : TlbEntry) (ctx va : Nat) (tag : Option Nat) : Bool :=
  e.ctx == ctx && e.vpage == va / 2 ^ levelShift e.level && (e.tag.isNone || e.tag == tag) &&
  !(e.type == 2 && e.tag.isNone && tag.isSome)

/-- A cached leaf as a leaf. -/
def TlbEntry.leaf (e : TlbEntry) : Leaf :=
  ⟨e.level, e.frame, e.type, e.exid, e.rd, e.wr, e.xe, e.usr, e.dirty, e.entryAddr⟩

/-- The checks on a leaf for an access, in the order of R350; `resident` says whether its expert is. -/
def Leaf.check (l : Leaf) (acc : Access) (user resident : Bool) : Option XFault :=
  if l.type = 3 then some (pageFault 0x03)
  else if user && !l.usr then some (protFault 0x02)
  else if (match acc with | .read => !l.rd | .write => !l.wr | .exec => !l.xe | .atomic => !(l.rd && l.wr)) then
    some (protFault 0x02)
  else if l.type = 1 && !resident then some (pageFault 0x02)
  else none

/-- The launch tag of the shadow translations that a block uses: its launch, where one of its take regions is OPEN and
holds the address (R365). -/
def State.shadowTag (s : State) (b : Block) (va : Nat) : Option Nat :=
  if s.takes.any fun t => t.isOpen && t.launch == b.launch && t.ctx == b.ctx && decide (t.lo ≤ va) && decide (va < t.lo + t.size)
  then some b.launch else none

/-- The outcome of a program's translation. -/
inductive XRes where
  | ok (pa : Nat) (leaf : Leaf)
  | fault (e : XFault)
  /-- No entry is cached and no walk has ended: the access waits for one. -/
  | miss
deriving DecidableEq, Repr

/-- A walk for a page that has ended with an outcome for the core. -/
def State.endedWalk? (s : State) (core ctx va : Nat) (tag : Option Nat) : Option Walk :=
  s.walks.find? fun w => w.ctx == ctx && w.vpage == va / 2 ^ 13 && w.tag == tag && w.done &&
    w.waiters.contains core

/-- A program's translation of an address (R350, R351): from the core's TLB, from the die's, or the outcome of a walk. -/
def State.translate (s : State) (core ctx va : Nat) (tag : Option Nat) (acc : Access) : XRes :=
  match s.tlb.find? fun e => (e.at_ == .core core || e.at_ == .die (dieOf core)) && e.maps ctx va tag with
  | some e =>
    match e.leaf.check acc true (s.expertResident ctx e.exid) with
    | some f => .fault f
    | none => .ok (e.frame + va % 2 ^ levelShift e.level) e.leaf
  | none =>
    match s.endedWalk? core ctx va tag with
    | none => .miss
    | some w =>
      match w.fault, w.leaf with
      | some f, _ => .fault f
      | none, some l => (match l.check acc true (s.expertResident ctx l.exid) with | some f => .fault f | none => .miss)
      | none, none => .miss

/-- A walk started for a page, or joined (R351); with 64 in flight the miss waits. -/
def State.startWalk (s : State) (core ctx va : Nat) (tag : Option Nat) : State :=
  let here : Walk → Bool := fun w => w.ctx == ctx && w.vpage == va / 2 ^ 13 && w.tag == tag && !w.done
  if s.walks.any here then
    { s with walks := mapWhere here (fun w => { w with waiters := (core :: w.waiters).eraseDups }) s.walks }
  else if (s.walks.filter fun w => !w.done).length ≥ 64 then s
  else
    let (id, s) := s.fresh
    { s with walks := s.walks ++ [⟨id, dieOf core, ctx, va / 2 ^ 13, tag, [core], false, none, none⟩] }

/-- The core has seen the outcome of ended walks for some addresses. -/
def State.seeWalks (s : State) (core ctx : Nat) (vas : List Nat) : State :=
  let mine : Walk → Bool := fun w =>
    w.ctx == ctx && w.done && (vas.map (· / 2 ^ 13)).contains w.vpage
  let ws := mapWhere mine (fun w => { w with waiters := w.waiters.filter (· != core) }) s.walks
  { s with walks := ws.filter fun w => !(w.done && w.waiters.isEmpty) }

/-- The entry that a TLB holds for a leaf. -/
def Leaf.entry (l : Leaf) (at_ : TlbAt) (ctx va : Nat) (tag : Option Nat) : TlbEntry :=
  ⟨at_, ctx, va / 2 ^ levelShift l.level, l.level, tag, l.frame, l.type, l.exid, l.rd, l.wr, l.xe, l.usr, l.dirty,
    l.entryAddr⟩

/-- Capacity of a TLB (R351). -/
def TlbAt.size : TlbAt → Nat
  | .core _ => 256
  | .die _ => 16384

/-- An entry put into a TLB; a full one loses an entry of the machine's choice. -/
def State.tlbFill (s : State) (e : TlbEntry) : State :=
  let mine := s.tlb.filter fun x => x.at_ == e.at_
  if mine.length < e.at_.size then { s with tlb := s.tlb ++ [e] }
  else
    let (k, s) := s.choose (mine.length - 1)
    match mine[k]? with
    | some v => { s with tlb := s.tlb.erase v ++ [e] }
    | none => { s with tlb := s.tlb ++ [e] }

/-! ### The L2 and the directory (R211, R212) -/

/-- The state of a line in a die's L2, none for I. -/
def State.l2State (s : State) (die line : Nat) : Option L2State :=
  (s.l2.find? fun l => l.die == die && l.line == line).map (·.st)

/-- Whether anyone outside the dies holds a line. -/
def State.outsideHolds (s : State) (line : Nat) : Bool :=
  s.dir.any fun d => d.line == line && (d.host || !d.peers.isEmpty || d.coarse != 0 || d.owner.isSome)

/-- A sharer recorded: the host in its own bit, four peers exactly, more in the coarse vector (R211). -/
def DirEntry.share (d : DirEntry) (who : Nat) : DirEntry :=
  if who = hostAgent then { d with host := true }
  else if d.peers.contains who then d
  else if d.coarse = 0 && decide (d.peers.length < 4) then { d with peers := d.peers ++ [who] }
  else { d with peers := [], coarse := (who :: d.peers).foldl (fun c p => c ||| BitVec.twoPow 64 (p % 64)) d.coarse }

/-- An outside owner becomes a sharer: its line is read (R212). -/
def DirEntry.demote (d : DirEntry) : DirEntry :=
  match d.owner with | some a => { d with owner := none }.share a | none => d

/-- Whether one line stands before another in the order of their group of 48. -/
def sliceBefore (k line : Nat) : Bool :=
  decide (Config.sliceHash k < Config.sliceHash line) || (Config.sliceHash k == Config.sliceHash line && decide (k < line))

/-- Whether an entry names nobody. -/
def DirEntry.isEmpty (d : DirEntry) : Bool := !d.host && d.peers.isEmpty && d.coarse == 0 && d.owner.isNone

/-- The ring position of a line's slice (R211): its place among the 48 lines of its aligned group, so that those lie on all 48
positions, in an order that is free (DEDUCED, log entry 75). -/
def slicePos (line : Nat) : Nat :=
  ((List.range 48).filter fun i => sliceBefore (line / 48 * 48 + i) line).length

/-- Whether a die's transfer of a line crosses the spoke link of a die (R6): its own, a holder's, or the memory die's, where the
die does not hold the line as it needs it. -/
def State.crosses (s : State) (die line : Nat) (own : Bool) (d : Nat) : Bool :=
  let mine := s.l2State die line
  let here := if own then mine == some .m || mine == some .e else mine.isSome
  let sends : L2Line → Bool := fun l => l.line == line && (own || l.st != .s)
  !here && (d == die || (s.l2.any fun l => sends l && l.die == d) ||
    (decide (line < 2 ^ 32) && !s.l2.any (fun l => l.line == line && l.st != .s) && d == memDie line))

/-- The spoke links of live dies that are not UP: no transfer crosses them (R6, R377). -/
def State.downSpokes (s : State) : List Nat :=
  (List.range 8).filter fun d => match s.links[36 + d]? with
    | some k => k.st != .up && k.st != .fenced
    | none => false

/-- Sleeping spoke links woken by a transfer that needs them (R377). -/
def State.wakeSpokes (s : State) (ds : List Nat) : State :=
  ds.foldl (fun (s : State) d => s.updLink (36 + d) fun k =>
    if k.st = .sleep then { k with st := .waking, since := s.hubCycle } else k) s

/-- A transfer made: its spoke links have carried data (R377). -/
def State.crossNow (s : State) (die line : Nat) (own : Bool) : State :=
  { s with links := s.links.zipIdx.map fun k =>
      { k.1 with lastData := if decide (36 ≤ k.2) && s.crosses die line own (k.2 - 36) then s.hubCycle else k.1.lastData } }

/-- A line given up by a die (R212, evict): M data of a peer's line goes back to the peer, and where no die holds it any more its bytes
are kept nowhere here. -/
def State.l2Evict (s : State) (l : L2Line) : State :=
  let s : State := { s with l2 := s.l2.filter fun x => !(x.die == l.die && x.line == l.line) }
  if !peerLine l.line || s.l2.any (fun x => x.line == l.line) then s
  else
    let key := l.line * 128
    let s := if l.st = .m then s.postWrite key (readBytes s.mem key 128) else s
    { s with mem := writeBytes s.mem key (List.replicate 128 0) }

/-- The lines of an L2 slice (R6). -/
def sliceLines : Nat := 12288

/-- Room for one more line in a slice of a die: replacement may evict a line of the slice, and must where the slice is full
(R6, R11, R212). -/
def State.l2Room (s : State) (die line : Nat) : State :=
  if die ≥ 8 then s else
  let mine := s.l2.filter fun l => l.die == die && slicePos l.line == slicePos line
  if mine.isEmpty then s
  else
    let (k, s) := s.choose (if mine.length < sliceLines then mine.length else mine.length - 1)
    match mine[k]? with
    | some l => s.l2Evict l
    | none => s

/-- A free core number and epoch of a peer. -/
def State.freeEpoch (s : State) : Nat × Nat × State :=
  (Config.choose s.choices 191 % 192, Config.choose (s.choices + 1) (2 ^ 32 - 1) % 2 ^ 32, { s with choices := s.choices + 2 })

/-- The release record and the write intent that a line may bring from a peer that owned it: they move with the ownership (R211, R212).
Whether there are any, their cores, epochs and bytes are free values (DEDUCED, log entry 100). -/
def State.inherit (s : State) (line a : Nat) : State :=
  let (k, s) := s.choose 3
  let s := if k % 2 = 0 then s else
    let (core, epoch, s) := s.freeEpoch
    { s with recs := (s.recs.filter fun x => !(x.line == line && x.home == some a)) ++ [⟨line, core, some a, 64, epoch, false⟩] }
  if k < 2 then s else
  let (core, epoch, s) := s.freeEpoch
  let mask := BitVec.ofNat 128 (fromBytes ((List.range 16).map (Config.outsideByte s.choices)))
  { s with intents := (s.intents.filter fun x => !(x.line == line && x.home == some a)) ++ [⟨line, core, some a, 64, epoch, mask⟩],
           choices := s.choices + 1 }

/-- A line that an agent outside owns comes back to its home, read or taken, with its records (R212); a dead owner answers nothing. -/
def State.recall (s : State) (line : Nat) (take : Bool) : State :=
  match (s.dir.find? fun d => d.line == line).bind (·.owner) with
  | none => s
  | some a =>
    if s.agentDead a then s
    else
      let s := s.snoopOut line take
      let s := if a < hostAgent then s.inherit line a else s
      let dir := mapWhere (fun (d : DirEntry) => d.line == line) (fun d => if take then { d with owner := none } else d.demote) s.dir
      { s with dir := dir.filter fun d => !d.isEmpty }

/-- Whether this device holds a line that it does not home, to be read or written: a die a peer's, the hub's device cache the host's
(R212, R385). -/
def State.outHeld (s : State) (line : Nat) (own : Bool) : Bool :=
  if hostLine line then s.hostCache.any fun h => h.1 == line && (!own || h.2 != .s)
  else s.l2.any fun l => l.line == line && (!own || l.st != .s)

/-- Holders of a line in E or M move to S, as another agent reads it (R212): M data of a peer's line goes back to the peer. What a dead
agent holds stays for the strike (R381). -/
def State.demoteHolders (s : State) (line : Nat) : State :=
  let s := if peerLine line && s.l2.any (fun l => l.line == line && l.st == .m) then
    s.postWrite (line * 128) (readBytes s.mem (line * 128) 128) else s
  { s with l2 := mapWhere (fun l => l.line == line && !s.dieFenced l.die) (fun l => { l with st := .s }) s.l2 }

/-- A read by a die (R212): E where nobody else holds the line, else S, and a holder in E or M moves to S. A line that this device does
not home is asked of its home before. What a dead agent holds stays for the strike (R381). -/
def State.l2Read (s : State) (die line : Nat) : State :=
  match s.l2State die line with
  | some _ => s
  | none =>
    if outsideLine line && !s.outHeld line false then s else
    let s := ((s.crossNow die line false).recall line false).l2Room die line
    let others := s.l2.any (fun l => l.line == line) || s.outsideHolds line || s.hostCache.any fun h => h.1 == line && h.2 == .s
    let s := s.demoteHolders line
    { s with l2 := s.l2 ++ [⟨die, line, if others then .s else .e⟩] }

/-- A read of a line by the hub, which keeps no copy of it in an L2. -/
def State.hubLook (s : State) (line : Nat) : State := ((s.crossNow 8000 line false).recall line false).demoteHolders line

/-- Ownership of a line by a die (R212): every other copy is invalidated. A line that this device does not home is asked of its home
before. What a dead agent holds stays for the strike (R381). -/
def State.l2Own (s : State) (die line : Nat) : State :=
  let mine := s.l2State die line
  if mine = some .m || (outsideLine line && !s.outHeld line true && mine.isNone) then s
  else
    let s := ((s.crossNow die line true).recall line true).snoopOut line true
    let s := if mine.isNone then s.l2Room die line else s
    { s with l2 := (s.l2.filter fun l => l.line != line || s.dieFenced l.die) ++ [⟨die, line, .m⟩]
             dir := s.dir.filter fun d => d.line != line || (match d.owner with | some a => s.agentDead a | none => false)
             hostCache := mapWhere (fun h => h.1 == line) (fun h => (h.1, .m)) s.hostCache }

/-- The lines of the hub's device cache: 64 MiB (R385). -/
def hostCacheLines : Nat := 524288

/-- A line of host memory that the host has given, put into the hub's device cache; a full cache gives up a line of the machine's
choice, and what the dies hold of it with it. -/
def State.hostCachePut (s : State) (line : Nat) (own : Bool) : State :=
  -- whether another agent holds the line is known to its home
  let (k, s) := if own then (1, s) else s.choose 1
  let st : L2State := if own then .m else if k = 0 then .s else .e
  let rest := s.hostCache.filter fun h => h.1 != line
  if rest.length < hostCacheLines then { s with hostCache := rest ++ [(line, st)] }
  else
    let (i, s) := s.choose (rest.length - 1)
    let gone := (rest.getD i (0, .s)).1
    { s with hostCache := (rest.filter fun h => h.1 != gone) ++ [(line, st)], l2 := s.l2.filter fun l => l.line != gone }

/-- A line of host memory lands: the device may hold it, and the die that asked for it does; the hub asks under no die's number. -/
def State.landHostLine (s : State) (die line : Nat) (own : Bool) : State :=
  let s := s.hostCachePut line own
  if die ≥ 8 then s else if own then s.l2Own die line else s.l2Read die line

/-- A line of a peer's memory that the peer has sent, with a state: a copy that the die already owns stays. -/
def State.landPeerLine (s : State) (die line : Nat) (own : Bool) (bs : List Byte) : State :=
  let held := s.l2.any fun l => l.line == line
  if s.l2.any (fun l => l.line == line && l.st == .m) then (if own then s.l2Own die line else s.l2Read die line)
  else
    let s : State := { s with mem := writeBytes s.mem (line * 128) bs }
    if held then (if own then s.l2Own die line else s.l2Read die line)
    else
      let s := (s.crossNow die line own).l2Room die line
      if own then { s with l2 := s.l2 ++ [⟨die, line, .m⟩] }
      else
        -- whether another agent holds the line is known to its home
        let (k, s) := s.choose 1
        { s with l2 := s.l2 ++ [⟨die, line, if k = 0 then .s else .e⟩] }

/-! ### Lines for the device's own readers

An engine, the hub, a fetch or a walk that needs a line waits for the spoke links that its transfer crosses, and for the home outside
that has it: its request has a timer as every other (R374). -/

/-- What a reader of the device finds. -/
inductive Bring where
  /-- The line, or the bytes, are at hand. -/
  | here
  /-- Links wake, or a request is under way. -/
  | wait
  /-- The home has not answered: REMOTE with the agent. -/
  | remote (agent : Nat)
deriving DecidableEq, Repr

/-- The number under which the hub holds no line of its own. -/
def hubDie : Nat := 8000

/-- The spoke links not UP that a transfer of a line crosses (R6, R377). -/
def State.spokesDown (s : State) (die line : Nat) (own : Bool) : List Nat :=
  s.downSpokes.filter fun d => s.crosses die line own d

/-- The request of a reader for an element. -/
def State.brought? (s : State) (die who : Nat) (e : ReqElem) : Option Req :=
  s.reqs.find? fun r => r.op == bringOp && r.pc == die && r.clk == who &&
    (match r.elems with | k :: _ => k.pa == e.pa && k.kind == e.kind && k.n == e.n | [] => r.act == e.pa)

/-- A reader's access is over: its requests that have ended are taken away, and the hub keeps no line that it only read. -/
def State.endBring (s : State) (die who : Nat) : State :=
  let ended : Req → Bool := fun r => r.op == bringOp && r.pc == die && r.clk == who && (r.failed.isSome || r.elems.all fun k => k.answer.isSome)
  let s := if die = hubDie then (s.l2.filter fun l => l.die == hubDie).foldl State.l2Evict s else s
  { s with reqs := s.reqs.filter fun r => !ended r }

/-- Requests of readers that have ended long ago and that nobody has taken: their reader is gone. -/
def State.dropBrought (s : State) : State :=
  let old : Req → Bool := fun r => r.op == bringOp && ((r.failed.isSome && decide (r.next + 100000 ≤ s.hubCycle)) ||
    (!r.elems.isEmpty && r.elems.all fun k => k.answer.isSome && decide (k.since + 200000 ≤ s.hubCycle)))
  if s.reqs.any old then { s with reqs := s.reqs.filter fun r => !old r } else s

/-- An element asked of its home for a reader, or what has become of it. A request that has ended stays until its reader's access is
over; `act` keeps the address of one that has failed. -/
def State.bringElem (s : State) (die who : Nat) (e : ReqElem) : State × Bring :=
  match s.brought? die who e with
  | some r =>
    if r.failed.isSome then (s, .remote e.home)
    else if r.elems.all fun k => k.answer.isSome then (s, .here)
    else (s, .wait)
  | none =>
    if s.agentDead e.home then (s, .remote e.home)
    else (s.postReq none none die 0 bringOp who e.pa noFields [e], .wait)

/-- Whether a line is asked of a home outside the device. -/
def State.asksOut (s : State) (line : Nat) (own : Bool) : Bool := outsideLine line && !s.outHeld line own

/-- The spoke links not UP that an access of a die, or of the hub, to a line crosses. -/
def State.lineDown (s : State) (die line : Nat) (own : Bool) : List Nat :=
  if s.asksOut line own then s.downSpokes.filter (· == die) else s.spokesDown die line own

/-- A line for a reader of the device at a die, or at the hub. -/
def State.bringLine (s : State) (die who line : Nat) (own : Bool) : State × Bring :=
  let down := s.lineDown die line own
  if !down.isEmpty then (s.wakeSpokes down, .wait)
  else if !s.asksOut line own then (s, .here)
  else s.bringElem die who (reqElem (.peer (lineAgent line)) 0 (keyPa s.hubid (line * 128)) 128 (if own then .own else .fill) [])

/-- Bytes of non-coherent host memory for a reader: once the host has answered, they are read as they then stand (R232). -/
def State.bringIo (s : State) (die who pa n : Nat) : State × Bring :=
  let down := s.downSpokes.filter (· == die)
  if !down.isEmpty then (s.wakeSpokes down, .wait)
  else s.bringElem die who (reqElem .hostIo 0 pa n .read [])

/-- Bytes within one line, at their place, for a reader. -/
def State.bring (s : State) (die who : Nat) (p : Place) (pa n : Nat) (own : Bool) : State × Bring :=
  match p with
  | .hostIo => s.bringIo die who pa n
  | _ => s.bringLine die who (lineOf (memKey s.hubid pa)) own

/-- Lines for a reader, each in its turn: what the first that is not at hand waits for. -/
def State.bringLines (s : State) (die who : Nat) (lines : List Nat) : State × Bring :=
  lines.foldl (fun (a : State × Bring) k => if a.2 = .here then a.1.bringLine die who k false else a) (s, .here)

/-- The entries that a walk reads, from the root down (R348, R351). -/
def walkPath (m : List Host.Cell) (hubid va : Nat) : Nat → Nat → Nat → List Nat
  | 0, _, _ => []
  | fuel + 1, level, table =>
    let addr := table + 8 * bitsOf va (levelShift level) 10
    let e := readNat m (memKey hubid addr) 8
    addr :: (if bitAt e 0 && !bitAt e 1 && tableEntryOk hubid e level then walkPath m hubid va fuel (level + 1) (bitsOf e 13 39 * 2 ^ 13)
             else [])

/-- The lines that a walk reads: those of its entries, and that of a take-shadow page's companion where it is used (R351, R365). -/
def State.walkLines (s : State) (root va : Nat) (shadow : Bool) : List Nat :=
  let companion := match walkTables s.mem s.hubid root va with
    | .ok l => if shadow && l.type == 2 then [l.entryAddr + 8192] else []
    | .error _ => []
  ((walkPath s.mem s.hubid va 4 0 root ++ companion).map fun a => lineOf (memKey s.hubid a)).eraseDups

/-- A walk's reads: through the L2 of its die, or by the hub, coherently, with no publication (R351). -/
def State.walkReads (s : State) (die root va : Nat) (shadow : Bool) : State :=
  (s.walkLines root va shadow).foldl (fun (s : State) k => if die < 4 then s.l2Read die k else s.hubLook k) s

/-- The walk of an agent of the device at a die, or at the hub, for an address of a context: its lines at hand, and then read. -/
def State.walkFor (s : State) (die who ctx va : Nat) (shadow : Bool) : State × Bring :=
  match s.ctxs[ctx]? with
  | none => (s, .here)
  | some c =>
    if va ≥ 2 ^ 53 then (s, .here)
    else match s.bringLines die who (s.walkLines c.root va shadow) with
      | (s, .here) =>
        (match (s.walkLines c.root va shadow).findSome? s.deadHome with
          | some a => (s, .remote a)
          | none => (s.walkReads die c.root va shadow, .here))
      | r => r

/-- What an agent's access has waited for: the walk, and the spoke links that it crosses; what a home outside has to give is asked for
by the access itself. -/
def State.approach (s : State) (die who ctx va : Nat) (acc : Access) (user shadow : Bool) : State × Bring :=
  match s.walkFor die who ctx va shadow with
  | (s, .here) =>
    (match s.agentXlate ctx va acc user shadow with
      | .error _ => (s, .here)
      | .ok (pa, leaf) =>
        let down := match placeOf s.hubid pa leaf.type with
          | .hostIo => s.downSpokes.filter (· == die)
          | _ => s.lineDown die (lineOf (memKey s.hubid pa)) (acc != .read)
        if down.isEmpty then (s, .here) else (s.wakeSpokes down, .wait))
  | r => r

/-- Who reads: a number of its own for each kind of reader. -/
def laneReader (uid ci l : Nat) : Nat := 8 * ((uid * 64 + ci) * 64 + l)
def cmdReader (id : Nat) : Nat := 8 * id + 1
def copyReader (id : Nat) : Nat := 8 * id + 2
def queueReader (n : Nat) : Nat := 8 * n + 3
def fetchReader (core vline : Nat) : Nat := 8 * (core + 256 * vline) + 4
def walkReader (id : Nat) : Nat := 8 * id + 5
def expertReader (ctx id : Nat) : Nat := 8 * (ctx + 64 * id) + 6
def ctxReader (ctx : Nat) : Nat := 8 * ctx + 7

/-- What stops an access of the device's own reader. -/
inductive Halt where
  | fault (f : LaneFault)
  /-- A link wakes, or a home outside has been asked: the reader comes again. -/
  | wait
deriving DecidableEq, Repr

/-- What a reader that finds its bytes not at hand does. -/
def Bring.halt (va : Nat) : Bring → Option Halt
  | .here => none
  | .wait => some .wait
  | .remote a => some (.fault (remoteF va a))

/-! ### The L1 (R213) -/

def State.l1Line? (s : State) (core ctx vline : Nat) : Option L1Line :=
  s.l1.find? fun l => l.core == core && l.ctx == ctx && l.vline == vline

/-- A line of the L1 replaced, or added. -/
def State.l1Put (s : State) (l : L1Line) : State :=
  let same : L1Line → Bool := fun x => x.core == l.core && x.ctx == l.ctx && x.vline == l.vline
  if s.l1.any same then { s with l1 := mapWhere same (fun _ => l) s.l1 } else { s with l1 := s.l1 ++ [l] }

def State.l1Drop (s : State) (core ctx vline : Nat) : State :=
  { s with l1 := s.l1.filter fun l => !(l.core == core && l.ctx == ctx && l.vline == vline) }

def L1Line.dirty (l : L1Line) : Bool := l.written != 0

/-- The runs of bytes that a mask names: first byte and length. -/
def maskRuns (mask : BitVec 128) : List (Nat × Nat) :=
  (List.range 128).foldl (fun rs i =>
    if !mask.getLsbD i then rs
    else match rs.getLast? with
      | some (o, n) => if o + n = i then rs.dropLast ++ [(o, n + 1)] else rs ++ [(i, 1)]
      | none => [(i, 1)]) []

/-- Written bytes of a peer's line that no die owns any more: they go to the peer, and what the dies hold of the line is given up. -/
def State.writePeerBytes (s : State) (line : Nat) (data : List Byte) (mask : BitVec 128) : State :=
  let s := (s.l2.filter fun l => l.line == line).foldl State.l2Evict s
  (maskRuns mask).foldl (fun (s : State) r => s.postWrite (line * 128 + r.1) ((data.drop r.1).take r.2)) s

/-- Whether a write intent is of a core of this device. -/
def Intent.mine (i : Intent) (core : Nat) : Bool := i.core == core && i.home.isNone

/-- The publish row of R213: written bytes merge at the home, and the line's intents of the core are removed. -/
def State.publishLine (s : State) (l : L1Line) : State :=
  if !l.dirty then s
  else if outsideLine l.pline && !s.outHeld l.pline true then
    let s := s.writePeerBytes l.pline l.data l.written
    ({ s with intents := s.intents.filter fun i => !(i.line == l.pline && i.mine l.core) } : State).l1Put { l with written := 0 }
  else
  let s := s.l2Own (dieOf l.core) l.pline
  let s := { s with mem := mergeBytes s.mem (l.pline * 128) l.data l.written,
                    poison := if l.bad then (s.poison ++ [l.pline]).eraseDups else s.poison
                    intents := s.intents.filter fun i => !(i.line == l.pline && i.mine l.core) }
  s.l1Put { l with written := 0 }

/-- The epoch of a dirty line's tag: the newest not above the core's whose low bits agree (R213, R215). -/
def L1Line.epochOf (l : L1Line) (cur : Nat) : Nat := cur - (cur + 4 - l.tag.toNat) % 4

/-- A core's epochs up to `e` published (R216). -/
def State.publishUpTo (s : State) (core e : Nat) : State :=
  match s.cores[core]? with
  | none => s
  | some c =>
    let ls := s.l1.filter fun l => l.core == core && l.dirty && l.priv.isNone && decide (l.epochOf c.epoch ≤ e)
    let s := ls.foldl State.publishLine s
    let s := { s with recs := mapWhere (fun r => r.core == core && r.home.isNone && decide (r.epoch ≤ e))
                        (fun r => { r with published := true }) s.recs }
    s.updCore core fun c => { c with closed := c.closed.filter fun k => decide (e < k) }

/-- The fence row of R216: every unpublished epoch and the open one, which is then closed. -/
def State.publishAll (s : State) (core : Nat) : State :=
  match s.cores[core]? with
  | none => s
  | some c => (s.publishUpTo core c.epoch).updCore core fun c => { c with epoch := c.epoch + 1 }

/-- An epoch closed by a release (R215): one that would be a fourth unpublished one first publishes the oldest. -/
def State.closeEpoch (s : State) (core : Nat) : State :=
  match s.cores[core]? with
  | none => s
  | some c =>
    let s := match c.closed with
      | e :: _ => if c.closed.length ≥ 3 then s.publishUpTo core e else s
      | [] => s
    s.updCore core fun c => { c with closed := c.closed ++ [c.epoch], epoch := c.epoch + 1 }

/-- The acquire row of R213: clean lines become invalid, dirty ones keep their written bytes. -/
def State.acquireL1 (s : State) (core : Nat) : State :=
  { s with l1 := (s.l1.filter fun l => l.core != core || l.dirty).map fun l =>
      if l.core == core then { l with valid := l.written } else l }

/-- The lines of a core's L1 beside scratchpad (R210). -/
def State.l1Capacity (s : State) (core : Nat) : Nat :=
  match s.cores[core]? with | some c => (8 - c.carve) * 1024 | none => 0

/-- A line evicted: a dirty one is first written back (R213); memory then holds a private line. -/
def State.evictL1 (s : State) (l : L1Line) : State :=
  let s := match l.priv with
    | some (uid, ci) => if l.dirty then s.updBlock uid fun b => { b with privBack := b.privBack ++ [(ci, l.vline)] } else s
    | none => s
  (s.publishLine l).l1Drop l.core l.ctx l.vline

/-- Room for one more line: replacement may evict a line of the core, and must where the L1 is full. -/
def State.makeRoom (s : State) (core : Nat) : State :=
  let mine := s.l1.filter fun l => l.core == core
  if mine.isEmpty then s
  else if mine.length < s.l1Capacity core then
    let (k, s) := s.choose mine.length
    match mine[k]? with
    | some l => s.evictL1 l
    | none => s
  else
    let (k, s) := s.choose (mine.length - 1)
    match mine[k]? with
    | some l => s.evictL1 l
    | none => s

/-! ### Race detection (R220, R221) -/

/-- The intent of a copy's destination (R219) on bytes of a line. -/
def Copy.intentOn (c : Copy) (line : Nat) (mask : BitVec 128) : Option Intent :=
  (c.dest.find? fun d => d.1 == line && (d.2 &&& mask) != 0).map fun d => ⟨line, c.core, none, c.ctx, c.epoch, d.2⟩

/-- An unpublished intent of another core on bytes of a line, of this device or a peer's: a store's notice, or a copy's destination. A copy meets only
the destinations of copies issued before it (R221: the notice that arrives second raises MME). None is detected on memory that
this device does not home. -/
def State.conflictBefore? (s : State) (core line : Nat) (mask : BitVec 128) (copy : Option Nat) : Option Intent :=
  if peerLine line then none
  else match s.intents.find? fun i => i.line == line && !i.mine core && (i.mask &&& mask) != 0 with
  | some i => some i
  | none => (s.copies.filter fun c => c.core != core && (match copy with | some k => decide (c.id < k) | none => true)).findSome?
      fun c => c.intentOn line mask

/-- An unpublished intent of another core on bytes of a line. -/
def State.conflict? (s : State) (core line : Nat) (mask : BitVec 128) : Option Intent := s.conflictBefore? core line mask none

/-- MME at an address (R326). -/
def mmeF (addr : Nat) (i : Intent) : LaneFault := ⟨7, 0, addr, i.core + i.epoch % 2 ^ 32 * 2 ^ 16, i.mask.toNat⟩

/-- POISON at an address. -/
def poisonF (addr : Nat) : LaneFault := ⟨8, 0, addr, 0, 0⟩

/-- The faults of an access that reaches the L2: MME, then POISON, then REMOTE (R235). -/
def State.l2Fault (s : State) (core va pa n : Nat) : Option LaneFault :=
  match s.conflict? core (lineOf pa) (lineMask (lineOf pa) pa n) with
  | some i => some (mmeF va i)
  | none => if s.poison.contains (lineOf pa) then some (poisonF va) else s.hostFault va pa

/-- A notice of a core for bytes of a line (R220). -/
def State.postIntent (s : State) (core ctx line : Nat) (mask : BitVec 128) : State :=
  match s.cores[core]? with
  | none => s
  | some c =>
    let same : Intent → Bool := fun i => i.line == line && i.mine core && i.ctx == ctx && i.epoch == c.epoch
    let s := s.l2Own (dieOf core) line
    if s.intents.any same then
      { s with intents := mapWhere same (fun i => { i with mask := i.mask ||| mask }) s.intents }
    else { s with intents := s.intents ++ [⟨line, core, none, ctx, c.epoch, mask⟩] }

/-! ### Accesses of a core to coherent memory

Addresses are memory keys; an access of one lane lies within one line. `priv` names the crew of a line of interleaved
private memory. -/

/-- Whether a line of interleaved private memory still has its contents at creation, zeros: it has never been written
back (R323). -/
def State.privFresh (s : State) (priv : Option (Nat × Nat)) (vline : Nat) : Bool :=
  match priv with
  | none => false
  | some (uid, ci) => match s.block? uid with
    | none => false
    | some b => !b.privBack.contains (ci, vline)

/-- A core has read a line at the L2: one that holds another core's unpublished release record is remembered for a later acquire
fence (R225). -/
def State.hear (s : State) (core va line : Nat) : State :=
  if s.recs.any fun r => r.line == line && !r.published && (r.home.isSome || r.core != core) then
    s.updCore core fun c => { c with heard := (c.heard.filter fun h => h.1 != line) ++ [(line, va)] }
  else s

/-- Whether the L1 holds every byte of an access. -/
def State.l1Hit (s : State) (core ctx va n : Nat) : Bool :=
  match s.l1Line? core ctx (lineOf va) with
  | some l => l.valid &&& lineMask 0 (va % 128) n == lineMask 0 (va % 128) n
  | none => false

/-- Bytes at an address with those that the core itself has written and not published before them. -/
def State.ownBytes (s : State) (core ctx va : Nat) (bs : List Byte) : List Byte :=
  match s.l1Line? core ctx (lineOf va) with
  | none => bs
  | some l => bs.zipIdx.map fun p => if l.written.getLsbD (va % 128 + p.2) then l.data.getD (va % 128 + p.2) p.1 else p.1

/-- A load through the L1: the bytes, or a fault. -/
def State.loadL1 (s : State) (core ctx va key n : Nat) (priv : Option (Nat × Nat)) : State × Except LaneFault (List Byte) :=
  let vline := lineOf va
  let off := va % 128
  let mask := lineMask 0 off n
  let hit := match s.l1Line? core ctx vline with
    | some l => if l.valid &&& mask = mask then some l else none
    | none => none
  match hit with
  | some l => (s, if l.bad then .error (poisonF va) else .ok ((l.data.drop off).take n))
  | none =>
    let s := if s.privFresh priv vline then s else s.recall (lineOf key) false
    match (if s.privFresh priv vline then none else s.l2Fault core va key n) with
    | some f => (s, .error f)
    | none =>
      let s := match s.l1Line? core ctx vline with | some _ => s | none => s.makeRoom core
      let s := (s.l2Read (dieOf core) (lineOf key)).hear core va (lineOf key)
      let mem := if s.privFresh priv vline then List.replicate 128 0 else readBytes s.mem (lineOf key * 128) 128
      let l : L1Line := match s.l1Line? core ctx vline with
        | some l => { l with data := (l.data.zip mem).zipIdx.map fun p => if l.valid.getLsbD p.2 then p.1.1 else p.1.2,
                             valid := BitVec.allOnes 128 }
        | none => ⟨core, ctx, vline, lineOf key, mem, BitVec.allOnes 128, 0, 0, priv, false⟩
      (s.l1Put l, .ok ((l.data.drop off).take n))

/-- Bytes put into a line's data. -/
def putBytes (data : List Byte) (off : Nat) (bs : List Byte) : List Byte :=
  data.take off ++ bs ++ data.drop (off + bs.length)

/-- The bytes of a store that its line's notice for the current epoch does not hold yet: those that reach the L2 (R213, R220). A
line of an earlier epoch is first written back, so all of them do. -/
def State.newBytes (s : State) (core ctx va key n : Nat) : BitVec 128 :=
  let mask := lineMask (lineOf key) key n
  let cur := match s.cores[core]? with | some c => c.epoch | none => 0
  match s.l1Line? core ctx (lineOf va) with
  | none => mask
  | some l =>
    if l.written == 0 || l.tag != BitVec.ofNat 2 cur then mask
    else
      let noticed := s.intents.foldl (fun (m : BitVec 128) i =>
        if i.line == lineOf key && i.mine core && i.ctx == ctx && i.epoch == cur then m ||| i.mask else m) 0
      mask &&& ~~~ (l.written &&& noticed)

/-- The fault of a store before it has any effect: its notice meets another core's intent (R221), or a dead home. -/
def State.storeFault (s : State) (core ctx va key n : Nat) (priv : Option (Nat × Nat)) : Option LaneFault :=
  let new := s.newBytes core ctx va key n
  if priv.isSome || new == 0 then none
  else match s.conflict? core (lineOf key) new with
    | some i => some (mmeF va i)
    | none => s.hostFault va key

/-- A store into the L1 that no fault stops (R213, R220). -/
def State.storeL1 (s : State) (core ctx va key : Nat) (bs : List Byte) (priv : Option (Nat × Nat)) : State :=
  let vline := lineOf va
  let off := va % 128
  let mask := lineMask 0 off bs.length
  let cur := match s.cores[core]? with | some c => c.epoch | none => 0
  let tag : BitVec 2 := BitVec.ofNat 2 cur
  let new := s.newBytes core ctx va key bs.length
  let s := match s.l1Line? core ctx vline with
    | some l => if l.dirty && l.tag != tag && priv.isNone then s.publishLine l else s
    | none => s.makeRoom core
  let l : L1Line := match s.l1Line? core ctx vline with
    | some l => l
    | none =>
      -- a fresh private line is zeros, all of which a write-back stores
      let all : BitVec 128 := if s.privFresh priv vline then BitVec.allOnes 128 else 0
      ⟨core, ctx, vline, lineOf key, List.replicate 128 0, all, all, tag, priv, false⟩
  let s := s.l1Put { l with data := putBytes l.data off bs, valid := l.valid ||| mask, written := l.written ||| mask, tag }
  if new != 0 && priv.isNone then s.postIntent core ctx (lineOf key) new else s

/-- The issuing core's copy of a line written back and dropped, under every virtual address that holds it (R229). -/
def State.dropLine (s : State) (core line : Nat) : State :=
  let ls := s.l1.filter fun l => l.core == core && l.pline == line
  let s := ls.foldl State.publishLine s
  { s with l1 := s.l1.filter fun l => !(l.core == core && l.pline == line) }

/-- Whether a core's die is dead (R218, R379). -/
def State.coreDead (s : State) (core : Nat) : Bool := s.dieFenced (dieOf core)

/-- The fault of a write that the core makes at the L2 itself. -/
def State.writeFaultL2 (s : State) (core va key n : Nat) : Option LaneFault :=
  match s.conflict? core (lineOf key) (lineMask (lineOf key) key n) with
  | some i => some (mmeF va i)
  | none => s.hostFault va key

/-- Bytes that the core writes at the L2 itself leave its L1: no later write-back of older bytes overwrites them, and their notices
are over. The rest of its lines stays as it is (R215: no data is written back). -/
def State.coverBytes (s : State) (core line : Nat) (mask : BitVec 128) : State :=
  let mine : L1Line → Bool := fun l => l.core == core && l.pline == line
  let l1 := mapWhere mine (fun l => { l with valid := l.valid &&& ~~~ mask, written := l.written &&& ~~~ mask }) s.l1
  let intents := mapWhere (fun (i : Intent) => i.line == line && i.mine core) (fun i => { i with mask := i.mask &&& ~~~ mask }) s.intents
  { s with l1 := l1.filter fun l => !(mine l && l.valid == 0), intents := intents.filter fun i => i.mask != 0 }

/-- Bytes written by the hub in a line of host memory that its device cache owns (R229, R385). -/
def State.cacheWrite (s : State) (pa : Nat) (bs : List Byte) : State :=
  { s.homeWrite pa bs with hostCache := mapWhere (fun h => h.1 == lineOf (memKey s.hubid pa)) (fun h => (h.1, .m)) s.hostCache }

/-- The key of bytes at a physical address in coherent memory that this device's directory guards: its own, or the host's. -/
def State.guardedKey (s : State) (pa type : Nat) : Option Nat :=
  match placeOf s.hubid pa type with
  | .home key => some key
  | .peer a => if a = hostAgent then some (memKey s.hubid pa) else none
  | .hostIo => none

/-- The agent of a release record's core. -/
def RelRec.agent (r : RelRec) : Nat := match r.home with | some a => a | none => dieAgent (dieOf r.core)

/-- What an acquire's publications come to. -/
inductive AcqRes where
  | done
  | fault (f : LaneFault)
  /-- A peer's core is to publish: the acquire waits for its PUBLISH. -/
  | ask (r : RelRec)
deriving DecidableEq, Repr

/-- The publications that an acquire at scope die or wider asks for (R216), or REMOTE where a publisher is dead (R218).
A line keeps the latest unpublished record of each core, since several variables share it (log entry 12). -/
def State.acquirePublish (s : State) (core va line : Nat) : State × AcqRes :=
  let rs := s.recs.filter fun r => r.line == line && !r.published && (r.home.isSome || r.core != core)
  match rs.find? fun r => s.agentDead r.agent with
  | some r => (s, .fault ⟨9, 0x02, va, remoteInfo r.agent, 0⟩)
  | none =>
    let s := (rs.filter fun r => r.home.isNone).foldl (fun s r => s.publishUpTo r.core r.epoch) s
    (s, match rs.find? fun r => r.home.isSome with | some r => .ask r | none => .done)

/-- A PUBLISH to a peer's core, as an element of a request. -/
def RelRec.publishElem (r : RelRec) (va : Nat) : ReqElem :=
  reqElem (.peer r.agent) va (r.line * 128) 1 .publish (toBytes r.core 2 ++ toBytes r.epoch 4)

/-- A peer's records, and its notices here, that its PUBLISH has settled. -/
def State.peerPublished (s : State) (e : ReqElem) : State :=
  let core := fromBytes (e.data.take 2)
  let epoch := fromBytes (e.data.drop 2)
  { s with recs := mapWhere (fun r => r.home == some e.home && r.core == core && decide (r.epoch ≤ epoch))
             (fun r => { r with published := true }) s.recs
           intents := s.intents.filter fun i => !(i.home == some e.home && i.core == core && decide (i.epoch ≤ epoch)) }

/-- A release at scope die or wider performed on a line: its record, and the epoch closed (R215). -/
def State.releaseAt (s : State) (core ctx line : Nat) : State :=
  match s.cores[core]? with
  | none => s
  | some c =>
    let rest := s.recs.filter fun r => !(r.line == line && ((r.core == core && r.home.isNone) || r.published))
    let s : State := { s with recs := rest ++ [⟨line, core, none, ctx, c.epoch, false⟩] }
    s.closeEpoch core

end Sys2Proof.Machine
end

