-- ==== Sys2Proof/Machine/Requests.lean ====
section
/-! DEFINITION. The values that a late access brings to its lane: register widths, latches, the slate's bytes (R58, R236, R281),
and lanes that park with a fault after their instruction has issued (R329). -/

namespace Sys2Proof.Machine
open Sys2Proof

/-- A loaded value extended to its register by its type (R234, R236). -/
def extendLoad (ty v : Nat) : Nat :=
  match ty with
  | 3 => wrapInt (sext v 8) 32
  | 5 => wrapInt (sext v 16) 32
  | _ => v

/-- The bytes of a memory type (R234). -/
def memBytes (ty : Nat) : Nat :=
  match ty with
  | 1 => 8
  | 2 => 16
  | 3 => 1
  | 4 => 1
  | 5 => 2
  | 6 => 2
  | 0xA => 8
  | 0xB => 8
  | _ => 4

/-- The value that a load of some elements writes to D: element i in its registers (R236, R237). -/
def loadValue (ty : Nat) (es : List (List Byte)) : Nat :=
  let w := max 32 (8 * memBytes ty)
  packElems w (es.map fun bs => extendLoad ty (fromBytes bs))

/-- The latch places of a producer whose result is now there, or will never be (R58, R198). A latch that waits holds the
number of its producer: 0 for a request, else a tile command's number and one. -/
def Thread.produce (t : Thread) (who : Nat) (v : Option Nat) : Thread :=
  let f : Latch → Latch := fun l =>
    if l.pend && l.data == BitVec.ofNat 64 who then
      (match v with | some v => { l with data := BitVec.ofNat 64 v, pend := false } | none => Latch.none)
    else l
  { t with latches := t.latches.map f, keep := t.keep.map fun ls => ls.map f }

/-- The result of an outstanding instruction written to a lane's registers and its latch. -/
def Crew.lateResult (c : Crew) (who clk lane : Nat) (w : Fields) (width v : Nat) : Crew :=
  let v := v % 2 ^ width
  let c := if w.wbs then c else writeValue c clk lane w.d width v
  c.updThread lane fun t => t.produce who (some (v % 2 ^ 64))

/-- A latch place for a result that is not yet produced (R58). -/
def Crew.pushPending (c : Crew) (who lane : Nat) (w : Fields) : Crew :=
  if !w.wbs && w.d == 0xFF then c else c.updThread lane fun t => t.push who true

/-- Bytes as a block reads them: those that its slate holds stand before memory's (R281). -/
def Block.overlay (b : Block) (key : Nat) (bs : List Byte) : List Byte :=
  if b.body.slate.isEmpty then bs
  else bs.zipIdx.map fun p => match b.body.slate.find? fun c => c.1 == key + p.2 with | some c => c.2 | none => p.1

/-- Whether an instruction writes D. -/
def opLoads (op : Nat) : Bool := [0xA0, 0xA2, 0xA6, 0xA8].contains op

/-- The acquire that an instruction ends with, at scope die or wider: `lda`, and `atom` by its order. -/
def opAcquires (op : Nat) (w : Fields) : Bool :=
  (op == 0xA2 && decide (w.fn.toNat % 8 ≥ 3)) ||
  (op == 0xA8 && [1, 3, 4].contains (bitsOf w.c.toNat 3 3) && decide (w.c.toNat % 8 ≥ 3))

/-- Lanes that park with faults after their instruction has issued: they stand at the instruction again (R329). -/
def State.failLanes (s : State) (u ci pc next : Nat) (fs : List (Nat × LaneFault)) : State :=
  let ls := fs.map (·.1)
  let s := s.updCrew u ci fun c =>
    (fs.foldl (fun c p => c.updThread p.1 fun t => { t.park .replay with pc := BitVec.ofNat 64 pc }) c).leaveBundles ls
  s.takeFaults u ci pc next fs true false

end Sys2Proof.Machine
end

