-- ==== Sys2Proof/Machine/Line.lean ====
section
/-! DEFINITION. The line class 0xA0 to 0xAE (R229 to R244): loads, stores, gathers, atomics, reductions, fences, write-back
and code invalidation, over global, private and scratchpad memory. -/

namespace Sys2Proof.Machine
open Sys2Proof

/-! ### Addresses and translation (R235) -/

/-- One element of a lane's access, translated. -/
structure Elem where
  va : Nat
  n : Nat
  pa : Nat
  leaf : Leaf
deriving DecidableEq, Repr

/-- What an access of a lane comes to before it is performed. -/
inductive Plan where
  | fault (f : LaneFault)
  /-- Addresses for which no translation is at hand. -/
  | miss (vas : List Nat)
  | ready (es : List Elem)
deriving DecidableEq, Repr

/-- ALIGN and the range of a global address (R235, rows 1 and 2). -/
def checkGlobal (va n : Nat) : Option LaneFault :=
  if va % n ≠ 0 then some (alignF va (Nat.log2 n))
  else if va ≥ 2 ^ 53 then some (protF 0x01 va)
  else none

/-- The elements of a global access of one lane, or the first failing check. -/
def globalElems (vas : List Nat) (n : Nat) : Except LaneFault (List (Nat × Nat)) :=
  match vas.findSome? fun va => checkGlobal va n with
  | some f => .error f
  | none => .ok (vas.map fun va => (va, n))

/-- The address of a private offset (R323). -/
def privAddr (x : Ctx) (l o : Nat) : Nat :=
  let sh := x.b.sheet
  let g := x.gtid l
  if sh.pmode = 2 then sh.pbase + ((g / 32 * sh.priv / 4 + o / 4) * 32 + l) * 4 + o % 4
  else sh.pbase + g * sh.priv + o

/-- The elements of a private access (R235, R323): interleaved words lie 128 bytes apart. -/
def privElems (x : Ctx) (l o n : Nat) : Except LaneFault (List (Nat × Nat)) :=
  if o % n ≠ 0 then .error (alignF o (Nat.log2 n))
  else if x.b.sheet.pmode = 2 && decide (o + n > x.b.sheet.priv) then .error (protF 0x01 o)
  else
    let es := if x.b.sheet.pmode = 2 && decide (n > 4) then
        (List.range (n / 4)).map fun k => (privAddr x l (o + 4 * k), 4)
      else [(privAddr x l o, n)]
    if es.any fun e => decide (e.1 ≥ 2 ^ 53) then .error (protF 0x01 o) else .ok es

/-- The crew that a private line belongs to, where the mode is interleaved (R213). -/
def Ctx.privOwner (x : Ctx) : Option (Nat × Nat) := if x.b.sheet.pmode = 2 then some (x.uid, x.ci) else none

/-- A lane's access planned: every element translated (R350), or the first fault. -/
def Ctx.plan (x : Ctx) (acc : Access) (es : Except LaneFault (List (Nat × Nat))) : Plan :=
  match es with
  | .error f => .fault f
  | .ok es =>
    let rs := es.map fun e => (e, x.s0.translate x.b.core x.b.ctx e.1 (x.s0.shadowTag x.b e.1) acc)
    match rs.findSome? fun r => match r.2 with | .fault f => some (xlateF f r.1.1 acc) | _ => none with
    | some f => .fault f
    | none =>
      let miss := rs.filterMap fun r => match r.2 with | .miss => some r.1.1 | _ => none
      if miss.isEmpty then
        .ready (rs.filterMap fun r => match r.2 with | .ok pa leaf => some ⟨r.1.1, r.1.2, pa, leaf⟩ | _ => none)
      else .miss miss

/-- Whether a translated element of an access crosses the spoke link of a die (R6, R7): it leaves the die, or its line must come
from elsewhere, or a core of that die is to publish. -/
def Ctx.crosses (x : Ctx) (acc : Access) (e : Elem) (d : Nat) : Bool :=
  let die := dieOf x.b.core
  let key := memKey x.s0.hubid e.pa
  let line := lineOf key
  let atL2 := opAcquires x.op x.w || acc == .atomic
  let asks := opAcquires x.op x.w && x.s0.recs.any fun r => r.line == line && !r.published && r.home.isNone && dieOf r.core == d
  match placeOf x.s0.hubid e.pa e.leaf.type with
  | .hostIo => d == die
  | _ =>
    if acc == .read && !atL2 && x.s0.l1Hit x.b.core x.b.ctx e.va e.n then false
    else
      let away := outsideLine line && !x.s0.outHeld line (acc != .read)
      (d == die && (away || (acc == .atomic && (outsideLine line || x.w.c.toNat % 8 == 5)))) ||
        (!away && (asks || x.s0.crosses die line (acc != .read) d))

/-- An instruction that reaches memory by translated addresses: with a translation missing, or a spoke link that its transfers
cross not UP, it has issued and goes on later, and walks start and links wake (R351, R377); else each active lane acts in
ascending order (R236). -/
def memBody (acc : Access) (elems : Ctx → Nat → Except LaneFault (List (Nat × Nat)))
    (act : Ctx → State → Nat → List Elem → State × LaneRes) (x : Ctx) : BodyRes :=
  let plans := x.act.map fun l => (l, elems x l, x.plan acc (elems x l))
  let miss := plans.flatMap fun p => match p.2.2 with | .miss vas => vas | _ => []
  let asleep := x.s0.downSpokes.filter fun d => plans.any fun p => match p.2.2 with
    | .ready es => es.any fun e => x.crosses acc e d
    | _ => false
  if !miss.isEmpty then
    .hold (miss.foldl (fun s va => s.startWalk x.b.core x.b.ctx va (x.s0.shadowTag x.b va)) x.s0)
  else if !asleep.isEmpty then .hold (x.s0.wakeSpokes asleep)
  else
    let r := plans.foldl (fun (a : State × List (Nat × LaneRes)) p =>
      match p.2.2 with
      | .fault f => (a.1, a.2 ++ [(p.1, .fault f)])
      | .miss _ => a
      | .ready es =>
        let q := act x a.1 p.1 es
        (q.1, a.2 ++ [(p.1, q.2)])) (x.s0, [])
    let vas := plans.flatMap fun p => match p.2.1 with | .ok es => es.map (·.1) | .error _ => []
    .done (r.1.seeWalks x.b.core x.b.ctx vas) r.2

/-! ### Reading and writing one element -/

/-- The slate of a block as it stands. -/
def State.blockOr (s : State) (b : Block) : Block := (s.block? b.uid).getD b

/-- One element read: its bytes, a fault, or none where a home outside the device must answer. -/
def readElem (x : Ctx) (s : State) (priv : Option (Nat × Nat)) (e : Elem) :
    State × Except LaneFault (Option (List Byte)) :=
  let b := s.blockOr x.b
  let key := memKey s.hubid e.pa
  if (List.range e.n).all fun i => b.body.slate.any fun c => c.1 == key + i then
    (s, .ok (some (b.overlay key (List.replicate e.n 0))))
  else
    let p := placeOf s.hubid e.pa e.leaf.type
    let here := match p with
      | .home _ => true
      | .peer _ => s.l1Hit x.b.core x.b.ctx e.va e.n || s.outHeld (lineOf key) false
      | .hostIo => false
    if here then
      let r := s.loadL1 x.b.core x.b.ctx e.va key e.n priv
      match r.2 with
      | .error f => (r.1, .error f)
      | .ok bs => (r.1, .ok (some (b.overlay key bs)))
    else if s.agentDead p.agent then (s, .error (remoteF e.va p.agent))
    else (s, .ok none)

/-- The elements of a lane read in order, up to the first fault. -/
def readElems (x : Ctx) (s : State) (priv : Option (Nat × Nat)) (es : List Elem) :
    State × Except LaneFault (List (Elem × Option (List Byte))) :=
  es.foldl (fun a e => match a.2 with
    | .error f => (a.1, .error f)
    | .ok got => match readElem x a.1 priv e with
      | (s, .error f) => (s, .error f)
      | (s, .ok v) => (s, .ok (got ++ [(e, v)]))) (s, .ok [])

/-- What a load or a store asks of a home outside the device: a peer's line for the L2, or the bytes themselves. -/
def Place.asks (p : Place) (write : Bool) : ReqKind :=
  match p with
  | .hostIo => if write then .write else .read
  | _ => if write then .own else .fill

/-- An element of a request for what a home outside the device is to give or to take. -/
def Elem.ask (e : Elem) (s : State) (kind : Place → ReqKind) (data : List Byte) : ReqElem :=
  let p := placeOf s.hubid e.pa e.leaf.type
  reqElem p e.va e.pa e.n (kind p) data

/-- An element whose bytes are at hand. -/
def Elem.have_ (e : Elem) (s : State) (bs : List Byte) : ReqElem := { e.ask s (fun _ => .read) [] with answer := some bs }

/-- A store that waits for the rest of its instruction. -/
def Elem.hold (e : Elem) (s : State) (bs : List Byte) : ReqElem :=
  { e.ask s (fun _ => .held) bs with leaf := some e.leaf, answer := some [] }

/-- The request of a lane for elements: the lane stays at its instruction, and goes on at `next`. -/
def postLane (x : Ctx) (s : State) (l next : Nat) (es : List ReqElem) : State :=
  s.postReq (some (x.uid, x.ci, l)) none x.pc next x.op x.clk (laneMask x.act) x.w es

/-- The result of a load in one lane: written now, or when the answers are in. -/
def loadLane (x : Ctx) (s : State) (l : Nat) (vec : Bool) (got : List (Elem × Option (List Byte))) : State × LaneRes :=
  let ty := x.mod
  if got.all fun p => p.2.isSome then
    let bs := got.filterMap (·.2)
    let bs := if vec then bs else [bs.flatten]
    let width := max 32 (8 * memBytes ty) * bs.length
    (s.updCrew x.uid x.ci fun c => wrvOf c x.clk l x.w x.w.d width (loadValue ty bs) false, .next)
  else
    let s := s.updCrew x.uid x.ci fun c => c.pushPending 0 l x.w
    (postLane x s l (x.pc + x.len) (got.map fun p => match p.2 with
      | some bs => p.1.have_ s bs
      | none => p.1.ask s (·.asks false) []), .out)

/-- The room of a die's slate unit: 8 MiB less the bytes there that are not in their context's area (R282). -/
def State.slateFree (s : State) (die : Nat) : Nat :=
  8 * 2 ^ 20 -
    (s.blocks.foldl (fun a c => if c.die == die then a + (c.body.slate.length - c.body.slateOut.length) else a) 0 +
     s.slates.foldl (fun a c => if c.die == die then a + (c.cells.length - c.out.length) else a) 0)

/-- The room of a context's slate area. -/
def State.areaFree (s : State) (ctx : Nat) : Nat :=
  Config.slateArea ctx -
    (s.blocks.foldl (fun a c => if c.ctx == ctx then a + c.body.slateOut.length else a) 0 +
     s.slates.foldl (fun a c => if c.ctx == ctx then a + c.out.length else a) 0)

/-- The bytes of a store that a block's slate does not hold yet. -/
def Block.slateNew (b : Block) (key n : Nat) : List Nat :=
  ((List.range n).map (key + ·)).filter fun k => !b.body.slate.any fun c => c.1 == k

/-- Whether a store finds room (R282). -/
def State.slateRoom (s : State) (b : Block) (key n : Nat) : Bool :=
  let new := (b.slateNew key n).length
  decide (new ≤ s.slateFree b.die) || decide (new ≤ s.slateFree b.die + s.areaFree b.ctx)

/-- The bytes put into a list by place, whatever their value. -/
def putCell (m : List Host.Cell) (a : Nat) (v : Byte) : List Host.Cell := (a, v) :: m.filter fun c => c.1 != a

/-- A store into the block's slate (R281, R282): what the slate unit has no room for goes to the context's area. -/
def State.slateStore (s : State) (uid va key : Nat) (bs : List Byte) : State :=
  match s.block? uid with
  | none => s
  | some b =>
    let out := (b.slateNew key bs.length).drop (s.slateFree b.die)
    s.updBlock uid fun b => { b with body := { b.body with
      slate := bs.zipIdx.foldl (fun m p => putCell m (key + p.2) p.1) b.body.slate
      slateOut := b.body.slateOut ++ out
      slatePages := (va / 2 ^ 13 :: b.body.slatePages).eraseDups } }

/-- Whether a store goes to the slate: a global store of a deterministic launch (R281). -/
def Ctx.toSlate (x : Ctx) (global : Bool) : Bool := x.b.sheet.det && global

/-- Whether an element goes to a home outside the device: not where a die of this one holds a peer's line, or where the line's
notice holds the bytes already. -/
def leavesDevice (x : Ctx) (s : State) (global : Bool) (e : Elem) : Bool :=
  !x.toSlate global && (match placeOf s.hubid e.pa e.leaf.type with
    | .home _ => false
    | .peer _ =>
      let key := memKey s.hubid e.pa
      !s.outHeld (lineOf key) true && s.newBytes x.b.core x.b.ctx e.va key e.n != 0
    | .hostIo => true)

/-- The fault that stops a store before any of it is performed. -/
def writeFault (x : Ctx) (s : State) (priv : Option (Nat × Nat)) (global : Bool) (e : Elem) : Option LaneFault :=
  if x.toSlate global then (if s.slateRoom (s.blockOr x.b) (memKey s.hubid e.pa) e.n then none else some (protF 0x07 e.va))
  else match placeOf s.hubid e.pa e.leaf.type with
    | .home key => s.storeFault x.b.core x.b.ctx e.va key e.n priv
    | p => if leavesDevice x s global e && s.agentDead p.agent then some (remoteF e.va p.agent) else none

/-- One element written in the device. -/
def writeElem (x : Ctx) (s : State) (priv : Option (Nat × Nat)) (global : Bool) (e : Elem) (bs : List Byte) : State :=
  let s := s.setDirty e.leaf
  if x.toSlate global then s.slateStore x.uid e.va (memKey s.hubid e.pa) bs
  else s.storeL1 x.b.core x.b.ctx e.va (memKey s.hubid e.pa) bs priv

/-- Whether a lower lane of the instruction has stores that wait for its answers: those of the lanes above it wait too, so that they are
performed in ascending lane order (R236). -/
def Ctx.storesWait (x : Ctx) (s : State) : Bool :=
  s.reqs.any fun r => r.issuedAt x.uid x.ci x.pc x.clk && r.elems.any fun e => e.kind == .held

/-- A lane's store of bytes cut among its elements in order; the lane goes on at `next`. `global` is false for private memory. Where an
element leaves the device, none is performed before every one can be (R235). -/
def storeLane (x : Ctx) (s : State) (l next : Nat) (priv : Option (Nat × Nat)) (global : Bool) (es : List (Elem × List Byte)) :
    State × LaneRes :=
  let s := if x.toSlate global || priv.isSome then s else
    es.foldl (fun (s : State) p => s.recall (lineOf (memKey s.hubid p.1.pa)) true) s
  match es.findSome? fun p => writeFault x s priv global p.1 with
  | some f => (s, .fault f)
  | none =>
    let out := es.filter fun p => leavesDevice x s global p.1
    if out.isEmpty && (x.toSlate global || !x.storesWait s) then (es.foldl (fun s p => writeElem x s priv global p.1 p.2) s, .next)
    else
      let s := out.foldl (fun (s : State) p => s.setDirty p.1.leaf) s
      (postLane x s l next (es.map fun p => if leavesDevice x s global p.1 then p.1.ask s (·.asks true) p.2 else p.1.hold s p.2), .out)

/-- Bytes cut into pieces of the sizes of some elements. -/
def cutBytes (bs : List Byte) (es : List Elem) : List (Elem × List Byte) :=
  match es with
  | [] => []
  | e :: r => (e, bs.take e.n) :: cutBytes (bs.drop e.n) r

/-! ### Loads and stores -/

/-- The offset C as a signed 32-bit value (R235). -/
def Ctx.offset (x : Ctx) (l : Nat) : Int := sext (x.cv l 32) 32

/-- The global address of a lane (R235). -/
def Ctx.ea (x : Ctx) (l : Nat) : Nat := wrapInt ((x.a l 64 : Int) + x.offset l) 64

/-- A 32-bit offset of a lane in private or scratchpad memory (R235). -/
def Ctx.sa (x : Ctx) (l : Nat) : Nat := (x.a l 32 + x.cv l 32) % 2 ^ 32

/-- Whether `ld` and `st` name private memory (R233). -/
def Ctx.isPriv (x : Ctx) : Bool := x.fn == 1

/-- The elements of `ld` and `st`. -/
def ldElems (x : Ctx) (l : Nat) : Except LaneFault (List (Nat × Nat)) :=
  if x.isPriv then privElems x l (x.sa l) (memBytes x.mod) else globalElems [x.ea l] (memBytes x.mod)

/-- The crew of a private line that `ld` and `st` reach. -/
def Ctx.lineOwner (x : Ctx) : Option (Nat × Nat) := if x.isPriv then x.privOwner else none

/-- The sources of a load: A and C. -/
def readsAC : List ReadAs := eachLane [0, 2]

/-- One lane of `ld` (R236). -/
def ldLane (x : Ctx) (s : State) (l : Nat) (es : List Elem) : State × LaneRes :=
  match readElems x s x.lineOwner es with
  | (s, .error f) => (s, .fault f)
  | (s, .ok got) => loadLane x s l false got

/-- `ld` (R236). -/
def execLd (w : Fields) (s : State) := runLong 0xA0 none w s readsAC (memBody .read ldElems ldLane)

/-- The data of a store as its bytes (R236). -/
def Ctx.storeBytes (x : Ctx) (l : Nat) : List Byte :=
  let n := memBytes x.mod
  toBytes (x.bv l (8 * max 4 n)) n

/-- One lane of `st` (R236). -/
def stLane (x : Ctx) (s : State) (l : Nat) (es : List Elem) : State × LaneRes :=
  storeLane x s l (x.pc + x.len) x.lineOwner (!x.isPriv) (cutBytes (x.storeBytes l) es)

/-- `st` (R236). -/
def execSt (w : Fields) (s : State) := runLong 0xA1 none w s readsABC (memBody .write ldElems stLane)

/-- The scope of `lda` and `stl`. -/
def Ctx.scope (x : Ctx) : Nat := x.fn % 8

/-- The elements of `lda` and `stl`. -/
def ldaElems (x : Ctx) (l : Nat) : Except LaneFault (List (Nat × Nat)) := globalElems [x.ea l] (memBytes x.mod)

/-- The operation code of a request that is a PUBLISH for a lane's acquire. -/
def publishOp : Nat := 0x100

/-- A lane whose acquire waits for a peer's core to publish (R216): its PUBLISH is on its way, and it goes on later. -/
def askLane (x : Ctx) (s : State) (l va : Nat) (r : RelRec) : State × LaneRes :=
  let asked := s.reqs.any fun q => q.op == publishOp && q.owner == some (x.uid, x.ci, l)
  (if asked then s else
    s.postReq (some (x.uid, x.ci, l)) none x.pc (x.pc + x.len) publishOp x.clk (laneMask x.act) x.w [r.publishElem va], .again (.news s.news))

/-- An acquire load at scope die or wider: at the L2, after the publications it asks for (R216). The bytes that the core itself has
written and not published stand before the L2's (R226; DEDUCED, log entry 76); its DIRTY lines stay so (R213). -/
def acquireElem (x : Ctx) (s : State) (l : Nat) (e : Elem) (key : Nat) : State × Except LaneRes (List Byte) :=
  let s := s.recall (lineOf key) false
  match s.l2Fault x.b.core e.va key e.n with
  | some f => (s, .error (.fault f))
  | none =>
    match s.acquirePublish x.b.core e.va (lineOf key) with
    | (s, .fault f) => (s, .error (.fault f))
    | (s, .ask r) =>
      let q := askLane x s l e.va r
      (q.1, .error q.2)
    | (s, .done) =>
      let s := s.l2Read (dieOf x.b.core) (lineOf key)
      let bs := (s.blockOr x.b).overlay key (s.ownBytes x.b.core x.b.ctx e.va (readBytes s.mem key e.n))
      (s.acquireL1 x.b.core, .ok bs)

/-- One lane of `lda` (R216, R217, R236). -/
def ldaLane (x : Ctx) (s : State) (l : Nat) (es : List Elem) : State × LaneRes :=
  match es with
  | [e] =>
    let key := memKey s.hubid e.pa
    let p := placeOf s.hubid e.pa e.leaf.type
    let here := match p with | .home _ => true | .peer _ => s.outHeld (lineOf key) false | .hostIo => false
    if x.scope < 3 then
      match readElem x s none e with
      | (s, .error f) => (s, .fault f)
      | (s, .ok v) => loadLane x s l false [(e, v)]
    else if here then
      match acquireElem x s l e key with
      | (s, .error r) => (s, r)
      | (s, .ok bs) => loadLane x s l false [(e, some bs)]
    else if s.agentDead p.agent then (s, .fault (remoteF e.va p.agent))
    else loadLane x s l false [(e, none)]
  | _ => (s, .next)

/-- `lda` (R236). -/
def execLda (w : Fields) (s : State) := runLong 0xA2 none w s readsAC (memBody .read ldaElems ldaLane)

/-- A write of the core at the L2: the die takes the line, and the bytes leave the core's L1 (R212, R215). -/
def State.writeL2 (s : State) (core key : Nat) (bs : List Byte) : State :=
  let s := s.coverBytes core (lineOf key) (lineMask (lineOf key) key bs.length)
  if outsideLine (lineOf key) && !s.outHeld (lineOf key) true then s.postWrite key bs
  else
    let s := s.l2Own (dieOf core) (lineOf key)
    { s with mem := writeBytes s.mem key bs }

/-- What a release at sys scope publishes first: everything, where its variable lies in host memory (R216). -/
def State.releaseFirst (s : State) (core scope pa : Nat) : State :=
  if scope = 5 && bitAt pa 51 then
    match s.cores[core]? with
    | some c => s.publishUpTo core c.epoch
    | none => s
  else s

/-- One lane of `stl` (R215, R217, R236). On a page of non-coherent host memory no line holds a release record: the epoch is closed, no
record is left and nothing is published (DESIGN CHOICE, log entry 91). -/
def stlLane (x : Ctx) (s : State) (l : Nat) (es : List Elem) : State × LaneRes :=
  match es with
  | [e] =>
    if x.b.sheet.det || decide (x.scope < 3) then storeLane x s l (x.pc + x.len) none true [(e, x.storeBytes l)]
    else
      let key := memKey s.hubid e.pa
      let p := placeOf s.hubid e.pa e.leaf.type
      let here := match p with | .home _ => true | .peer _ => s.outHeld (lineOf key) true | .hostIo => false
      if here then
        let s := s.recall (lineOf key) true
        match s.writeFaultL2 x.b.core e.va key e.n with
        | some f => (s, .fault f)
        | none =>
          let s := (s.setDirty e.leaf).releaseFirst x.b.core x.scope e.pa
          ((s.writeL2 x.b.core key (x.storeBytes l)).releaseAt x.b.core x.b.ctx (lineOf key), .next)
      else if s.agentDead p.agent then (s, .fault (remoteF e.va p.agent))
      else
        let s := (s.setDirty e.leaf).releaseFirst x.b.core x.scope e.pa
        let s := match p with | .hostIo => s.closeEpoch x.b.core | _ => s
        (postLane x s l (x.pc + x.len) [e.ask s (·.asks true) (x.storeBytes l)], .out)
  | _ => (s, .next)

/-- `stl` (R236). -/
def execStl (w : Fields) (s : State) := runLong 0xA3 none w s readsABC <| memBody .write ldaElems stlLane

/-- The K elements of `ldv` and `stv` (R235, R237). -/
def ldvElems (x : Ctx) (l : Nat) : Except LaneFault (List (Nat × Nat)) :=
  let k := 2 ^ x.fn
  let n := memBytes x.mod
  let idx := unpackElems (x.bv l (32 * k)) 32 k
  globalElems (idx.map fun i => (x.a l 64 + i * n) % 2 ^ 64) n

/-- One lane of `ldv` (R237). -/
def ldvLane (x : Ctx) (s : State) (l : Nat) (es : List Elem) : State × LaneRes :=
  match readElems x s none es with
  | (s, .error f) => (s, .fault f)
  | (s, .ok got) => loadLane x s l true got

/-- `ldv` (R237). -/
def execLdv (w : Fields) (s : State) := runLong 0xA6 none w s readsAB (memBody .read ldvElems ldvLane)

/-- One lane of `stv` (R237). -/
def stvLane (x : Ctx) (s : State) (l : Nat) (es : List Elem) : State × LaneRes :=
  let n := memBytes x.mod
  storeLane x s l (x.pc + x.len) none true (cutBytes (toBytes (x.cv l (8 * n * 2 ^ x.fn)) (n * 2 ^ x.fn)) es)

/-- `stv` (R237). -/
def execStv (w : Fields) (s : State) := runLong 0xA7 none w s readsABC (memBody .write ldvElems stvLane)

/-! ### Scratchpad (R210, R235, R256) -/

/-- The scratchpad bytes of a block. -/
def State.scratchRead (s : State) (uid sa n : Nat) : List Byte :=
  match s.block? uid with | some b => readBytes b.body.scratch sa n | none => List.replicate n 0

def State.scratchWrite (s : State) (uid sa : Nat) (bs : List Byte) : State :=
  s.updBlock uid fun b => { b with body := { b.body with scratch := writeBytes b.body.scratch sa bs } }

/-- The copy of the range scoreboard that a scratchpad access waits for (R256). -/
def State.rangeWait (s : State) (uid sa n : Nat) (write : Bool) : Option Nat :=
  (s.copies.find? fun c => c.uid == uid && (match c.range with
    | some (lo, len, wr) => decide (lo < sa + n) && decide (sa < lo + len) && (wr || write)
    | none => false)).map (·.id)

/-- ALIGN and the range of a scratchpad access (R235). -/
def Ctx.checkScratch (x : Ctx) (sa n align : Nat) : Option LaneFault :=
  if sa % align ≠ 0 then some (alignF sa (Nat.log2 align))
  else if sa + n > x.b.sheet.scratch then some (protF 0x01 sa)
  else none

/-- Whether a scratchpad access overlaps an earlier one of its crew that still waits for the scoreboard: it keeps its place
behind that (R126, R227). -/
def State.lateClash (s : State) (uid ci sa n : Nat) : Bool :=
  match s.block? uid with
  | none => false
  | some b => b.late.any fun k => k.ci == ci && decide (k.sa < sa + n) && decide (sa < k.sa + k.n)

/-- Whether bytes of a block's scratchpad lie in a line marked uncorrectable (R393). -/
def Block.scratchBad (b : Block) (sa n : Nat) : Bool := b.body.bad.any fun k => (linesOf sa n).contains k

/-- The same for the block of an issuing bundle. -/
def Ctx.badScratch (x : Ctx) (s : State) (sa n : Nat) : Bool := (s.blockOr x.b).scratchBad sa n

/-- What stops a read of scratchpad by an instruction that goes on with what it reads (a descriptor, a table, a sweep): its
checks, an uncorrectable line, or a copy of the scoreboard, after which the lane goes on (R235, R256, R393). -/
def scratchHold (x : Ctx) (s : State) (sa n align : Nat) (act : State → State × LaneRes) : State × LaneRes :=
  match x.checkScratch sa n align with
  | some f => (s, .fault f)
  | none =>
    if x.badScratch s sa n then (s, .fault (poisonF sa))
    else match s.rangeWait x.uid sa n false with
    | some id => (s, .again (.range id))
    | none => act s

/-- One lane's scratchpad access (R235, R256): its checks; then what it does, now or when the scoreboard lets it. The lane
goes on in either case; `b` and `d` are the operands that a waiting access keeps. -/
def scratchLane (x : Ctx) (s : State) (l sa n align : Nat) (write : Bool) (b d : Nat) (act : State → State × LaneRes) :
    State × LaneRes :=
  match x.checkScratch sa n align with
  | some f => (s, .fault f)
  | none =>
    if (!write || x.op == 0xA8 || x.op == 0xA9) && x.badScratch s sa n then (s, .fault (poisonF sa))
    else if (s.rangeWait x.uid sa n write).isSome || s.lateClash x.uid x.ci sa n then
      let (id, s) := s.fresh
      let s := s.updBlock x.uid fun k => { k with late := k.late ++ [⟨id, x.ci, l, x.op, x.w, sa, n, b, d⟩] }
      (if x.op = 0xA4 ∨ x.op = 0xA8 then s.updCrew x.uid x.ci fun c => c.pushPending (id + 1) l x.w else s, .next)
    else act s

/-- A body whose active lanes act on the state one after another (R236). -/
def laneBody (act : Ctx → State → Nat → State × LaneRes) (x : Ctx) : BodyRes :=
  let r := x.act.foldl (fun (a : State × List (Nat × LaneRes)) l =>
    let q := act x a.1 l
    (q.1, a.2 ++ [(l, q.2)])) (x.s0, [])
  .done r.1 r.2

/-- `lds` (R236). -/
def execLds (w : Fields) (s : State) := runLong 0xA4 none w s readsAC <| laneBody fun x s l =>
  let n := memBytes x.mod
  scratchLane x s l (x.sa l) n n false 0 0 fun s =>
    (s.updCrew x.uid x.ci fun c => wrvOf c x.clk l x.w x.w.d (max 32 (8 * n))
      (loadValue x.mod [s.scratchRead x.uid (x.sa l) n]) false, .next)

/-- `sts` (R236). -/
def execSts (w : Fields) (s : State) := runLong 0xA5 none w s readsABC <| laneBody fun x s l =>
  let n := memBytes x.mod
  scratchLane x s l (x.sa l) n n true (fromBytes (x.storeBytes l)) 0 fun s =>
    (s.scratchWrite x.uid (x.sa l) (x.storeBytes l), .next)

/-! ### Atomics and reductions (R229 to R232, R238, R239) -/

/-- The semantics code of `atom` and `red` (R238). -/
def Ctx.sem (x : Ctx) : Nat := x.w.c.toNat
def Ctx.inScratch (x : Ctx) : Bool := bitAt x.sem 7
def Ctx.staged (x : Ctx) : Bool := bitAt x.sem 6
def Ctx.order (x : Ctx) : Nat := bitsOf x.sem 3 3
def Ctx.atomScope (x : Ctx) : Nat := bitsOf x.sem 0 3
def Ctx.acquires (x : Ctx) : Bool := [1, 3, 4].contains x.order
def Ctx.releases (x : Ctx) : Bool := [2, 3, 4].contains x.order

/-- The new value and the flags of an operation on a type (R238). -/
def rmwValue (fn ty old b d : Nat) : Nat × Nat :=
  let n := 8 * memBytes ty
  let less : Bool := if ty = 8 ∨ ty = 0xA then decide (sext old n ≤ sext b n) else decide (old ≤ b)
  match fn with
  | 0 => ((old + b) % 2 ^ n, 0)
  | 1 => (if less then old else b, 0)
  | 2 => (if less then b else old, 0)
  | 3 => (old &&& b, 0)
  | 4 => (old ||| b, 0)
  | 5 => (old ^^^ b, 0)
  | 6 => (b, 0)
  | 7 => (if old = d then b else old, 0)
  | _ => fAdd fp32 (Rm.ofCode 0 0) (fp32.decode old) (fp32.decode b)

/-- The address of an atomic's lane. -/
def Ctx.atomAddr (x : Ctx) (l : Nat) : Nat := if x.inScratch then x.a l 32 else x.a l 64

/-- The operation of a lane on the bytes at its address: new bytes, old value and flags. -/
def Ctx.rmw (x : Ctx) (l : Nat) (old : List Byte) : List Byte × Nat × Nat :=
  let n := memBytes x.mod
  let w := 8 * n
  let o := fromBytes old
  let r := rmwValue x.fn x.mod o (x.bv l w) (if x.op = 0xA8 then x.rd l x.w.d w else 0)
  (toBytes r.1 n, o, r.2)

/-- The result of an atomic in its lane: the old value in D for `atom`, the flags of `fadd`. -/
def atomResult (x : Ctx) (s : State) (l old flags : Nat) : State :=
  s.updCrew x.uid x.ci fun c =>
    let c := if x.op = 0xA8 then wrvOf c x.clk l x.w x.w.d (8 * memBytes x.mod) old false else c
    c.setFlags flags

/-- An atomic in the L1 at a scope within the core: bytes written without a notice and for no epoch (R229). -/
def State.atomL1 (s : State) (core ctx va : Nat) (bs : List Byte) : State :=
  match s.l1Line? core ctx (lineOf va) with
  | none => s
  | some l =>
    let mask := lineMask 0 (va % 128) bs.length
    let cur := match s.cores[core]? with | some c => c.epoch | none => 0
    s.l1Put { l with data := putBytes l.data (va % 128) bs, valid := l.valid ||| mask, written := l.written ||| mask,
                     tag := if l.dirty then l.tag else BitVec.ofNat 2 cur }

/-- Whether an atomic is one that PCI Express carries (R232). -/
def pcieAtomic (op fn ty scope : Nat) : Bool :=
  op == 0xA8 && scope == 5 && (fn == 0 || (fn == 6 && decide (ty ≤ 1)) || fn == 7)

/-- A global atomic of one lane on coherent memory (R215, R216, R229). -/
def atomHome (x : Ctx) (s : State) (l : Nat) (e : Elem) (key : Nat) : State × LaneRes :=
  let core := x.b.core
  if x.atomScope ≤ 2 then
    match s.loadL1 core x.b.ctx e.va key e.n none with
    | (s, .error f) => (s, .fault f)
    | (s, .ok old) =>
      let r := x.rmw l old
      (atomResult x ((s.setDirty e.leaf).atomL1 core x.b.ctx e.va r.1) l r.2.1 r.2.2, .next)
  else
    let s := (s.dropLine core (lineOf key)).recall (lineOf key) true
    match s.l2Fault core e.va key e.n with
    | some f => (s, .fault f)
    | none =>
      match (if x.acquires then s.acquirePublish core e.va (lineOf key) else (s, .done)) with
      | (s, .fault f) => (s, .fault f)
      | (s, .ask r) => askLane x s l e.va r
      | (s, .done) =>
        let s := s.setDirty e.leaf
        let s := if x.releases then s.releaseFirst core x.atomScope e.pa else s
        let r := x.rmw l (readBytes s.mem key e.n)
        let s : State :=
          if x.atomScope = 5 || bitAt e.pa 51 then
            s.cacheWrite e.pa r.1
          else
            let s := s.l2Own (dieOf core) (lineOf key)
            { s with mem := writeBytes s.mem key r.1 }
        let s := if x.acquires then s.acquireL1 core else s.hear core e.va (lineOf key)
        let s := if x.releases then s.releaseAt core x.b.ctx (lineOf key) else s
        (atomResult x s l r.2.1 r.2.2, .next)

/-- A global atomic of one lane on coherent host memory (R229): within the core where the scope is, else at the hub, which first takes
ownership of the line over CXL.cache. -/
def atomHost (x : Ctx) (s : State) (l : Nat) (e : Elem) (key : Nat) : State × LaneRes :=
  let inCore := decide (x.atomScope ≤ 2)
  if inCore && s.l1Hit x.b.core x.b.ctx e.va e.n then atomHome x s l e key
  else match s.bringLine (if inCore then dieOf x.b.core else hubDie) x.uid (lineOf key) (!inCore) with
    | (s, .here) => atomHome x s l e key
    | (s, .wait) => (s, .again (.news s.news))
    | (s, .remote a) => (s, .fault (remoteF e.va a))

/-- A global atomic of one lane. -/
def atomLane (x : Ctx) (s : State) (l : Nat) (es : List Elem) : State × LaneRes :=
  match es with
  | [e] =>
    match placeOf s.hubid e.pa e.leaf.type with
    | .home key => atomHome x s l e key
    | p =>
      let ok := match p with | .hostIo => pcieAtomic x.op x.fn x.mod x.atomScope | _ => x.atomScope == 5
      if p = .peer hostAgent then atomHost x s l e (memKey s.hubid e.pa)
      else if !ok then (s, .fault (protF 0x03 e.va))
      else if s.agentDead p.agent then (s, .fault (remoteF e.va p.agent))
      else
        let line := lineOf (memKey s.hubid e.pa)
        let s := s.dropLine x.b.core line
        -- the peer takes the line: what this device holds of it goes back first
        let s := (s.l2.filter fun k => k.line == line).foldl State.l2Evict s
        let s := s.setDirty e.leaf
        let s := if x.releases then (s.releaseFirst x.b.core x.atomScope e.pa).closeEpoch x.b.core else s
        let s := if x.op = 0xA8 then s.updCrew x.uid x.ci fun c => c.pushPending 0 l x.w else s
        -- the operands of the operation: B, and for `atom` D, which `cas` compares
        let data := toBytes (x.bv l (8 * e.n)) e.n ++ (if x.op = 0xA8 then toBytes (x.rd l x.w.d (8 * e.n)) e.n else [])
        (postLane x s l (x.pc + x.len) [e.ask s (fun _ => .write) data], if x.op = 0xA8 then .out else .next)
  | _ => (s, .next)

/-- An atomic of one lane in scratchpad (R229). -/
def atomScratch (x : Ctx) (s : State) (l : Nat) : State × LaneRes :=
  let n := memBytes x.mod
  scratchLane x s l (x.atomAddr l) n n true (x.bv l (8 * n)) (if x.op = 0xA8 then x.rd l x.w.d (8 * n) else 0) fun s =>
    let r := x.rmw l (s.scratchRead x.uid (x.atomAddr l) n)
    (atomResult x (s.scratchWrite x.uid (x.atomAddr l) r.1) l r.2.1 r.2.2, .next)

/-- A scratchpad access that the scoreboard has let go performed: bytes, result, flags (R229, R236, R256). -/
def State.performLate (s : State) (b : Block) (k : LateOp) : State :=
  let clk := s.clockOf b.core
  let width := max 32 (8 * k.n)
  let old := s.scratchRead b.uid k.sa k.n
  if k.op = 0xA4 then s.updCrew b.uid k.ci fun c => c.lateResult (k.id + 1) clk k.lane k.w width (loadValue k.w.mod.toNat [old])
  else if k.op = 0xA5 then s.scratchWrite b.uid k.sa (toBytes k.b k.n)
  else
    let r := rmwValue k.w.fn.toNat k.w.mod.toNat (fromBytes old) k.b k.d
    (s.scratchWrite b.uid k.sa (toBytes r.1 k.n)).updCrew b.uid k.ci fun c =>
      let c := if k.op = 0xA8 then c.lateResult (k.id + 1) clk k.lane k.w width (fromBytes old) else c
      (c.inCycle clk).setFlags r.2

/-- The waiting scratchpad accesses of a block taken in issue order: each that no copy issued before it, and no earlier
access of its crew to the same bytes, still holds back (R256). -/
def State.settleLate (s : State) (uid : Nat) : State :=
  match s.block? uid with
  | none => s
  | some b =>
    b.late.foldl (fun (s : State) k =>
      let held := s.copies.any fun c => c.uid == uid && decide (c.id < k.id) && (match c.range with
        | some (lo, len, wr) => decide (lo < k.sa + k.n) && decide (k.sa < lo + len) && (wr || k.op != 0xA4)
        | none => false)
      let before := match s.block? uid with
        | some b => b.late.any fun j => j.ci == k.ci && decide (j.id < k.id) && decide (j.sa < k.sa + k.n) && decide (k.sa < j.sa + j.n)
        | none => true
      if held || before then s
      else (s.performLate b k).updBlock uid fun b => { b with late := b.late.filter fun j => j.id != k.id }) s

/-- A fault of every active lane, with its address (R278, R281). -/
def refuseAll (f : Nat → LaneFault) (x : Ctx) : BodyRes := .done x.s0 (x.act.map fun l => (l, .fault (f l)))

/-- What `atom` and `red` do outside staging: refused in a deterministic launch and in a region (R238, R278). -/
def atomBody (x : Ctx) : BodyRes :=
  if x.inScratch then laneBody atomScratch x
  else if x.b.sheet.det then refuseAll (fun l => ⟨0x0C, 0, x.atomAddr l, 0, 0⟩) x
  else if x.b.inside then refuseAll (fun l => protF 0x06 (x.atomAddr l)) x
  else memBody .atomic (fun x l => globalElems [x.atomAddr l] (memBytes x.mod)) atomLane x

/-- `atom` (R238). D is also a source: the expected value of `cas`. -/
def execAtom (w : Fields) (s : State) := runLong 0xA8 none w s readsAB atomBody

/-- Whether two staged values go to one slot (R260). -/
def StageSlot.same (t v : StageSlot) : Bool :=
  t.ctx == v.ctx && t.elem == v.elem && t.fn == v.fn && t.ty == v.ty && t.src == v.src

/-- A value folded into a staging slot (R260): the slots, and the flags of the fold. -/
def foldStage (slots : List StageSlot) (v : StageSlot) : List StageSlot × Nat :=
  match slots.find? (·.same v) with
  | none => (slots ++ [v], 0)
  | some t =>
    let r := rmwValue v.fn v.ty t.val v.val 0
    (mapWhere (·.same v) (fun t => { t with val := r.1 }) slots, r.2)

/-- A staging write of a crew of a block: held with the region while the block is IN (R278), else folded into its slot. -/
def State.stageWrite (s : State) (b : Block) (ci : Nat) (v : StageSlot) : State × Nat :=
  if b.inside then (s.updBlock b.uid fun b => { b with heldStage := b.heldStage ++ [(ci, v)] }, 0)
  else
    let r := foldStage s.stage v
    ({ s with stage := r.1 }, r.2)

/-- Whether the staging memory takes a value (R260): it has a slot for it, or room for one more of the context; the slots that
regions hold back count. -/
def State.stageRoom (s : State) (v : StageSlot) : Bool :=
  let held := (s.blocks.filter fun b => b.ctx == v.ctx).flatMap fun b => b.heldStage.map (·.2)
  let slots := held.foldl (fun a v => (foldStage a v).1) s.stage
  slots.any (·.same v) || decide ((slots.filter fun t => t.ctx == v.ctx).length < Config.stageRoom v.ctx)

/-- `red.stage` of one lane (R239, R260). -/
def stageLane (x : Ctx) (s : State) (l : Nat) : State × LaneRes :=
  let n := memBytes x.mod
  let a := x.atomAddr l
  match checkGlobal a n with
  | some f => (s, .fault f)
  | none =>
    let v : StageSlot := ⟨x.b.ctx, a, x.fn, x.mod, x.b.lin, x.bv l (8 * n)⟩
    -- behind the lane's earlier `cpyr` copies: for one lane the order is program order
    match s.copies.find? fun c => c.uid == x.uid && c.ci == x.ci && c.lane == l && c.op == 0xC3 with
    | some c => (s, .again (.range c.id))
    | none =>
      if !s.stageRoom v then (s, .fault (protF 0x07 a))
      else
        let r := s.stageWrite x.b x.ci v
        (r.1.updCrew x.uid x.ci fun c => c.setFlags r.2, .next)

/-- `red` (R239). -/
def execRed (w : Fields) (s : State) := runLong 0xA9 none w s readsAB fun x =>
  if x.staged then laneBody stageLane x else atomBody x

/-! ### Fences, write-back and code (R240 to R244) -/

/-- A fence's order and scope on the core's L1 (R216, R240). -/
def State.fenceAt (s : State) (core order scope : Nat) : State :=
  if scope < 3 then s
  else
    let s := if [2, 3, 4].contains order then s.publishAll core else s
    if [1, 3, 4].contains order then s.acquireL1 core else s

/-- The publications that an acquire fence asks for: a load that has read a value of a release, followed by the fence, is an acquire
(R225), and publishes as one (R216, R222). Every line with an unpublished record that a lane of the core has read at the L2 since the
core's last acquire fence counts, not the fencing lane's alone (DESIGN CHOICE, log entry 92). -/
def State.fencePublish (s : State) (core : Nat) : State × Nat × AcqRes :=
  let hs := match s.cores[core]? with | some c => c.heard | none => []
  hs.foldl (fun (a : State × Nat × AcqRes) h => match a.2.2 with
    | .done =>
      let r := a.1.acquirePublish core h.2 h.1
      (r.1, h.2, r.2)
    | _ => a) (s, 0, .done)

/-- The spoke links not UP that a fence's publications cross (R6, R218, R377): those of the core's own dirty lines, and those of the
cores that it asks to publish. -/
def State.publishDown (s : State) (core : Nat) (releases acquires : Bool) : List Nat :=
  s.downSpokes.filter fun d =>
    (releases && s.l1.any fun l => l.core == core && l.dirty && l.priv.isNone && s.crosses (dieOf core) l.pline true d) ||
    (acquires && (match s.cores[core]? with
      | some c => c.heard.any fun h => s.recs.any fun r => r.line == h.1 && !r.published && r.home.isNone && dieOf r.core == d
      | none => false))

/-- `fence` (R240, R363). -/
def execFence (w : Fields) (s : State) := runLong 0xAA none w s [] fun x =>
  let down := x.s0.publishDown x.b.core ([2, 3, 4].contains x.mod) ([1, 3, 4].contains x.mod)
  if x.act.isEmpty then .done x.s0 []
  else if x.fn < 3 then .done x.s0 []
  else if !down.isEmpty then .hold (x.s0.wakeSpokes down)
  else
    let p := if [1, 3, 4].contains x.mod then x.s0.fencePublish x.b.core else (x.s0, 0, .done)
    match p.2.2 with
    | .fault f => .done p.1 (x.act.map fun l => (l, .fault f))
    | .ask r =>
      let q := askLane x p.1 x.low p.2.1 r
      .done q.1 (x.act.map fun l => (l, q.2))
    | .done =>
      let s := if [1, 3, 4].contains x.mod then p.1.updCore x.b.core fun c => { c with heard := [] } else p.1
      .done ((s.fenceAt x.b.core x.mod x.fn).flushDailies x.uid x.ci) []

/-- Whether a line holds a byte of a range. -/
def lineInRange (vline lo n : Nat) : Bool := decide (vline * 128 < lo + n) && decide (lo < vline * 128 + 128) && decide (0 < n)

/-- The lines of a lane's `wback` or `icinv`. -/
def Ctx.names (x : Ctx) (l vline : Nat) : Bool := x.fn == 1 || lineInRange vline (x.a l 64) (x.bv l 32)

/-- The dirty lines that a lane's `wback` names. Private lines are written back only on eviction and save (R213). -/
def Ctx.wbackLines (x : Ctx) (s : State) (l : Nat) : List L1Line :=
  s.l1.filter fun k => k.core == x.b.core && k.ctx == x.b.ctx && k.dirty && k.priv.isNone && x.names l k.vline

/-- `wback` (R241): it waits for the spoke links that its lines cross (R6). -/
def execWback (w : Fields) (s : State) := runLong 0xAB none w s readsAB fun x =>
  let down := x.s0.downSpokes.filter fun d => x.act.any fun l => (x.wbackLines x.s0 l).any fun k =>
    x.s0.crosses (dieOf x.b.core) k.pline true d
  if !down.isEmpty then .hold (x.s0.wakeSpokes down)
  else laneBody (fun x s l => ((x.wbackLines s l).foldl State.publishLine s, .next)) x

/-- Lines of the instruction buffers marked stale, and with them the lanes whose last instruction came from one of them
and whose PC is still inside (R111, R242). -/
def State.markStale (s : State) (ctx : Nat) (p : Nat → Bool) : State :=
  let hit := s.ib.filter fun l => l.ctx == ctx && p l.vline
  let mark : Thread → Thread := fun t =>
    match hit.find? fun l => t.lastIb.contains l.id && l.vline == lineOf t.pc.toNat with
    | some l => { t with stale := some l.id }
    | none => t
  let ib := mapWhere (fun (l : IbLine) => l.ctx == ctx && p l.vline) (fun l => { l with stale := true }) s.ib
  let blocks := mapWhere (fun (b : Block) => b.ctx == ctx)
    (fun b => { b with body := { b.body with crews := b.body.crews.map fun c => { c with threads := c.threads.map mark } } })
    s.blocks
  { s with ib, blocks }

/-- `icinv` (R242). -/
def execIcinv (w : Fields) (s : State) := runLong 0xAC none w s readsAB <| laneBody fun x s l =>
  (s.markStale x.b.ctx (x.names l), .next)

/-- `fetchb` (R243). -/
def execFetchb (w : Fields) (s : State) := runLong 0xAD none w s [] <| laneBody fun x s l =>
  (s.updThread x.uid x.ci l fun t => { t with stale := none, lastIb := [] }, .next)

/-- `pref` (R244): no architectural state changes and no fault but ILL is raised. -/
def execPref (w : Fields) (s : State) := runLong 0xAE none w s [] fun x => .done x.s0 []

/-! ### Calls (R115) -/

/-- The private bytes of the return-stack entry at a depth. -/
def stackElems (x : Ctx) (l depth : Nat) : Except LaneFault (List (Nat × Nat)) := privElems x l (8 * depth) 8

/-- A call: the return address stored at the entry, the depth increased, the branch taken. A full return stack is found before a
misaligned target: R114 and R115 give no order (DESIGN CHOICE, log entry 90). -/
def callBody (target : Ctx → Nat → Nat) (x : Ctx) : BodyRes :=
  memBody .write (fun x l =>
      if (x.t l).depth ≥ 32 then .error (protF 0x01 0)
      else if target x l % 4 ≠ 0 then .error (alignF (target x l) 2)
      else stackElems x l (x.t l).depth)
    (fun x s l es =>
      match storeLane x s l (target x l) x.privOwner false (cutBytes (toBytes (x.pc + x.len) 8) es) with
      | (s, .next) =>
        (s.updThread x.uid x.ci l fun t => { t with depth := t.depth + 1 }, .jump (target x l))
      | r => r) x

def execCall (w : Fields) (s : State) := runLong 0x23 none w s readsA (callBody fun x l =>
  wrapInt ((x.pc : Int) + sext (x.a l 32) 32) 64)
def execCallx (w : Fields) (s : State) := runLong 0x24 none w s readsA (callBody fun x l => x.a l 64)

/-- The return-stack entry that `ret` reads; none at depth 1 of a custom director's routine (R115, R318). -/
def retElems (x : Ctx) (l : Nat) : Except LaneFault (List (Nat × Nat)) :=
  if x.b.isDirector && (x.t l).depth == 1 then .ok []
  else if (x.t l).depth = 0 then .error (protF 0x01 0)
  else stackElems x l ((x.t l).depth - 1)

/-- One lane of `ret` (R115): the entry may lie outside the device; the lane then waits for it. At depth 1
a custom director's routine returns to the stock director (R318). -/
def retLane (x : Ctx) (s : State) (l : Nat) (es : List Elem) : State × LaneRes :=
  if es.isEmpty then (s, .exit)
  else match readElems x s x.privOwner es with
  | (s, .error f) => (s, .fault f)
  | (s, .ok got) =>
    if got.all fun p => p.2.isSome then
      let v := fromBytes ((got.filterMap (·.2)).flatten)
      if v % 4 = 0 then (s.updThread x.uid x.ci l fun t => { t with depth := t.depth - 1 }, .jump v)
      else (s, .fault (alignF v 2))
    else (postLane x s l x.pc (got.map fun p => match p.2 with
      | some bs => p.1.have_ s bs
      | none => p.1.ask s (·.asks false) []), .out)

/-- `ret` (R115). -/
def execRet (w : Fields) (s : State) := runLong 0x25 none w s [] (memBody .read retElems retLane)

end Sys2Proof.Machine
end

