-- ==== Sys2Proof/Machine/Page.lean ====
section
/-! DEFINITION. Pages: walks and invalidations (R350 to R353), experts (R358 to R362), the dailies (R363, R364), and the
filling of the instruction buffers (R104, R110, R111). -/

namespace Sys2Proof.Machine
open Sys2Proof

/-! ### Walks (R351) -/

/-- The leaf that a walk caches for a launch tag: a take-shadow page's shadow frame where the tag is set (R365). -/
def State.taggedLeaf (s : State) (l : Leaf) (tag : Option Nat) : Except XFault (Leaf × Option Nat) :=
  if l.type = 2 && tag.isSome then
    match shadowFrame s.mem s.hubid l with
    | .ok f => .ok ({ l with frame := f }, tag)
    | .error e => .error e
  else .ok (l, none)

/-- The outcome of a walk kept for the cores that wait for it. -/
def State.endWalk (s : State) (id : Nat) (f : Option XFault) (l : Option Leaf) : State :=
  { s with walks := mapWhere (fun w => w.id == id) (fun w => { w with done := true, fault := f, leaf := l }) s.walks }

/-- What a walk whose reads are made comes to (R350): its leaf enters the TLBs that wait, or its waiters learn the fault. Entries of
TYPE 3 and of experts that are not RESIDENT are not cached (R351, R360). -/
def State.completeWalk (s : State) (w : Walk) : State :=
  match s.ctxs[w.ctx]? with
  | none => s
  | some c =>
    let va := w.vpage * 2 ^ 13
    match walkTables s.mem s.hubid c.root va with
    | .error e => s.endWalk w.id (some e) none
    | .ok l =>
      if l.type = 3 then s.endWalk w.id (some (pageFault 0x03)) none
      else if l.type = 1 && !s.expertResident w.ctx l.exid then s.endWalk w.id none (some l)
      else match s.taggedLeaf l w.tag with
        | .error e => s.endWalk w.id (some e) none
        | .ok (l, tag) =>
          let s : State := { s with walks := s.walks.filter fun x => x.id != w.id }
          let places := ((w.waiters.map fun c => TlbAt.die (dieOf c)) ++ w.waiters.map TlbAt.core).eraseDups
          places.foldl (fun s p => s.tlbFill (l.entry p w.ctx va tag)) s

/-- TLB_WALK_COMPLETE (R350, R351): a walk finishes, once the lines of its path are at hand and have been read. One that meets a dead
agent ends with REMOTE (R380). -/
def execTlbWalkComplete (id : Nat) (s : State) : Host.Outcome State Fault Refusal :=
  match s.walks.find? fun w => w.id == id && !w.done with
  | none => .next s
  | some w =>
    let who := walkReader id
    match s.walkFor w.die who w.ctx (w.vpage * 2 ^ 13) w.tag.isSome with
    | (s, .here) => .next ((s.completeWalk w).endBring w.die who)
    | (s, .wait) => .next s
    | (s, .remote a) => .next ((s.endWalk id (some (9, a)) none).endBring w.die who)

/-! ### Invalidation (R353) -/

/-- Whether two ranges share an address. -/
def rangesMeet (a n b m : Nat) : Bool := decide (a < b + m) && decide (b < a + n)

/-- The L1 lines of a context in a range, written back if dirty and dropped: the unmap row of R213. -/
def State.unmapL1 (s : State) (ctx lo n : Nat) : State :=
  (s.l1.filter fun l => l.ctx == ctx && rangesMeet (l.vline * 128) 128 lo n).foldl State.evictL1 s

/-- The cached translations of a context in a range removed, with the outcomes of ended walks. -/
def State.dropTranslations (s : State) (ctx lo n : Nat) : State :=
  { s with
    tlb := s.tlb.filter fun e =>
      !(e.ctx == ctx && rangesMeet (e.vpage * 2 ^ levelShift e.level) (2 ^ levelShift e.level) lo n),
    walks := s.walks.filter fun w => !(w.ctx == ctx && w.done && rangesMeet (w.vpage * 2 ^ 13) (2 ^ 13) lo n) }

/-- Outcomes of walks that no waiter has taken are not kept beyond the cycle: an invalid entry is never cached, and a later access
walks again (R351, R356). -/
def State.dropEnded (s : State) : State := { s with walks := s.walks.filter fun w => !w.done }

/-- The requests outstanding that may have used a context's translations: those of its lanes and copies, its events, and lines written
back, which name no context. -/
def State.ctxReqs (s : State) (ctx : Nat) : List Nat :=
  s.reqs.filterMap fun r => match r.owner, r.copy with
    | some o, _ => (match s.block? o.1 with | some b => if b.ctx = ctx then some r.id else none | none => none)
    | none, some id => if s.copies.any fun c => c.id == id && c.ctx == ctx then some r.id else none
    | none, none => if r.op = 0 ∨ (r.op = eventOp ∧ r.clk = ctx) then some r.id else none

/-- The blocks whose slate buffers, open or closed, hold bytes stored through some pages of a context (R281, R282). -/
def State.slatesIn (s : State) (ctx lo n : Nat) : List Nat :=
  let through : List Nat → Bool := fun ps => ps.any fun p => rangesMeet (p * 2 ^ 13) (2 ^ 13) lo n
  ((s.blocks.filter fun b => b.ctx == ctx && through b.body.slatePages).map fun b => b.uid) ++
  ((s.slates.filter fun b => b.ctx == ctx && through b.pages).map fun b => b.uid)

/-- CTLBINV (R352, R353): a write in any state of the context; SIZE 3 names nothing. -/
def execCtlbinv (ctx vpage size : Nat) (all : Bool) (s : State) : Host.Outcome State Fault Refusal :=
  if !s.awake then .next s else
  if size > 2 && !all then .next s
  else
    let n := if all then 2 ^ 53 else 2 ^ (13 + 10 * size)
    let lo := if all then 0 else vpage * 2 ^ 13 / n * n
    let slates := s.slatesIn ctx lo n
    let s := (s.dropTranslations ctx lo n).unmapL1 ctx lo n
    .next { s with invals := s.invals ++ [⟨ctx, s.ctxReqs ctx, slates⟩] }

/-- TLB_INVALIDATE_COMPLETE (R353): the oldest invalidation is complete when every access that used a removed entry has
been performed, those that wait in a slate buffer among them; CTLBSEQ counts it. -/
def execTlbInvalidateComplete (s : State) : Host.Outcome State Fault Refusal :=
  match s.invals with
  | [] => .next s
  | i :: rest =>
    if (s.reqs.any fun r => i.reqs.contains r.id) || (s.blocks.any fun b => i.slates.contains b.uid) ||
        (s.slates.any fun b => i.slates.contains b.uid) then .next s
    else
      let s : State := { s with invals := rest }
      .next (s.updCtx i.ctx fun c => { c with ctlbseq := (c.ctlbseq + 1) % 2 ^ 32 })

/-! ### Experts (R358 to R362) -/

/-- An expert of a context. -/
def State.expert? (s : State) (ctx id : Nat) : Option Expert := s.experts.find? fun e => e.ctx == ctx && e.id == id

/-- The address of an expert's record (R358). -/
def Context.expertRecord (c : Context) (id : Nat) : Nat := c.xbase + 32 * id

/-- An expert's state held and written to its record with a release at scope sys (R359). -/
def State.setExpert (s : State) (e : Expert) : State :=
  let s : State := { s with experts := (s.experts.filter fun x => !(x.ctx == e.ctx && x.id == e.id)) ++ [e] }
  let n := match e.st with | .fetching _ => 1 | .resident => 2 | .failed => 3
  match s.ctxs[e.ctx]? with
  | none => s
  | some c => s.agentWrite e.ctx (c.expertRecord e.id + 14) (toBytes n 2)

/-- An expert's state changed in its place in the order of requests. -/
def State.updExpert (s : State) (e : Expert) : State :=
  { s with experts := mapWhere (fun x => x.ctx == e.ctx && x.id == e.id) (fun _ => e) s.experts }

/-- The fetch event of R359: `exfetch` or CEXCMD FETCH. -/
def State.fetchExpert (s : State) (ctx id : Nat) : State :=
  match s.expert? ctx id with
  | some ⟨_, _, .fetching _, _, _, _, _, _⟩ => s
  | some ⟨_, _, .resident, _, _, _, _, _⟩ => s
  | _ => s.setExpert ⟨ctx, id, .fetching false, 0, 0, 0, 0, 0⟩

/-- Whether a context has an expert of a number (R362). -/
def State.expertKnown (s : State) (ctx id : Nat) : Bool :=
  match s.ctxs[ctx]? with | some c => c.xbase != 0 && decide (id < c.nexp) | none => false

/-- CEXCMD FETCH (R352, R359). A number outside the table names no expert. -/
def execFetch (ctx exid : Nat) (s : State) : Host.Outcome State Fault Refusal :=
  if !s.awake then .next s else
  .next (if s.expertKnown ctx exid then s.fetchExpert ctx exid else s)

/-- The request for the source pages of an expert that comes from a peer (R359, R374). -/
def State.expertReq? (s : State) (ctx id : Nat) : Option Req := s.reqs.find? fun r => r.op == expertOp && r.pc == ctx && r.clk == id

/-- A fetch asks for nothing more: an answer to its request is ignored. -/
def State.dropExpertReq (s : State) (ctx id : Nat) : State :=
  { s with reqs := s.reqs.filter fun r => !(r.op == expertOp && r.pc == ctx && r.clk == id) }

/-- CEXCMD EVICT (R359): the fetch is abandoned, or the expert's translations are invalidated. -/
def execEvict (ctx exid : Nat) (s : State) : Host.Outcome State Fault Refusal :=
  if !s.awake then .next s else
  match s.expert? ctx exid, s.ctxs[ctx]? with
  | some e, some c =>
    if e.st = .failed then .next s
    else
      let s := s.dropExpertReq ctx exid
      let s : State := { s with experts := s.experts.filter fun x => !(x.ctx == ctx && x.id == exid),
                                tlb := s.tlb.filter fun t => !(t.ctx == ctx && t.type == 1 && t.exid == exid) }
      let s := (s.dropTranslations ctx e.vbase (e.npg * 2 ^ 13)).unmapL1 ctx e.vbase (e.npg * 2 ^ 13)
      .next (s.agentWrite ctx (c.expertRecord exid + 14) (toBytes 0 2))
  | _, _ => .next s

/-- A fetch that fails (R359): FAILED, and logged. -/
def State.failExpert (s : State) (e : Expert) (cls detail einfo : Nat) : State :=
  let s := (s.dropExpertReq e.ctx e.id).setExpert { e with st := .failed }
  let addr := match s.ctxs[e.ctx]? with | some c => c.expertRecord e.id | none => 0
  s.logEvent e.ctx { cls, detail, async := true, eaddr := addr, einfo }

/-- A page of an expert's range: its frame and its leaf, where its entry is TYPE 1 with the expert's number (R358). -/
def State.expertFrame (s : State) (root id va : Nat) : Except Nat (Nat × Leaf) :=
  match walkTables s.mem s.hubid root va with
  | .error e => .error (e.1 * 256 + e.2)
  | .ok l => if l.type = 1 ∧ l.exid = id then .ok (l.frame + va % 2 ^ levelShift l.level, l) else .error 0

/-- What a reading of the hub comes to. -/
inductive Got (α : Type) where
  | got (a : α)
  /-- The class and detail of what stops it. -/
  | bad (f : XFault)
  /-- Not at hand yet: the hub reads again. -/
  | wait
deriving DecidableEq, Repr

/-- A reading and what follows it. -/
def Got.bind {α β : Type} (g : State × Got α) (k : State → α → State × Got β) : State × Got β :=
  match g with
  | (s, .got a) => k s a
  | (s, .bad f) => (s, .bad f)
  | (s, .wait) => (s, .wait)

/-- A line at hand for the hub's reading of a context's bytes: its walk made, the line itself there (R351, R374); where it then lies. -/
def State.hubReach (s : State) (who ctx va n : Nat) : State × Got (Nat × Leaf) :=
  match s.walkFor hubDie who ctx va false with
  | (s, .wait) => (s, .wait)
  | (s, .remote _) => (s, .bad (9, 1))
  | (s, .here) =>
    match s.agentXlate ctx va .read false false with
    | .error f => (s, .bad f)
    | .ok (pa, leaf) =>
      match s.bring hubDie who (placeOf s.hubid pa leaf.type) pa n false with
      | (s, .wait) => (s, .wait)
      | (s, .remote _) => (s, .bad (9, 1))
      | (s, .here) => (s, .got (pa, leaf))

/-- Bytes within one line that the hub reads for a context as a device agent, or the class and detail of what stops it (R235, R380). -/
def State.hubRead (s : State) (who ctx va n : Nat) : State × Got (List Byte) :=
  Got.bind (s.hubReach who ctx va n) fun s p =>
    let key := memKey s.hubid p.1
    if p.2.type = 4 then (s, .got (readBytes s.mem key n))
    else if s.poison.contains (lineOf key) then (s, .bad (8, 0))
    else match s.hostFault va key with
      | some f => (s, .bad (f.cls, f.detail))
      | none => (s.hubLook (lineOf key), .got (readBytes s.mem key n))

/-- An expert by the 32 bytes of its record, if these are valid (R358). -/
def Expert.ofRecord (e : Expert) (v now : Nat) : Option Expert :=
  let vbase := bitsOf v 0 64
  let npg := bitsOf v 64 32
  let src := bitsOf v 96 16
  let saddr := bitsOf v 128 64
  let from_ := bitsOf src 14 2
  let ok := decide (vbase + 8192 * npg ≤ 2 ^ 53) && vbase % 8192 == 0 && npg != 0 && (from_ == 1 || from_ == 2) &&
    bitsOf src 12 2 == 0 && bitsOf v 192 64 == 0 && (if from_ = 1 then decide (saddr < 2 ^ 39) else decide (saddr < 2 ^ 51))
  if ok then some { e with st := .fetching true, vbase, npg, src, saddr, since := now } else none

/-- The walks of every page of an expert's range: their lines at hand, and read (R351). -/
def State.expertWalks (s : State) (e : Expert) : State × Bring :=
  (List.range e.npg).foldl (fun (a : State × Bring) i =>
    if a.2 = .here then a.1.walkFor hubDie (expertReader e.ctx e.id) e.ctx (e.vbase + 8192 * i) false else a) (s, .here)

/-- The record of an expert read and checked with every page of its range (R358), or what stops it (R326, R359): an invalid record or
range is a fault of class 0. -/
def State.readExpert (s : State) (e : Expert) : State × Got Expert :=
  match s.ctxs[e.ctx]? with
  | none => (s, .bad (0, 0))
  | some c =>
    Got.bind (s.hubRead (expertReader e.ctx e.id) e.ctx (c.expertRecord e.id) 32) fun s bs =>
      match e.ofRecord (fromBytes bs) s.hubCycle with
      | none => (s, .bad (0, 0))
      | some r =>
        match s.expertWalks r with
        | (s, .wait) => (s, .wait)
        | (s, .remote _) => (s, .bad (9, 1))
        | (s, .here) =>
          match (List.range r.npg).findSome? fun i => match s.expertFrame c.root e.id (r.vbase + 8192 * i) with
            | .error n => some n
            | .ok _ => none with
          | some n => (s, .bad (n / 256, n % 256))
          | none => (s, .got r)

/-- Whether an expert comes from a peer, and the agent that serves its source (R358). -/
def Expert.fromPeer (e : Expert) : Bool := bitsOf e.src 14 2 == 1
def Expert.source (e : Expert) : Nat := if e.fromPeer then e.src % 2 ^ 12 else hostAgent

/-- The reads of a peer's pages for a fetch that starts, each with its timer (R374); host memory is read where it stands. -/
def State.askExpert (s : State) (e : Expert) : State :=
  if !e.fromPeer then s
  else if s.agentDead e.source then s.failExpert e 9 0x01 (remoteInfo e.source)
  else s.postReq none none e.ctx 0 expertOp e.id 0 noFields ((List.range e.npg).map fun i =>
    reqElem (.peer e.source) 0 (e.source * 2 ^ 39 + e.saddr + 8192 * i) 8192 .read [])

/-- EXPERT_FETCH_START (R359): the oldest queued fetch starts when fewer than 64 are in flight; its record is read. -/
def execExpertFetchStart (s : State) : Host.Outcome State Fault Refusal :=
  if (s.experts.filter fun e => e.st == .fetching true).length ≥ 64 then .next s
  else match s.experts.find? fun e => e.st == .fetching false with
    | none => .next s
    | some e =>
      match s.readExpert e with
      | (s, .got e) => .next (((s.endBring hubDie (expertReader e.ctx e.id)).updExpert e).askExpert e)
      | (s, .bad f) => .next ((s.endBring hubDie (expertReader e.ctx e.id)).failExpert e 5 0x0A (f.1 * 256 + f.2))
      | (s, .wait) => .next s

/-- The bytes of an expert's source pages: host memory as it stands, or what the peer has answered (R358); none while an answer is
missing. -/
def State.expertSource (s : State) (e : Expert) : Option (List (List Byte)) :=
  if e.fromPeer then (match s.expertReq? e.ctx e.id with
    | some r => r.elems.mapM (·.answer)
    | none => none)
  else some ((List.range e.npg).map fun i => readBytes s.mem (2 ^ 51 + e.saddr + 8192 * i) 8192)

/-- One page of an expert written, its D first (R354, R359). -/
def State.landPage (s : State) (p : (Nat × Leaf) × List Byte) : State := (s.setDirty p.1.2).homeWrite p.1.1 p.2

/-- EXPERT_LAND (R359, R360): every byte lands and the expert becomes RESIDENT; or a read of host memory has failed (`ok` false), at the
earliest when four attempts of 20 µs have timed out (R374), or a page of the range no longer carries the expert. A peer's pages have
all been answered, or their request has failed. -/
def execExpertLand (ctx exid : Nat) (ok : Bool) (s : State) : Host.Outcome State Fault Refusal :=
  match s.expert? ctx exid, s.ctxs[ctx]? with
  | some e, some c =>
    if e.st ≠ .fetching true then .next s
    else
      let dead := s.agentDead e.source
      if !ok && !dead && (e.fromPeer || decide (s.hubCycle < e.since + 4 * requestTimeout)) then .next s
      else if !ok || dead then .next (s.failExpert e 9 0x01 (remoteInfo e.source))
      else match s.expertSource e with
        | none => .next s
        | some pages =>
          match s.expertWalks e with
          | (s, .wait) => .next s
          | (s, .remote _) => .next ((s.endBring hubDie (expertReader ctx exid)).failExpert e 5 0x0A 0x901)
          | (s, .here) =>
            let s := s.endBring hubDie (expertReader ctx exid)
            match (List.range e.npg).mapM fun i => s.expertFrame c.root exid (e.vbase + 8192 * i) with
            | .error n => .next (s.failExpert e 5 0x0A n)
            | .ok frames => .next (((((frames.zip pages).foldl State.landPage s)).dropExpertReq ctx exid).setExpert { e with st := .resident })
  | _, _ => .next s

/-- `exfetch` (R362). -/
def execExfetch (w : Fields) (s : State) := runLong 0xB0 none w s readsA <| laneBody fun x s l =>
  if s.expertKnown x.b.ctx (x.a l 32) then (s.fetchExpert x.b.ctx (x.a l 32), .next) else (s, .fault (protF 0x01 0))

/-- `extest` (R362): where both predicates are one, the second write stays. -/
def execExtest (w : Fields) (s : State) := runLong 0xB1 none w s readsA <| laneBody fun x s l =>
  let id := x.a l 32
  if s.expertKnown x.b.ctx id then
    let st := (s.expert? x.b.ctx id).map (·.st)
    let res := st == some .resident
    let pend := st == some (.fetching true) || st == some (.fetching false)
    let s := if res then s.acquireL1 x.b.core else s
    (s.updThread x.uid x.ci l fun t => (t.setPred x.w.d.toNat res).setPred (x.mod % 8) pend, .next)
  else (s, .fault (protF 0x01 0))

/-! ### The dailies (R363, R364) -/

/-- An increment gathered by a crew: in the counter's slot, or in a new one. -/
def Crew.gather (c : Crew) (clk i : Nat) (v : Word) : Crew :=
  let same : DailySlot → Bool := fun d => d.counter == i
  { c with dailies := if c.dailies.any same then mapWhere same (fun d => { d with sum := d.sum + v }) c.dailies
                      else c.dailies ++ [⟨i, v⟩],
           dailyAge := some (c.dailyAge.getD clk) }

/-- `ecnt` (R278, R363). -/
def execEcnt (w : Fields) (s : State) := runLong 0xB2 none w s readsAB fun x =>
  if x.b.inside then refuseAll (fun _ => protF 0x06 0) x
  else laneBody (fun x s l =>
    match s.ctxs[x.b.ctx]? with
    | none => (s, .next)
    | some c =>
      let a := x.a l 32
      if a ≥ c.dcount then (s, .fault (protF 0x01 0))
      else
        let i := c.dbase + a
        let full := match s.crew? x.uid x.ci with
          | some k => decide (k.dailies.length ≥ 8) && !k.dailies.any fun d => d.counter == i
          | none => false
        let s := if full then s.flushDailies x.uid x.ci else s
        (s.updCrew x.uid x.ci fun k => k.gather x.clk i (BitVec.ofNat 32 (x.bv l 32)), .next)) x

/-- DAILY_FLUSH (R363): 12,500 cycles after a crew's oldest unflushed increment. -/
def execDailyFlush (uid crew : Nat) (s : State) : Host.Outcome State Fault Refusal :=
  match s.block? uid, s.crew? uid crew with
  | some b, some c =>
    match c.dailyAge with
    | some t => .next (if t + 12500 ≤ s.clockOf b.core then s.flushDailies uid crew else s)
    | none => .next s
  | _, _ => .next s

/-- DAILY_WRITE (R364). -/
def execDailyWrite (i v : Nat) (s : State) : Host.Outcome State Fault Refusal :=
  if !s.awake then .next s else
  .next (if i < 65536 then { s with dailies := setSparse s.dailies i (BitVec.ofNat 32 v) } else s)

/-! ### Filling the instruction buffer (R104, R110, R111) -/

/-- The lines that the bundles of a core stand on: the current instruction's, also of lanes whose instruction has issued and has not
completed. -/
def State.ibUsed (s : State) (core : Nat) : List Nat :=
  s.blocks.flatMap fun b =>
    if b.core ≠ core then [] else
    b.body.crews.flatMap fun c =>
      let first := c.bundles.filterMap fun bd => c.threads[bd.lanes.headD 0]?
      let held := c.threads.filter fun t => t.again.isSome || !t.reqs.isEmpty
      (first.flatMap fun t => s.ibLines core b.ctx t.pc.toNat t.stale) ++ held.flatMap (·.lastIb)

/-- Stale lines that no bundle stands on are freed (R111). -/
def State.freeStale (s : State) : State :=
  if s.ib.any (·.stale) then { s with ib := s.ib.filter fun l => !l.stale || (s.ibUsed l.core).contains l.id } else s

/-- A line put into a core's buffer: with 512 lines held, the least recently used that no bundle stands on goes, of several last used in
one cycle the one that has been held longest (R110; DESIGN CHOICE, log entry 89). -/
def State.ibInsert (s : State) (l : IbLine) : State :=
  let mine := s.ib.filter fun x => x.core == l.core
  if mine.length < 512 then { s with ib := s.ib ++ [l] }
  else
    let used := s.ibUsed l.core
    match leastBy (·.lastUse) (mine.filter fun x => !used.contains x.id) with
    | some v => { s with ib := (s.ib.filter fun x => x.id != v.id) ++ [l] }
    | none => s

/-- The READY lanes of a crew whose next instruction lacks a line, by line and PC. -/
def State.ibWanted (s : State) (b : Block) (c : Crew) : List (Nat × Nat × List Nat) :=
  let ls := c.threads.zipIdx.filterMap fun p =>
    if p.1.st = .ready then (s.ibMissing b.core b.ctx p.1.pc.toNat p.1.stale).map fun v => (v, p.1.pc.toNat, p.2) else none
  let keys := (ls.map fun p => (p.1, p.2.1)).eraseDups
  keys.map fun k => (k.1, k.2, (ls.filter fun p => p.1 == k.1 && p.2.1 == k.2).map (·.2.2))

/-- A fault of a fetch in some lanes of a crew: they park at their PC (R235, R350). -/
def State.fetchFault (s : State) (uid ci pc : Nat) (lanes : List Nat) (f : LaneFault) : State :=
  let s := s.updCrew uid ci fun c => (lanes.foldl (fun c l => c.updThread l fun t => t.park .replay) c).leaveBundles lanes
  s.takeFaults uid ci pc pc (lanes.map fun l => (l, f)) true false

/-- One line of a buffer fetched from the L2 for some lanes, if it translates (R110, R213), once it is at hand; the address of a fault is
the PC, or the second line's start. -/
def State.fillLine (s : State) (b : Block) (ci : Nat) (vline pc : Nat) (lanes : List Nat) : State :=
  let va := max pc (vline * 128)
  if va ≥ 2 ^ 53 then s.fetchFault b.uid ci pc lanes (protF 0x01 va)
  else
    match s.translate b.core b.ctx va (s.shadowTag b va) .exec with
    | .miss => s.startWalk b.core b.ctx va (s.shadowTag b va)
    | .fault f => (s.seeWalks b.core b.ctx [va]).fetchFault b.uid ci pc lanes (xlateF f va .exec)
    | .ok pa leaf =>
      let key := lineOf (memKey s.hubid pa) * 128
      let p := placeOf s.hubid pa leaf.type
      let take (s : State) (data : List Byte) : State :=
        let (id, s) := s.fresh
        s.ibInsert ⟨id, b.core, b.ctx, vline, data, false, s.clockOf b.core⟩
      let fill (s : State) : State :=
        if p = .hostIo then take s (readBytes s.mem key 128)
        else match (if s.poison.contains (lineOf key) then some (poisonF va) else s.hostFault va key) with
        | some f => s.fetchFault b.uid ci pc lanes f
        | none =>
          let s := s.l2Read (dieOf b.core) (lineOf key)
          take s (readBytes s.mem key 128)
      let die := dieOf b.core
      let who := fetchReader b.core vline
      match s.bring die who p (pa / 128 * 128) 128 false with
      | (s, .here) => (fill s).endBring die who
      | (s, .wait) => s
      | (s, .remote a) => (s.fetchFault b.uid ci pc lanes (remoteF va a)).endBring die who

/-- Every line that a READY lane lacks, fetched where it translates; a line fetched for one crew serves the next. -/
def State.fetchAll (s : State) : State :=
  let s := s.freeStale
  (s.blocks.filter fun b => b.state == .resident).foldl (fun (s : State) b0 =>
    (List.range b0.body.crews.length).foldl (fun (s : State) ci =>
      match s.block? b0.uid with
      | none => s
      | some b =>
        match b.crew? ci with
        | none => s
        | some c => if !c.live then s else
          (s.ibWanted b c).foldl (fun (s : State) w =>
            match s.block? b0.uid with
            | none => s
            | some b =>
              -- an earlier fetch of this cycle may have brought the line
              if (s.ibLine? b.core b.ctx w.1 none).isSome then s else s.fillLine b ci w.1 w.2.1 w.2.2) s) s) s

end Sys2Proof.Machine
end

