-- ==== Sys2Proof/Machine/Engine.lean ====
section
/-! DEFINITION. What a core's engines read for a lane: relaxed loads through the core's L1 (R166, R190), the tensor header
record with its checks in order (R37), and the elements of blocks by their formats (R29 to R32, R36). -/

namespace Sys2Proof.Machine
open Sys2Proof

/-! ### Relaxed loads by an engine -/

/-- `n` bytes from an address cut at line boundaries: start and length of each piece. -/
def linePieces (va n : Nat) : List (Nat × Nat) :=
  (linesOf va n).map fun k =>
    let lo := max va (k * 128)
    (lo, min (va + n) (k * 128 + 128) - lo)

/-- One piece read as the lane would: its walk (R351), range and permissions, then the core's L1; a line that is not at hand is waited
for, and one of a home outside the device asked for (R374). `who` is the reader. -/
def State.pieceRead (s : State) (b : Block) (who va n : Nat) : State × Except Halt (List Byte) :=
  if va ≥ 2 ^ 53 then (s, .error (.fault (protF 0x01 va)))
  else
    let die := dieOf b.core
    let shadow := (s.shadowTag b va).isSome
    match s.walkFor die who b.ctx va shadow with
    | (s, .wait) => (s, .error .wait)
    | (s, .remote a) => (s, .error (.fault (remoteF va a)))
    | (s, .here) =>
      match s.agentXlate b.ctx va .read true shadow with
      | .error e => (s, .error (.fault (xlateF e va .read)))
      | .ok (pa, leaf) =>
        let key := memKey s.hubid pa
        let p := placeOf s.hubid pa leaf.type
        let got := if p != .hostIo && s.l1Hit b.core b.ctx va n then (s, .here) else s.bring die who p pa n false
        match got.2.halt va with
        | some h => (got.1, .error h)
        | none =>
          if p = .hostIo then (got.1, .ok (b.overlay key (readBytes got.1.mem key n)))
          else match got.1.loadL1 b.core b.ctx va key n none with
            | (s, .error f) => (s, .error (.fault f))
            | (s, .ok bs) => (s, .ok (b.overlay key bs))

/-- Bytes read by an engine for a lane, or what stops it first. -/
def State.laneRead (s : State) (b : Block) (who va n : Nat) : State × Except Halt (List Byte) :=
  (linePieces va n).foldl (fun a p => match a.2 with
    | .error f => (a.1, .error f)
    | .ok bs => match a.1.pieceRead b who p.1 p.2 with
      | (s, .ok r) => (s, .ok (bs ++ r))
      | (s, .error f) => (s, .error f)) (s, .ok [])

/-- A piece to be written as the lane would: its place and leaf once the store can be made, or what stops it. A line of a home outside
is owned first. -/
def State.pieceWrite (s : State) (b : Block) (who va n : Nat) : State × Except Halt (Nat × Nat × Leaf) :=
  if va ≥ 2 ^ 53 then (s, .error (.fault (protF 0x01 va)))
  else
    let die := dieOf b.core
    let shadow := (s.shadowTag b va).isSome
    match s.approach die who b.ctx va .write true shadow with
    | (s, .wait) => (s, .error .wait)
    | (s, .remote a) => (s, .error (.fault (remoteF va a)))
    | (s, .here) =>
      match s.agentXlate b.ctx va .write true shadow with
      | .error e => (s, .error (.fault (xlateF e va .write)))
      | .ok (pa, leaf) =>
        let key := memKey s.hubid pa
        if b.sheet.det then
          (s, if s.slateRoom (s.blockOr b) key n then .ok (pa, leaf.type, leaf) else .error (.fault (protF 0x07 va)))
        else if leaf.type = 4 then
          (s, if s.agentDead hostAgent then .error (.fault (remoteF va hostAgent)) else .ok (pa, leaf.type, leaf))
        else
          let got := s.bring die who (placeOf s.hubid pa leaf.type) pa n true
          match got.2.halt va with
          | some h => (got.1, .error h)
          | none =>
            let s := got.1.recall (lineOf key) true
            match s.storeFault b.core b.ctx va key n none with
            | some f => (s, .error (.fault f))
            | none => (s, .ok (pa, leaf.type, leaf))

/-- Bytes written by an engine for a lane: all of them, or none and what stops it first. -/
def State.laneWrite (s : State) (b : Block) (who va : Nat) (bs : List Byte) : State × Option Halt :=
  let r := (linePieces va bs.length).foldl (fun (a : State × Except Halt (List (Nat × Nat × Nat × Nat × Leaf))) p => match a.2 with
    | .error f => (a.1, .error f)
    | .ok ps => match a.1.pieceWrite b who p.1 p.2 with
      | (s, .error f) => (s, .error f)
      | (s, .ok q) => (s, .ok (ps ++ [(p.1, p.2, q)]))) (s, .ok [])
  match r.2 with
  | .error f => (r.1, some f)
  | .ok ps => (ps.foldl (fun (s : State) p =>
      let data := (bs.drop (p.1 - va)).take p.2.1
      let pa := p.2.2.1
      let key := memKey s.hubid pa
      let s := s.setDirty p.2.2.2.2
      if b.sheet.det then s.slateStore b.uid p.1 key data
      else if p.2.2.2.1 = 4 then s.postReq none none 0 0 0 0 0 noFields [reqElem .hostIo p.1 pa data.length .write data]
      else s.storeL1 b.core b.ctx p.1 key data none) r.1, none)

/-! ### Tensor header records (R37) -/

/-- The byte offset of the first invalid field of a record, if there is one (R326). -/
def recordBad (x : Nat) : Option Nat :=
  let r := TensorRec.parse (toBytes x 32)
  if bitsOf x 53 11 ≠ 0 then some 6
  else if !r.isBZ && r.hbase != 0 then some 8
  else if bitsOf x 117 11 ≠ 0 then some 14
  else if r.blks = 0 then some 24
  else if r.fmt > 4 then some 28
  else if (if r.isBZ then !(bzWidths.contains r.wid && !(r.signed && r.wid == 1)) else r.wid != 0) then some 28
  else if r.pol > 1 then some 29
  else if r.thr > 64 then some 29
  else if bitsOf x 244 12 ≠ 0 then some 30
  else none

/-- A record's fields and bases checked in the order of R37. -/
def checkRecord (va : Nat) (bs : List Byte) : Except LaneFault TensorRec :=
  let r := TensorRec.parse bs
  match recordBad (fromBytes bs) with
  | some o => .error (descF va o)
  | none =>
    if r.ebase % 32 ≠ 0 then .error (alignF r.ebase 5)
    else if r.hbase % 2 ≠ 0 then .error (alignF r.hbase 1)
    else .ok r

/-- A record read and checked. -/
def State.readRecord (s : State) (b : Block) (who va : Nat) : State × Except Halt TensorRec :=
  if va % 32 ≠ 0 then (s, .error (.fault (alignF va 5)))
  else match s.laneRead b who va 32 with
    | (s, .error f) => (s, .error f)
    | (s, .ok bs) => (s, match checkRecord va bs with | .ok r => .ok r | .error f => .error (.fault f))

/-! ### Elements -/

/-- A block's header (0 where the format has none) and its element bytes. -/
def State.readBlockOf (s : State) (b : Block) (who : Nat) (r : TensorRec) (blk : Nat) : State × Except Halt (Nat × List Byte) :=
  let h := if r.isBZ then s.laneRead b who (r.hbase + 2 * blk) 2 else (s, .ok [])
  match h with
  | (s, .error f) => (s, .error f)
  | (s, .ok hb) => match s.laneRead b who (r.ebase + r.blockBytes * blk) r.blockBytes with
    | (s, .error f) => (s, .error f)
    | (s, .ok bs) => (s, .ok (fromBytes hb, bs))

/-- The exact value of element i of a block of BZ or float elements: none for poison, NaN or an infinity (R29, R166). -/
def TensorRec.value (r : TensorRec) (hdr : Nat) (bs : List Byte) (i : Nat) : Option Q :=
  if r.isBZ then bzValue r.signed r.wid (bzE hdr) (bzCode bs r.wid i)
  else
    let f := if r.fmt = 3 then fp16 else fp32
    let n := 1 + f.eb + f.fb
    match f.decode (bitsOf (fromBytes ((bs.drop (n / 8 * i)).take (n / 8))) 0 n) with
    | .fin _ q => some q
    | _ => none

/-! ### Dot leaves (R166) -/

/-- What the engine forms for a dot leaf. -/
inductive DotRes where
  | fault (f : LaneFault)
  /-- Bytes that it needs are not at hand. -/
  | wait
  /-- A poison element, an E = 255 block, or a NaN or infinite element. -/
  | poison
  | val (q : Q)
deriving DecidableEq, Repr

/-- The byte offset of the first invalid field of a dot descriptor itself (R166). -/
def dotBad (x : Nat) : Option Nat :=
  if bitsOf x 53 11 ≠ 0 then some 6
  else if bitsOf x 117 11 ≠ 0 then some 14
  else if bitsOf x 192 32 = 0 then some 24
  else if bitsOf x 224 32 ≠ 0 then some 28
  else none

/-- The products of one pair of blocks added to a sum; none once an element is no number. -/
def dotBlock (ra rb : TensorRec) (a b : Nat × List Byte) (acc : Option Q) : Option Q :=
  (List.range 64).foldl (fun acc i => match acc, ra.value a.1 a.2 i, rb.value b.1 b.2 i with
    | some q, some u, some v => some (q.add (u.mul v))
    | _, _, _ => none) acc

/-- What stops an engine in a dot leaf. -/
def Halt.dot : Halt → DotRes
  | .fault f => .fault f
  | .wait => .wait

/-- The sum over the blocks of a row and a column, from block pair `j` on. -/
def State.dotBlocks (s : State) (b : Block) (who : Nat) (ra rb : TensorRec) (first second kb : Nat) : State × Except Halt (Option Q) :=
  (List.range kb).foldl (fun (a : State × Except Halt (Option Q)) j =>
    match a.2 with
    | .error f => (a.1, .error f)
    | .ok acc =>
      match a.1.readBlockOf b who ra (first + j) with
      | (s, .error f) => (s, .error f)
      | (s, .ok u) =>
        match s.readBlockOf b who rb (second + j) with
        | (s, .error f) => (s, .error f)
        | (s, .ok v) => (s, .ok (dotBlock ra rb u v acc))) (s, .ok (some ⟨0, 1⟩))

/-- The exact sum of a dot descriptor (R166). -/
def State.dotValue (s : State) (b : Block) (who va : Nat) : State × DotRes :=
  match s.laneRead b who va 32 with
  | (s, .error f) => (s, f.dot)
  | (s, .ok bs) =>
    let x := fromBytes bs
    let row := bitsOf x 128 32
    let col := bitsOf x 160 32
    let kb := bitsOf x 192 32
    match dotBad x with
    | some o => (s, .fault (descF va o))
    | none =>
      match s.readRecord b who (bitsOf x 0 53) with
      | (s, .error f) => (s, f.dot)
      | (s, .ok ra) =>
        match s.readRecord b who (bitsOf x 64 53) with
        | (s, .error f) => (s, f.dot)
        | (s, .ok rb) =>
          if ra.fmt = 2 then (s, .fault (descF (bitsOf x 0 53) 28))
          else if rb.fmt = 2 then (s, .fault (descF (bitsOf x 64 53) 28))
          else if (row + 1) * kb > ra.blks then (s, .fault (descF va 16))
          else if (col + 1) * kb > rb.blks then (s, .fault (descF va 20))
          else
            match s.dotBlocks b who ra rb (row * kb) (col * kb) kb with
            | (s, .error f) => (s, f.dot)
            | (s, .ok none) => (s, .poison)
            | (s, .ok (some q)) => (s, .val q)

end Sys2Proof.Machine
end

