-- ==== Sys2Proof/Machine/Tracked.lean ====
section
/-! DEFINITION. The tracked value (R157 to R179): interval arithmetic at any precision, leaves, cuts, comparison, and the
retake engine's stages with the exact stage. -/

namespace Sys2Proof.Machine
open Sys2Proof

/-! ### Bounds (R157) -/

/-- A bound: a rational or an infinity. -/
inductive Bd where
  | ninf
  | fin (q : Q)
  | pinf
deriving DecidableEq, Repr

/-- An enclosure. -/
abbrev Iv := Bd × Bd

def Bd.neg : Bd → Bd | .ninf => .pinf | .fin q => .fin q.neg | .pinf => .ninf
def Bd.sign : Bd → Int | .ninf => -1 | .fin q => q.num.sign | .pinf => 1
def Bd.isInf : Bd → Bool | .fin _ => false | _ => true
def Bd.lt : Bd → Bd → Bool
  | .ninf, .ninf => false
  | .ninf, _ => true
  | _, .ninf => false
  | .pinf, _ => false
  | _, .pinf => true
  | .fin p, .fin q => p.lt q
def Bd.le (x y : Bd) : Bool := !(y.lt x)
def Bd.min (x y : Bd) : Bd := if y.lt x then y else x
def Bd.max (x y : Bd) : Bd := if x.lt y then y else x
/-- An infinity of a sign, 0 for none. -/
def Bd.ofSign (s : Int) : Bd := if s < 0 then .ninf else if s = 0 then .fin ⟨0, 1⟩ else .pinf
/-- A sum; its terms are never infinities of both signs. -/
def Bd.add : Bd → Bd → Bd
  | .fin p, .fin q => .fin (p.add q)
  | .fin _, y => y
  | x, _ => x
/-- A product: 0 × ±∞ = 0. -/
def Bd.mul : Bd → Bd → Bd
  | .fin p, .fin q => .fin (p.mul q)
  | x, y => Bd.ofSign (x.sign * y.sign)
/-- A quotient by a bound that is not 0: x / ±∞ = 0; none for ±∞ / ±∞. -/
def Bd.div : Bd → Bd → Option Bd
  | .fin p, .fin q => some (.fin (p.div q))
  | .fin _, _ => some (.fin ⟨0, 1⟩)
  | x, .fin q => some (Bd.ofSign (x.sign * q.num.sign))
  | _, _ => none

/-- The whole line. -/
def ivAll : Iv := (.ninf, .pinf)

/-- `x` to `n` significant bits with an unbounded exponent, down or up. -/
def roundSig (n : Nat) (up : Bool) (x : Q) : Q :=
  if x.isZero then x else
  let sh := (n : Int) - 1 - x.log2
  let y := x.scale sh
  let f := y.floor
  let r := if up && decide (f * y.den ≠ y.num) then f + 1 else f
  Q.scale ⟨r, 1⟩ (-sh)

/-- An FP32 number's bits as a bound. -/
def Bd.ofBits (x : Nat) : Bd :=
  match fp32.decode x with
  | .fin _ q => .fin q
  | .inf true => .ninf
  | _ => .pinf

/-- ⌊x⌋ and ⌈x⌉ as FP32 bits, a zero as +0 (R43). -/
def Bd.bits (up : Bool) : Bd → Nat
  | .ninf => fp32.infBits true
  | .pinf => fp32.infBits false
  | .fin q =>
    let r := if up then roundUpF fp32 q else roundDown fp32 q
    if r = fp32.zeroBits true then 0 else r

/-- ⌊x⌋ and ⌈x⌉ at a precision: FP32 for 0, else a significand width (R172). -/
def Bd.round (p : Nat) (up : Bool) (x : Bd) : Bd :=
  if p = 0 then Bd.ofBits (x.bits up)
  else match x with
    | .fin q => .fin (roundSig p up q)
    | x => x

def ivRound (p : Nat) (x : Iv) : Iv := (x.1.round p false, x.2.round p true)

/-- The square root of a bound, rounded. -/
def Bd.sqrt (p : Nat) (up : Bool) : Bd → Bd
  | .fin q => if q.num ≤ 0 then .fin ⟨0, 1⟩ else (Bd.fin (sqrtSurrogate q (if p = 0 then 32 else p + 8))).round p up
  | .ninf => .fin ⟨0, 1⟩
  | .pinf => .pinf

/-- The least and the greatest of some bounds. -/
def bdMin (xs : List Bd) : Bd := xs.foldl Bd.min .pinf
def bdMax (xs : List Bd) : Bd := xs.foldl Bd.max .ninf

/-- The four products of endpoints. -/
def ivProducts (a b : Iv) : List Bd := [a.1.mul b.1, a.1.mul b.2, a.2.mul b.1, a.2.mul b.2]

/-- Whether an enclosure holds 0. -/
def Iv.hasZero (b : Iv) : Bool := decide (b.1.sign ≤ 0) && decide (0 ≤ b.2.sign)

/-- An operation's enclosure at a precision, and u: the result is undefined (R167). A divisor that is exactly the point 0
makes u at the registers alone (R172). -/
def ivOp (p op : Nat) (a b c : Iv) : Iv × Bool :=
  match op with
  | 0x10 => (ivRound p (a.1.add b.1, a.2.add b.2), false)
  | 0x11 => (ivRound p (a.1.add b.2.neg, a.2.add b.1.neg), false)
  | 0x12 => (ivRound p (bdMin (ivProducts a b), bdMax (ivProducts a b)), false)
  | 0x13 => (ivRound p ((bdMin (ivProducts a b)).add c.1, (bdMax (ivProducts a b)).add c.2), false)
  | 0x14 =>
    if Iv.hasZero b then (ivAll, p == 0 && b.1.sign == 0 && b.2.sign == 0)
    else
      let qs := [a.1.div b.1, a.1.div b.2, a.2.div b.1, a.2.div b.2]
      if qs.any (·.isNone) then (ivAll, false)
      else
        let qs := qs.filterMap id
        (ivRound p (bdMin qs, bdMax qs), false)
  | 0x15 => if a.2.sign < 0 then (ivAll, true) else ((a.1.sqrt p false, a.2.sqrt p true), false)
  | 0x16 => ((a.2.neg, a.1.neg), false)
  | _ =>
    if 0 ≤ a.1.sign then (a, false)
    else if a.2.sign ≤ 0 then ((a.2.neg, a.1.neg), false)
    else ((.fin ⟨0, 1⟩, a.1.neg.max a.2), false)

/-! ### Registers (R42, R157) -/

def QReg.iv (q : QReg) : Iv := (Bd.ofBits q.lo.toNat, Bd.ofBits q.hi.toNat)

/-- A tracked register from FP32 bounds, with INF and PT as R157 has them. -/
def mkQ (lo hi h : Nat) (nan und opq : Bool) : QReg :=
  let bad := nan || und
  let lo := if bad then fp32.infBits true else lo
  let hi := if bad then fp32.infBits false else hi
  { lo := BitVec.ofNat 32 lo, hi := BitVec.ofNat 32 hi, handle := BitVec.ofNat 24 h, pt := lo == hi && !bad,
    inf := lo == fp32.infBits true || hi == fp32.infBits false, opq, und, nan }

/-- NFL of a handle: 0 where it is null (R162). -/
def Reel.nfl (r : Reel) (h : Nat) : Nat := match r.node? h with | some n => n.nfl | none => 0

def nflNAN : Nat := 1
def nflUND : Nat := 2
def nflNOEX : Nat := 4
def nflDOT : Nat := 8

/-- An enclosure rounded outward to FP32 bits. -/
def Iv.toBits (x : Iv) : Nat × Nat := (x.1.bits false, x.2.bits true)

/-! ### Instructions that append (R166, R167, R177)

A lane that meets REEL leaves its registers unchanged, and every later lane raises it too (R167). -/

/-- Active lanes in order, up to the first REEL. -/
def reelBody (act : Ctx → State → Nat → State × Option LaneFault) (x : Ctx) : BodyRes :=
  let r := x.act.foldl (fun (a : State × Option LaneFault × List (Nat × LaneRes)) l =>
    match a.2.1 with
    | some f => (a.1, some f, a.2.2 ++ [(l, .fault f)])
    | none =>
      match act x a.1 l with
      | (s, some f) => (s, some f, a.2.2 ++ [(l, .fault f)])
      | (s, none) => (s, none, a.2.2)) (x.s0, none, [])
  .done r.1 r.2.2

/-- A node appended and a lane's register written with it. -/
def State.appendSet (s : State) (b : Block) (ci l d op : Nat) (kids : List Nat) (payload nfl : Nat) (q : Nat → QReg) :
    State × Option LaneFault :=
  match s.append b op kids payload nfl with
  | (s, .error f) => (s, some f)
  | (s, .ok h) => (s.setq b.uid ci l d (q h), none)

/-- A lane's tracked register as the state holds it: a lane changes only its own. -/
def Ctx.q (x : Ctx) (l : Nat) (code : BitVec 9) : QReg := (x.t l).qreg code.toNat

/-- An arithmetic instruction of R167 with `n` operands. -/
def arithLane (op n : Nat) (x : Ctx) (s : State) (l : Nat) : State × Option LaneFault :=
  let qs := ([x.w.a, x.w.b, x.w.c].take n).map (x.q l)
  let iv : Nat → Iv := fun i => match qs[i]? with | some q => q.iv | none => (.fin ⟨0, 1⟩, .fin ⟨0, 1⟩)
  let r := ivOp 0 op (iv 0) (iv 1) (iv 2)
  let nan := qs.any (·.nan)
  let und := !nan && (qs.any (·.und) || r.2)
  let hs := qs.map fun q => q.handle.toNat
  let reel := s.reelOf x.uid
  let nfl := hs.foldl (fun a h => a ||| reel.nfl h) 0 ||| (if op = 0x15 then nflNOEX else 0) ||| (if r.2 then nflUND else 0)
  let b := Iv.toBits r.1
  s.appendSet x.b x.ci l x.w.d.toNat op hs 0 nfl fun h => mkQ b.1 b.2 h nan und false

def execQadd (w : Fields) (s : State) := runLong 0x83 none w s [] (reelBody (arithLane 0x10 2))
def execQsub (w : Fields) (s : State) := runLong 0x84 none w s [] (reelBody (arithLane 0x11 2))
def execQmul (w : Fields) (s : State) := runLong 0x85 none w s [] (reelBody (arithLane 0x12 2))
def execQfma (w : Fields) (s : State) := runLong 0x86 none w s [] (reelBody (arithLane 0x13 3))
def execQdiv (w : Fields) (s : State) := runLong 0x87 none w s [] (reelBody (arithLane 0x14 2))
def execQsqrt (w : Fields) (s : State) := runLong 0x88 none w s [] (reelBody (arithLane 0x15 1))
def execQneg (w : Fields) (s : State) := runLong 0x89 none w s [] (reelBody (arithLane 0x16 1))
def execQabs (w : Fields) (s : State) := runLong 0x8A none w s [] (reelBody (arithLane 0x17 1))

/-- `qld` (R166). -/
def qldLane (x : Ctx) (s : State) (l : Nat) : State × Option LaneFault :=
  let d := x.w.d.toNat
  if x.fn = 0 then
    let v := x.a l 32
    match fp32.decode v with
    | .fin _ q =>
      let v := if q.isZero then 0 else v
      s.appendSet x.b x.ci l d 0x01 [] v 0 fun h => mkQ v v h false false false
    | _ => s.appendSet x.b x.ci l d 0x01 [] v nflNAN fun h => mkQ 0 0 h true false false
  else
    let signed := x.fn == 1 || x.fn == 3
    let n := if x.fn ≤ 2 then 32 else 64
    let i : Int := if signed then sext (x.a l n) n else (x.a l n : Int)
    let b := Iv.toBits (.fin (Q.ofInt i), .fin (Q.ofInt i))
    s.appendSet x.b x.ci l d (if signed then 0x02 else 0x03) [] (wrapInt i 64) 0 fun h => mkQ b.1 b.2 h false false false

def execQld (w : Fields) (s : State) := runLong 0x80 none w s readsA (reelBody qldLane)

/-- `qmov` and `qfree` (R168). -/
def execQmov (w : Fields) (s : State) := runLong 0x82 none w s [] <| laneBody fun x s l =>
  (s.setq x.uid x.ci l x.w.d.toNat (x.q l x.w.a), .next)
def execQfree (w : Fields) (s : State) := runLong 0x91 none w s [] <| laneBody fun x s l =>
  (s.setq x.uid x.ci l x.w.d.toNat QReg.zero, .next)

/-- The FP32 midpoint (R168). -/
def QReg.mid (q : QReg) : Nat :=
  if q.nan || q.und then fp32.nanBits
  else match q.iv with
    | (.fin a, .fin b) => (roundQ fp32 .rne false ((a.add b).scale (-1))).1
    | (.fin _, _) => q.lo.toNat
    | (_, .fin _) => q.hi.toNat
    | _ => fp32.nanBits

def execQmid (w : Fields) (s : State) := runLong 0x8C none w s [] (regBody fun x l => .ok (x.out 32 (x.q l x.w.a).mid))
def execQbnd (w : Fields) (s : State) := runLong 0x8D none w s [] (regBody fun x l =>
  .ok (x.out 64 ((x.q l x.w.a).lo.toNat + (x.q l x.w.a).hi.toNat * 2 ^ 32)))

/-- `qcut` (R177). -/
def qcutLane (x : Ctx) (s : State) (l : Nat) : State × Option LaneFault :=
  let a := x.q l x.w.a
  s.appendSet x.b x.ci l x.w.d.toNat 0x05 [] (a.lo.toNat + a.hi.toNat * 2 ^ 32)
    (nflNOEX ||| (if a.nan then nflNAN else 0) ||| (if a.und then nflUND else 0))
    fun h => mkQ a.lo.toNat a.hi.toNat h a.nan a.und true

def execQcut (w : Fields) (s : State) := runLong 0x8F none w s [] (reelBody qcutLane)

/-- `qstat` (R169). -/
def qstatLane (x : Ctx) (s : State) (l : Nat) : State × LaneRes :=
  let s := if x.fn = 1 ∨ x.fn = 2 then s.setReel x.uid (s.reelOf x.uid).sweepAll else s
  let r := s.reelOf x.uid
  let v := match x.fn with
    | 0 =>
      let q := x.q l x.w.a
      let fl := q.bits / 2 ^ 88 % 256 * 2 ^ 24
      match (s.loadSpilled x.b r).node? q.handle.toNat with
      | some n => fl + n.nfl * 2 ^ 16 + n.stage * 2 ^ 8 + n.count
      | none => fl
    | 1 => r.nodes.length
    | 2 => (r.nodes.filter (·.spilled)).length
    | _ => r.spills
  (s.updCrew x.uid x.ci fun c => wrvOf c x.clk l x.w x.w.d 32 v false, .next)

def execQstat (w : Fields) (s : State) := runLong 0x92 none w s [] (laneBody qstatLane)

/-! ### Comparison (R170) -/

/-- The test of R170 on two enclosures for `.lt`, `.le` and `.eq`. -/
def testLt (a b : Iv) : Option Bool := if a.2.lt b.1 then some true else if b.2.le a.1 then some false else none
def testLe (a b : Iv) : Option Bool := if a.2.le b.1 then some true else if b.2.lt a.1 then some false else none
def testEq (a b : Iv) : Option Bool :=
  if a.2.le a.1 && b.2.le b.1 && a.1.le b.1 && b.1.le a.1 then some true
  else if a.2.lt b.1 || b.2.lt a.1 then some false else none

/-- The test for a condition code. -/
def testCond (cond : Nat) (a b : Iv) : Option Bool :=
  match cond with
  | 0 => testEq a b
  | 1 => (testEq a b).map (!·)
  | 2 => testLt a b
  | 3 => testLe a b
  | 4 => testLt b a
  | _ => testLe b a

/-! ### The retake engine (R172 to R174) -/

/-- The handles that a request reaches: its operands' nodes and all below them. Nodes stand in the order of their appends,
so a child stands before its parents. -/
def Reel.reach (r : Reel) (roots : List Nat) : List Nat :=
  r.nodes.foldr (fun n acc => if acc.contains n.handle then acc ++ n.kids.filter (· != 0) else acc) (roots.filter (· != 0))

/-- The significand width of a stage. -/
def stageBits (s : Nat) : Nat := match s with | 1 => 53 | 2 => 106 | 3 => 212 | _ => 424

/-- The exact value of a point leaf. -/
def RNode.point (n : RNode) : Q :=
  match n.op with
  | 0x01 => (fp32.decode (n.payload % 2 ^ 32)).q
  | 0x02 => Q.ofInt (sext n.payload 64)
  | 0x03 => Q.ofInt (n.payload % 2 ^ 64 : Nat)
  | _ => Q.scale (Q.ofInt (sext n.payload 48)) (sext (n.payload / 2 ^ 48) 16)

/-- An enclosure found for a handle; the null handle is the point +0. -/
def envIv (env : List (Nat × Iv)) (h : Nat) : Iv :=
  match env.find? fun e => e.1 == h with
  | some e => e.2
  | none => (.fin ⟨0, 1⟩, .fin ⟨0, 1⟩)

/-- A dot leaf's value as an enclosure. -/
def dotIv (d : Option DotRes) : Iv := match d with | some (DotRes.val q) => (.fin q, .fin q) | _ => ivAll

/-- The reached nodes evaluated at a stage: their enclosures, and those that are UND with their ancestors. -/
def evalStage (r : Reel) (reach : List Nat) (dots : List (Nat × DotRes)) (p : Nat) : List (Nat × Iv) × List Nat :=
  r.nodes.foldl (fun acc n =>
    if !reach.contains n.handle then acc
    else
      let iv : Iv × Bool := match n.op with
        | 0x04 => (ivRound p (dotIv ((dots.find? fun d => d.1 == n.handle).map (·.2))), false)
        | 0x05 => ((Bd.ofBits (n.payload % 2 ^ 32), Bd.ofBits (n.payload / 2 ^ 32)), false)
        | op =>
          if op < 0x10 then (ivRound p (.fin n.point, .fin n.point), false)
          else
            let k : Nat → Iv := fun i => envIv acc.1 (n.kids.getD i 0)
            ivOp p op (k 0) (k 1) (k 2)
      let und := iv.2 || bitAt n.nfl 1 || n.kids.any acc.2.contains
      (acc.1 ++ [(n.handle, iv.1)], if und then acc.2 ++ [n.handle] else acc.2)) ([], [])

/-- The limit of the exact stage: 2^7,900 (R173). -/
def exactLimit : Nat := 2 ^ 7900
def Q.tooLarge (x : Q) : Bool := decide (x.num.natAbs ≥ exactLimit) || decide (x.den ≥ exactLimit)

/-- A dyadic rational with the least power of two below (R173). -/
def Q.dyadic (x : Q) : Q :=
  let g := Nat.gcd x.num.natAbs x.den
  ⟨x.num / (g : Int), x.den / g⟩

/-- The exact operations, unreduced (R173). -/
def exactAdd (x y : Q) : Q := ⟨x.num * y.den + y.num * x.den, x.den * y.den⟩
def exactDiv (x y : Q) : Q :=
  if y.num < 0 then ⟨-(x.num * y.den), x.den * y.num.natAbs⟩ else ⟨x.num * y.den, x.den * y.num.natAbs⟩

/-- The outcome of a node at the exact stage. -/
inductive ExRes where
  | val (q : Q)
  | und
  | tooLarge
deriving DecidableEq, Repr

/-- An exact operation on values. -/
def exactOp (op : Nat) (a b c : Q) : ExRes :=
  let lim : Q → ExRes := fun q => if q.tooLarge then .tooLarge else .val q
  match op with
  | 0x10 => lim (exactAdd a b)
  | 0x11 => lim (exactAdd a b.neg)
  | 0x12 => lim (a.mul b)
  | 0x13 => if (a.mul b).tooLarge then .tooLarge else lim (exactAdd (a.mul b) c)
  | 0x14 => if b.num = 0 then .und else lim (exactDiv a b)
  | 0x16 => lim a.neg
  | _ => lim a.abs

/-- A value found at the exact stage; the null handle is +0. -/
def envEx (env : List (Nat × ExRes)) (h : Nat) : ExRes :=
  match env.find? fun e => e.1 == h with
  | some e => e.2
  | none => .val ⟨0, 1⟩

/-- The reached nodes evaluated exactly; a node above one that is UND is UND, and above one that overflows has no value. -/
def evalExact (r : Reel) (reach : List Nat) (dots : List (Nat × DotRes)) : List (Nat × ExRes) :=
  r.nodes.foldl (fun acc n =>
    if !reach.contains n.handle then acc
    else
      let v : ExRes :=
        if n.op = 0x04 then
          (match (dots.find? fun d => d.1 == n.handle).map (·.2) with
          | some (DotRes.val q) => if q.dyadic.tooLarge then .tooLarge else .val q.dyadic
          | _ => .tooLarge)
        else if n.op < 0x10 then .val n.point.dyadic
        else
          let ks := n.kids.map (envEx acc)
          if ks.contains .und then .und
          else match ks with
            | [.val a] => exactOp n.op a ⟨0, 1⟩ ⟨0, 1⟩
            | [.val a, .val b] => exactOp n.op a b ⟨0, 1⟩
            | [.val a, .val b, .val c] => exactOp n.op a b c
            -- a divisor of exactly 0 makes the node UND whatever its numerator (R172, R174)
            | [_, .val b] => if n.op = 0x14 ∧ b.isZero then .und else .tooLarge
            | _ => .tooLarge
      acc ++ [(n.handle, v)]) []

/-- A refinement under way: the reel with its STAGE and NFL bytes, the best enclosure of the first operand, the last stage
reached, and how it ended. -/
structure Refined where
  reel : Reel
  best : Iv
  reached : Nat
  /-- R174's detail, 0 for none. -/
  detail : Nat
  ans : Option Bool
  exact : Option Q

/-- STAGE of evaluated nodes raised (R172). -/
def Reel.raise (r : Reel) (hs : List Nat) (stage : Nat) : Reel :=
  { r with nodes := mapWhere (fun n => hs.contains n.handle) (fun n => { n with stage := max n.stage stage }) r.nodes }

/-- NFL.UND set on nodes (R172). -/
def Reel.markUnd (r : Reel) (hs : List Nat) : Reel :=
  { r with nodes := mapWhere (fun n => hs.contains n.handle) (fun n => { n with nfl := n.nfl ||| nflUND }) r.nodes }

/-- The exact stage (R173): skipped where an operand has NOEX. -/
def refineExact (a b : Nat) (cond : Option Nat) (reach : List Nat) (dots : List (Nat × DotRes)) (st : Refined) : Refined :=
  let r := st.reel
  if bitAt (r.nfl a) 2 || bitAt (r.nfl b) 2 then
    { st with detail := if r.nodes.any fun n => reach.contains n.handle && n.op == 0x15 then 3 else 4 }
  else
    let env := evalExact r reach dots
    let und := (env.filter fun e => e.2 == .und).map (·.1)
    let done := (env.filter fun e => match e.2 with | .val _ => true | _ => false).map (·.1)
    let r := (r.raise (und ++ done) 5).markUnd und
    if !und.isEmpty then { st with reel := r, detail := 2 }
    else match envEx env a, envEx env b with
      | .val x, .val y =>
        let c := x.num * y.den - y.num * x.den
        { st with reel := r, reached := 5, best := (.fin x, .fin x), exact := some x,
                  ans := cond.map fun k => match k with
                    | 0 => decide (c = 0)
                    | 1 => decide (c ≠ 0)
                    | 2 => decide (c < 0)
                    | 3 => decide (c ≤ 0)
                    | 4 => decide (c > 0)
                    | _ => decide (c ≥ 0) }
      | _, _ => { st with reel := r, detail := 5 }

/-- The stages from `stage` up to `top` (R172, R176): stopped by a failure, or by a decision where there is a condition. -/
def refineFrom (a b : Nat) (cond : Option Nat) (reach : List Nat) (dots : List (Nat × DotRes)) (top : Nat) :
    Nat → Nat → Refined → Refined
  | 0, _, st => st
  | fuel + 1, stage, st =>
    if stage > top || st.detail != 0 || st.ans.isSome then st
    else if stage = 5 then refineExact a b cond reach dots st
    else
      let e := evalStage st.reel reach dots (stageBits stage)
      let r := (st.reel.raise (e.1.map (·.1)) stage).markUnd e.2
      let dead := dots.any fun d => match d.2 with | .val _ => false | _ => true
      if !e.2.isEmpty then { st with reel := r, detail := 2 }
      else if dead then { st with reel := st.reel, detail := 6 }
      else
        let x := envIv e.1 a
        let st := { st with reel := r, reached := stage, best := (st.best.1.max x.1, st.best.2.min x.2),
                            ans := cond.bind fun k => testCond k x (envIv e.1 b) }
        refineFrom a b cond reach dots top fuel (stage + 1) st

/-- A request's refinement (R172 to R174): the dot leaves it reaches are formed again, then the stages run; none while bytes of a leaf
are not at hand. -/
def State.refine (s : State) (blk : Block) (who a b : Nat) (cond : Option Nat) (best : Iv) (top : Nat) : State × Option Refined :=
  let r := s.loadSpilled blk (s.reelOf blk.uid)
  let reach := r.reach [a, b]
  let ds := r.nodes.filter fun n => n.op == 0x04 && reach.contains n.handle
  let q := ds.foldl (fun (acc : State × List (Nat × DotRes)) n =>
    let v := acc.1.dotValue blk who (n.payload % 2 ^ 53)
    (v.1, acc.2 ++ [(n.handle, v.2)])) (s, [])
  let nan := r.nodes.any fun n => reach.contains n.handle && bitAt n.nfl 0
  let st : Refined := { reel := r, best, reached := 0, detail := if nan then 1 else 0, ans := none, exact := none }
  let st := refineFrom a b cond reach q.2 top 5 1 st
  if q.2.any fun p => match p.2 with | .wait => true | _ => false then (q.1, none)
  else (q.1.setReel blk.uid st.reel, some st)

/-! ### Requests (R170 to R172) -/

/-- The lanes of one instruction that park for the engine, with A of each, as one sub-crew. -/
def Ctx.request (x : Ctx) (s : State) (lanes : List (Nat × Nat)) : State × List (Nat × LaneRes) :=
  match lanes with
  | [] => (s, [])
  | _ =>
    let (g, s) := s.fresh
    let s := lanes.foldl (fun (s : State) l =>
      let (id, s) := s.fresh
      { s with retakes := s.retakes ++ [⟨id, g, x.uid, x.ci, l.1, x.pc, x.len, x.op, x.w, l.2, x.clk, laneMask x.act, 0, none⟩] }) s
    (s, lanes.map fun l => (l.1, .park (.refine g)))

/-- UNDECIDED with a detail and operand A's handle (R326). -/
def undecidedF (detail h : Nat) : LaneFault := ⟨0x0A, detail, 0, h, 0⟩

/-- What a lane of `qcmp` comes to at issue: decided, failed with a detail, or a request. -/
def qcmpNow (cond : Nat) (a b : QReg) : Option (Except Nat Bool) :=
  if a.nan || b.nan then some (.error 1)
  else if a.und || b.und then some (.error 2)
  else if a.handle != 0 && a.handle == b.handle then some (.ok (condHolds cond false true))
  else (testCond cond a.iv b.iv).map .ok

/-- `qcmp` (R170). Where D and the validity field name one predicate, the validity is written last and stays (R170 orders the
two writes not; DESIGN CHOICE, log entry 69). -/
def qcmpBody (x : Ctx) : BodyRes :=
  let now := x.act.map fun l => (l, qcmpNow x.fn (x.q l x.w.a) (x.q l x.w.b))
  let soft := bitAt x.mod 3
  let put : State → Nat → Bool → Bool → State := fun s l r v =>
    s.updThread x.uid x.ci l fun t => (t.setPred x.w.d.toNat r).setPred (x.mod % 8) v
  let s := now.foldl (fun s p => match p.2 with
    | some (.ok r) => put s p.1 r true
    | some (.error _) => if soft then put s p.1 false false else s
    | none => s) x.s0
  let bad := now.filterMap fun p => match p.2 with
    | some (.error d) => if soft then none else some (p.1, LaneRes.fault (undecidedF d (x.q p.1 x.w.a).handle.toNat))
    | _ => none
  let r := x.request s (now.filterMap fun p => match p.2 with | none => some (p.1, 0) | _ => none)
  .done r.1 (bad ++ r.2)

def execQcmp (w : Fields) (s : State) := runLong 0x8B none w s [] qcmpBody

/-- `qldd` (R166): ALIGN and the range at issue, the rest by the engine. -/
def execQldd (w : Fields) (s : State) := runLong 0x81 none w s readsA fun x =>
  let bad := x.act.filterMap fun l => (checkGlobal (x.a l 64) 32).map fun f => (l, LaneRes.fault f)
  let ok := x.act.filter fun l => (checkGlobal (x.a l 64) 32).isNone
  let r := x.request x.s0 (ok.map fun l => (l, x.a l 64))
  .done r.1 (bad ++ r.2)

/-- `qref` and `qcutx` (R176, R178). -/
def refineBody (x : Ctx) : BodyRes :=
  let r := x.request x.s0 (x.act.map fun l => (l, 0))
  .done r.1 r.2

def execQref (w : Fields) (s : State) := runLong 0x8E none w s [] refineBody
def execQcutx (w : Fields) (s : State) := runLong 0x90 none w s [] refineBody

/-! ### The completion of requests -/

/-- The engine's answer to a request; none while it waits for bytes of a dot leaf. -/
def State.answer (s : State) (b : Block) (r : Retake) (t : Thread) : State × Option RetakeRes :=
  let who := cmdReader r.id
  let qa := t.qreg r.w.a.toNat
  let qb := t.qreg r.w.b.toNat
  match r.op with
  | 0x81 =>
    match s.dotValue b who r.a with
    | (s, .fault f) => (s, some (.fault f))
    | (s, .wait) => (s, none)
    | (s, .poison) => (s, some (.dot true 0 0))
    | (s, .val q) =>
      let v := Iv.toBits (.fin q, .fin q)
      (s, some (.dot false v.1 v.2))
  | 0x8B =>
    let q := s.refine b who qa.handle.toNat qb.handle.toNat (some r.w.fn.toNat) ivAll 5
    (q.1, q.2.map fun t => match t.ans with
      | some a => .decided a
      | none => .failed t.detail)
  | op =>
    let top := if op = 0x8E then r.w.fn.toNat else 5
    if qa.nan || qa.und then (s, some (.refined qa.lo.toNat qa.hi.toNat 0 qa.und none))
    else
      let q := s.refine b who qa.handle.toNat 0 none qa.iv top
      (q.1, q.2.map fun t =>
        let v := Iv.toBits t.best
        .refined v.1 v.2 t.reached (t.detail == 2) t.exact)

/-- m and e of an exact value m × 2^e with m odd, or 0 (R178); none where it does not fit an EXA leaf. -/
def exaOf (q : Q) : Option (Int × Int) :=
  if q.num = 0 then some (0, 0)
  else
    let d := q.dyadic
    let k := Nat.log2 d.den
    if d.den ≠ 2 ^ k then none
    else
      let tz := ffsOf (Nat.log2 d.num.natAbs + 1) d.num.natAbs
      let m := d.num / (2 : Int) ^ tz
      let e := (tz : Int) - k
      if m.natAbs < 2 ^ 47 && decide (-32768 ≤ e) && decide (e ≤ 32767) then some (m, e) else none

/-- A lane's completion of its instruction, once the whole sub-crew is answered: the fault it raises, or none. A `qcutx` whose
refinement finds its node UND writes an UND register and an UND leaf with the bounds (−∞, +∞), as R167 gives every UND result
(DESIGN CHOICE, log entry 70). -/
def State.completeRetake (s : State) (b : Block) (r : Retake) (t : Thread) : State × Option LaneFault :=
  let d := r.w.d.toNat
  let qa := t.qreg r.w.a.toNat
  let preds : State → Bool → Bool → State := fun s x y =>
    s.updThread r.uid r.ci r.lane fun t => (t.setPred d x).setPred (r.w.mod.toNat % 8) y
  match r.res with
  | none => (s, none)
  | some (.decided a) => (preds s a true, none)
  | some (.failed n) =>
    if bitAt r.w.mod.toNat 3 then (preds s false false, none) else (s, some (undecidedF n qa.handle.toNat))
  | some (.fault f) => (s, some f)
  | some (.dot nan lo hi) =>
    s.appendSet b r.ci r.lane d 0x04 [] (r.a % 2 ^ 53) (nflDOT ||| (if nan then nflNAN else 0))
      fun h => mkQ lo hi h nan false false
  | some (.refined lo hi reached und exact) =>
    if r.op = 0x8E then
      let s := s.setq r.uid r.ci r.lane d (mkQ lo hi qa.handle.toNat qa.nan (und || qa.und) qa.opq)
      (s.updThread r.uid r.ci r.lane fun t => t.setPred (r.w.mod.toNat % 8) (decide (reached ≥ r.w.fn.toNat) && !und), none)
    else match exact.bind exaOf with
      | some (m, e) =>
        s.appendSet b r.ci r.lane d 0x06 [] (wrapInt m 48 + wrapInt e 16 * 2 ^ 48) 0 fun h => mkQ lo hi h false false false
      | none =>
        let q := mkQ lo hi 0 qa.nan (und || qa.und) true
        s.appendSet b r.ci r.lane d 0x05 [] (q.lo.toNat + q.hi.toNat * 2 ^ 32)
          (nflNOEX ||| (if q.nan then nflNAN else 0) ||| (if q.und then nflUND else 0))
          fun h => mkQ lo hi h qa.nan (und || qa.und) true

/-- A parked lane whose instruction has completed: READY behind it. -/
def Thread.resumeAfter (t : Thread) (pc len : Nat) : Thread :=
  { t with st := .ready, pc := BitVec.ofNat 64 (pc + len), sweepI := 0 }

/-- The sub-crew of a group resumes: its lanes complete in ascending order (R172); from the first REEL on, none does. -/
def State.resumeGroup (s : State) (b : Block) (rs : List Retake) : State :=
  let r := rs.foldl (fun (a : State × Option LaneFault × List (Nat × LaneFault)) r =>
    match a.2.1 with
    | some f => (a.1, some f, a.2.2 ++ [(r.lane, f)])
    | none =>
      match a.1.thread? r.uid r.ci r.lane with
      | none => a
      | some t =>
        match a.1.completeRetake b r t with
        | (s, none) => (s.updThread r.uid r.ci r.lane fun t => t.resumeAfter r.pc r.len, none, a.2.2)
        | (s, some f) => (s, if f.cls = 0x0B then some f else none, a.2.2 ++ [(r.lane, f)])) (s, none, [])
  match rs with
  | [] => s
  | q :: _ =>
    let fs := r.2.2
    if fs.isEmpty then r.1
    else
      let s := fs.foldl (fun (s : State) f => s.updThread q.uid q.ci f.1 fun t => { t with st := .parked .replay }) r.1
      let bad := laneMask (fs.map fun f => f.1) ||| q.early
      let s := if bad = q.act then s else s.updCrew q.uid q.ci fun c => (c.inCycle (s.clockOf b.core)).setFmask bad
      s.takeFaults q.uid q.ci q.pc (q.pc + q.len) fs true false

/-- RETAKE_REQUEST_DONE (R171, R172): a core's retake engine finishes its oldest request; with the last of a sub-crew's the
sub-crew resumes. -/
def execRetakeRequestDone (id : Nat) (s : State) : Host.Outcome State Fault Refusal :=
  match s.retakes.find? fun r => r.id == id && r.res.isNone with
  | none => .next s
  | some r =>
    match s.block? r.uid, s.thread? r.uid r.ci r.lane with
    | some b, some t =>
      let earlier := s.retakes.takeWhile fun q => q.id != id
      let busy := earlier.any fun q => q.res.isNone && (match s.block? q.uid with
        | some c => c.core == b.core && c.state == .resident
        | none => false)
      if busy || b.state ≠ .resident then .next s
      else
        match s.answer b r t with
        | (s, none) => .next s
        | (s, some res) =>
          let s := s.endBring (dieOf b.core) (cmdReader id)
          let s : State := { s with retakes := mapWhere (fun q => q.id == id) (fun q => { q with res := some res }) s.retakes }
          let mine := s.retakes.filter fun q => q.group == r.group
          if mine.all fun q => q.res.isSome then
            .next ({ s with retakes := s.retakes.filter fun q => q.group != r.group }.resumeGroup b (sortBy (·.lane) mine))
          else .next s
    | _, _ => .next s

end Sys2Proof.Machine
end

