-- ==== Sys2Proof/Machine/Functions.lean ====
section
/-! DEFINITION. The functions whose results R138 only bounds: the exact value enclosed in fixed point, the values within
the bound, and the machine's fixed choice among them. -/

namespace Sys2Proof.Machine
open Sys2Proof

/-- Fractional bits of the fixed-point evaluations. The value nearest to a limit of R138's bound is that of `fcos` of the
least subnormal, 1 − 2^-296 beside 1: an evaluation good to 2^-380 decides every comparison (log entry 11). -/
def fxBits : Nat := 400

/-- ln 2 in fixed point, by ln 2 = 2 atanh (1/3). -/
def fxAtanhTerms (z2 p : Nat) : Nat → Nat → Nat
  | 0, _ => 0
  | n + 1, k => p / (2 * k + 1) + fxAtanhTerms z2 (p * z2 / 2 ^ fxBits) n (k + 1)

/-- 2 atanh z for a fixed-point z of at most 1/3. -/
def fxTwoAtanh (z : Nat) : Nat := 2 * fxAtanhTerms (z * z / 2 ^ fxBits) z 130 0

def fxLn2 : Nat := fxTwoAtanh (2 ^ fxBits / 3)

/-- The terms of the exponential series for a fixed-point argument. -/
def fxExpTerms (x p : Nat) : Nat → Nat → Nat
  | 0, _ => 0
  | n + 1, k => p + fxExpTerms x (p * x / (2 ^ fxBits * (k + 1))) n (k + 1)

/-- exp x for a fixed-point x in [0, 1]. -/
def fxExp (x : Nat) : Nat := fxExpTerms x (2 ^ fxBits) 80 0

/-- A rational of magnitude at most 1 in fixed point. -/
def fxOf (q : Q) : Nat := q.num.natAbs * 2 ^ fxBits / q.den

/-- 2^q for |q| ≤ 1. -/
def exp2Approx (q : Q) : Q :=
  let e : Q := ⟨fxExp (fxOf q * fxLn2 / 2 ^ fxBits), 2 ^ fxBits⟩
  if q.isNeg then Q.div ⟨1, 1⟩ e else e

/-- log2 q for q > 0: the exponent, and the series for the significand. -/
def log2Approx (q : Q) : Q :=
  let e := q.log2
  let m := q.scale (-e)
  let z := (m.sub ⟨1, 1⟩).div (m.add ⟨1, 1⟩)
  let f : Q := ⟨fxTwoAtanh (fxOf z), fxLn2⟩
  (Q.ofInt e).add f

/-- π in fixed point: the first 400 bits after the point (Machin's formula, 16 atan (1/5) − 4 atan (1/239)). -/
def fxAtanTerms (d p : Nat) : Nat → Nat → Int
  | 0, _ => 0
  | n + 1, k => (if k % 2 = 0 then (1 : Int) else -1) * (p / (2 * k + 1) : Nat) + fxAtanTerms d (p / (d * d)) n (k + 1)

/-- atan (1/d). -/
def fxAtanInv (d : Nat) : Int := fxAtanTerms d (2 ^ fxBits / d) 90 0
def fxPi : Nat := (16 * fxAtanInv 5 - 4 * fxAtanInv 239).toNat

/-- The series of sin x / x in t = x²: 1 − t/6 + t²/120 …, from the k-th term on. -/
def fxSincTerms (t p : Nat) : Nat → Nat → Int
  | 0, _ => 0
  | n + 1, k => (if k % 2 = 0 then (1 : Int) else -1) * (p : Int) +
      fxSincTerms t (p * t / (2 ^ fxBits * ((2 * k + 2) * (2 * k + 3)))) n (k + 1)

/-- sin (π q) for 0 < q ≤ 1/2: exact in q, so that small results keep their precision. -/
def sinPiSmall (q : Q) : Q :=
  let x := fxOf q * fxPi / 2 ^ fxBits
  let s := fxSincTerms (x * x / 2 ^ fxBits) (2 ^ fxBits) 60 0
  q.mul ⟨s * fxPi, 2 ^ (2 * fxBits)⟩

/-- `q` modulo 2, in [0, 2). -/
def mod2 (q : Q) : Q := q.sub (Q.ofInt (2 * (q.scale (-1)).floor))

/-- sin (π q) for q that is no multiple of 1/2. -/
def sinPi (q : Q) : Q :=
  let r := mod2 q
  let neg := Q.le ⟨1, 1⟩ r
  let r := if neg then r.sub ⟨1, 1⟩ else r
  let r := if Q.lt ⟨1, 2⟩ r then Q.sub ⟨1, 1⟩ r else r
  if neg then (sinPiSmall r).neg else sinPiSmall r

/-- cos (π q) = sin (π (q + 1/2)). -/
def cosPi (q : Q) : Q := sinPi (q.add ⟨1, 2⟩)

/-! ### The bound (R138) -/

/-- ulp of R138. -/
def ulpQ (x : Q) : Q :=
  let e := x.log2
  Q.scale ⟨1, 1⟩ (if e < -126 then -149 else e - 23)

/-- The value of a magnitude's bits, with the bits of infinity read as 2^128. -/
def magValue (m : Nat) : Q := if m ≥ fp32.infBits false then Q.scale ⟨1, 1⟩ 128 else (fp32.decode m).q

/-- The FP32 magnitudes within `k` ulp of a positive value, in ascending order. -/
def withinBound (y : Q) (k : Nat) : List Nat :=
  let m := (roundQ fp32 .rz false y).1
  let bound := (Q.ofInt k).mul (ulpQ y)
  let lo := m - (3 * k + 2)
  ((List.range (6 * k + 5)).map (lo + ·)).filter fun c =>
    decide (c ≤ fp32.infBits false) && ((magValue c).sub y).abs.lt bound

/-- The result of a function for an inexact value: NX, UF for a tiny result, OF for an infinite one (R138). -/
def boundedResult (fn bits k : Nat) (y : Q) : FRes :=
  let neg := y.isNeg
  if (Q.scale ⟨1, 1⟩ 128).le y.abs then (fp32.infBits neg, fOF ||| fNX)
  else
    let cs := withinBound y.abs k
    let m := cs.getD (Config.functionChoice fn bits (cs.length - 1) % cs.length) (fp32.infBits false)
    let fl := if m = fp32.infBits false then fOF ||| fNX else if m < 2 ^ 23 then fUF ||| fNX else fNX
    (ofBool neg * 2 ^ 31 + m, fl)

/-- Whether a positive rational is a power of two. -/
def isPow2 (q : Q) : Bool := q.eq (Q.scale ⟨1, 1⟩ q.log2)

/-- A NaN input (R138). -/
def fnNan (s : Bool) : FRes := (fp32.nanBits, if s then fNV else 0)

/-- `fexp` (R138); the values of R395 are fixed. -/
def fnExp (a : Nat) : FRes :=
  match fp32.decode a with
  | .nan s => fnNan s
  | .inf _ => fp32.invalid
  | .fin _ q =>
    if Q.lt ⟨1, 1⟩ q.abs then fp32.invalid
    else if q.isZero then (0x3F800000, 0)
    else if q.eq ⟨1, 1⟩ then (0x40000000, 0)
    else if q.eq ⟨-1, 1⟩ then (0x3F000000, 0)
    else if q.eq ⟨1, 2⟩ then (0x3FB504F3, fNX)
    else if q.eq ⟨-1, 2⟩ then (0x3F3504F3, fNX)
    else boundedResult 0 a 1 (exp2Approx q)

/-- `flog` (R138). -/
def fnLog (a : Nat) : FRes :=
  match fp32.decode a with
  | .nan s => fnNan s
  | .inf n => if n then fp32.invalid else (fp32.infBits false, 0)
  | .fin _ q =>
    if q.isZero then (fp32.infBits true, fDZ)
    else if q.isNeg then fp32.invalid
    else if isPow2 q then ((roundQ fp32 .rne false (Q.ofInt q.log2)).1, 0)
    else boundedResult 1 a 2 (log2Approx q)

/-- `frcp` (R138): exact where the reciprocal of a power of two is normal. -/
def fnRcp (a : Nat) : FRes :=
  match fp32.decode a with
  | .nan s => fnNan s
  | .inf n => (fp32.zeroBits n, 0)
  | .fin n q =>
    if q.isZero then (fp32.infBits n, fDZ)
    else
      let y := Q.div ⟨1, 1⟩ q
      if isPow2 q.abs && decide (-126 ≤ y.log2) && decide (y.log2 ≤ 127) then ((roundQ fp32 .rne n y).1, 0)
      else boundedResult 2 a 1 y

/-- `frsq` (R138). -/
def fnRsq (a : Nat) : FRes :=
  match fp32.decode a with
  | .nan s => fnNan s
  | .inf n => if n then fp32.invalid else (fp32.zeroBits false, 0)
  | .fin n q =>
    if q.isZero then (fp32.infBits n, fDZ)
    else if q.isNeg then fp32.invalid
    else
      let y := sqrtSurrogate (Q.div ⟨1, 1⟩ q) 128
      if isPow2 q && q.log2 % 2 == 0 then ((roundQ fp32 .rne false y).1, 0) else boundedResult 3 a 1 y

/-- A value that is an integer. -/
def Q.isInt (q : Q) : Bool := decide (q.num % (q.den : Int) = 0)

/-- `fsin` (R138): exact at multiples of 1/2. -/
def fnSin (a : Nat) : FRes :=
  match fp32.decode a with
  | .nan s => fnNan s
  | .inf _ => fp32.invalid
  | .fin n q =>
    if q.isInt then (fp32.zeroBits n, 0)
    else if (q.scale 1).isInt then (if q.floor % 2 = 0 then 0x3F800000 else 0xBF800000, 0)
    else boundedResult 4 a 2 (sinPi q)

/-- `fcos` (R138). -/
def fnCos (a : Nat) : FRes :=
  match fp32.decode a with
  | .nan s => fnNan s
  | .inf _ => fp32.invalid
  | .fin _ q =>
    if q.isInt then (if q.floor % 2 = 0 then 0x3F800000 else 0xBF800000, 0)
    else if (q.scale 1).isInt then (fp32.zeroBits false, 0)
    else boundedResult 5 a 2 (cosPi q)

end Sys2Proof.Machine
end

