-- ==== Sys2Proof/Machine/Vector.lean ====
section
/-! DEFINITION. The vector class 0x40 to 0x5E (R129 to R155): element-wise floats, functions, conversions, block and
residue encodings, random streams, ragged rows, `vxwalk` and `front`, with the sweep forms (R63 to R65, R140). -/

namespace Sys2Proof.Machine
open Sys2Proof

/-! ### Draws (R25, R44, R45) -/

/-- The rounding modes of `n` elements of a lane in order: under .sr each takes a draw. -/
def drawModes (rm key : Nat) (n c : Nat) : List Rm × Nat × Nat :=
  if rm ≥ 4 then
    let d := drawWords key n c
    (d.1.map Rm.sr, d.2.1, d.2.2)
  else (List.replicate n (Rm.ofCode rm 0), c, 0)

/-- The rounding code of an instruction. -/
def Ctx.rm (x : Ctx) : Nat := x.mod % 8

/-- A lane's random counter as it stood at issue. -/
def Ctx.count (x : Ctx) (l : Nat) : Nat := (x.t l).rand.toNat

/-! ### Element-wise arithmetic (R131, R132) -/

/-- The format of FN (R131). -/
def fnFmt (fn : Nat) : FloatFmt := if fn = 0 then fp32 else fp16
/-- The bits of an element of a format. -/
def FloatFmt.bits (f : FloatFmt) : Nat := 1 + f.eb + f.fb

/-- An operation on one element of A, B and C. -/
abbrev ElemFn := FloatFmt → Rm → Nat → Nat → Nat → FRes

/-- An operation on the elements of packed operands, each with its rounding mode: the packed result and the flags. -/
def packedOp (fmt : FloatFmt) (f : ElemFn) (rms : List Rm) (a b c : Nat) : Nat × Nat :=
  let n := fmt.bits
  let rs := rms.zipIdx.map fun p => f fmt p.1 (elemAt a n p.2) (elemAt b n p.2) (elemAt c n p.2)
  (packElems n (rs.map (·.1)), rs.foldl (fun a r => a ||| r.2) 0)

def elemAdd : ElemFn := fun f rm a b _ => fAdd f rm (f.decode a) (f.decode b)
def elemSub : ElemFn := fun f rm a b _ => fAdd f rm (f.decode a) (f.decode b).neg
def elemMul : ElemFn := fun f rm a b _ => fMul f rm (f.decode a) (f.decode b)
/-- `ffma`: 0 × ∞ sets NV even with a quiet NaN addend (R131). -/
def elemFma : ElemFn := fun f rm a b c =>
  let x := f.decode a
  let y := f.decode b
  let r := fFma f rm x y (f.decode c)
  (r.1, if (x.isZero && y.isInf) || (x.isInf && y.isZero) then r.2 ||| fNV else r.2)
def elemMin : ElemFn := fun f _ a b _ => fMinMax f false a b
def elemMax : ElemFn := fun f _ a b _ => fMinMax f true a b
/-- A function of one FP32 element. -/
def elemFn1 (g : Nat → FRes) : ElemFn := fun _ _ a _ _ => g a

/-- A register form of an element operation: one FP32 or two FP16 elements. -/
def floatEff (fmt : FloatFmt) (rm : Nat) (f : ElemFn) (x : Ctx) (l : Nat) : Except LaneFault Eff :=
  let d := drawModes rm (x.key l) (32 / fmt.bits) (x.count l)
  let r := packedOp fmt f d.1 (x.a l 32) (x.bv l 32) (x.cv l 32)
  .ok { x.out 32 r.1 with flags := r.2 ||| d.2.2, rand := some d.2.1 }

/-! ### Sweeps (R63 to R65, R140) -/

/-- What a sweep does in one lane and iteration: bytes read at A and B and D, bytes written at D. -/
structure SweepOp where
  sizeA : Nat
  sizeB : Nat
  sizeD : Nat
  /-- The bytes of D's slot that an iteration reads (R144). -/
  readsD : Nat
  /-- Lane, random counter, bytes at A, B and D: the bytes written, the flags, the next counter. -/
  run : Nat → Nat → List Byte → List Byte → List Byte → List Byte × Nat × Nat

/-- The address of a swept operand at an iteration (R64). -/
def sweepAddr (x : Ctx) (l : Nat) (code : BitVec 9) (step : BitVec 6) (i : Nat) : Nat :=
  wrapInt ((x.rd l code 32 : Int) + 32 * step.toInt * i) 32

/-- A fault of a sweep at an iteration (R65, R326). -/
def sweepFault (f : LaneFault) (i : Nat) : LaneFault := { f with einfo := f.einfo + i * 2 ^ 52 }

/-- The checks and the wait of one lane before an iteration (R65, R235, R256), on segments with their sizes and direction: a
line that is read and marked uncorrectable raises POISON (R393). -/
def sweepCheck (x : Ctx) (s : State) (segs : List (Nat × Nat × Bool)) (i : Nat) : Option LaneRes :=
  match segs.find? fun g => g.1 % 32 != 0 with
  | some g => some (.fault (sweepFault (alignF g.1 5) i))
  | none =>
    match segs.find? fun g => decide (g.1 + g.2.1 > x.b.sheet.scratch) with
    | some g => some (.fault (sweepFault (protF 0x01 g.1) i))
    | none =>
      match segs.find? fun g => !g.2.2 && x.badScratch s g.1 g.2.1 with
      | some g => some (.fault (sweepFault (poisonF g.1) i))
      | none => (segs.findSome? fun g => s.rangeWait x.uid g.1 g.2.1 g.2.2).map fun id => .again (.range id)

/-- The lanes of a sweep after some iterations: those that have stopped, with the iteration. -/
abbrev SweepStop := List (Nat × LaneRes × Nat)

/-- One iteration: every lane that runs is checked and reads, then they write in ascending order (R64). The flags of an
iteration are set as it completes, also in a lane that faults at a later one (R27, R65 leave the time open; DESIGN CHOICE,
log entry 66). -/
def sweepIter (x : Ctx) (op : SweepOp) (sd sa sb : BitVec 6) (i : Nat) (st : State × SweepStop) : State × SweepStop :=
  let s := st.1
  let lanes := x.act.filter fun l => decide ((x.t l).sweepI ≤ i) && !st.2.any fun p => p.1 == l
  let segs : Nat → Nat × Nat × Nat := fun l =>
    (sweepAddr x l x.w.d sd i, sweepAddr x l x.w.a sa i, sweepAddr x l x.w.b sb i)
  let checks := lanes.map fun l =>
    let g := segs l
    (l, sweepCheck x s ((if op.readsD ≠ 0 then [(g.1, op.readsD, false)] else []) ++ [(g.1, op.sizeD, true), (g.2.1, op.sizeA, false)] ++
      (if op.sizeB = 0 then [] else [(g.2.2, op.sizeB, false)])) i)
  let stops := checks.filterMap fun p => p.2.map fun r => (p.1, r, i)
  let run := (checks.filter fun p => p.2.isNone).map (·.1)
  let outs := run.map fun l =>
    let g := segs l
    let c := match s.thread? x.uid x.ci l with | some t => t.rand.toNat | none => 0
    (l, g.1, op.run l c (s.scratchRead x.uid g.2.1 op.sizeA) (s.scratchRead x.uid g.2.2 op.sizeB)
      (s.scratchRead x.uid g.1 op.sizeD))
  let s := outs.foldl (fun (s : State) o =>
    let s := s.scratchWrite x.uid o.2.1 o.2.2.1
    s.updCrew x.uid x.ci fun c =>
      (c.updThread o.1 fun t => { t with rand := BitVec.ofNat 48 o.2.2.2.2 }).setFlags o.2.2.2.1) s
  (s, st.2 ++ stops)

/-- A sweep: CNT iterations; a lane that stops keeps the iteration at which it resumes (R65). -/
def sweepBody (op : Ctx → SweepOp) (x : Ctx) : BodyRes :=
  match x.w.ext with
  | .sweep cnt sd sa sb =>
    let r := (List.range cnt.toNat).foldl (fun st i => sweepIter x (op x) sd sa sb i st) (x.s0, [])
    let s := r.2.foldl (fun (s : State) p => s.updThread x.uid x.ci p.1 fun t => { t with sweepI := p.2.2 }) r.1
    .done s (r.2.map fun p => (p.1, p.2.1))
  | _ => .done x.s0 []

/-- A sweep of an element operation over 32-byte segments; C is read once per lane (R140). -/
def elemSweep (fmt : FloatFmt) (rm : Nat) (f : ElemFn) (two : Bool) (x : Ctx) : SweepOp :=
  let n := 256 / fmt.bits
  { sizeA := 32, sizeB := if two then 32 else 0, sizeD := 32, readsD := 0,
    run := fun l c a b _ =>
      let d := drawModes rm (x.key l) n c
      let cc := packElems 32 (List.replicate 8 (x.cv l 32))
      let r := packedOp fmt f d.1 (fromBytes a) (fromBytes b) cc
      (toBytes r.1 32, r.2 ||| d.2.2, d.2.1) }

/-- Whether an instruction is in the sweep form. -/
def Ctx.isSweep (x : Ctx) : Bool := match x.w.ext with | .sweep _ _ _ _ => true | _ => false

/-- An element operation in its register or sweep form. -/
def elemBody (two : Bool) (f : ElemFn) (x : Ctx) : BodyRes :=
  let fmt := fnFmt x.fn
  if x.isSweep then sweepBody (elemSweep fmt x.rm f two) x else regBody (floatEff fmt x.rm f) x

def execFadd (w : Fields) (s : State) := runLong 0x40 none w s readsAB (elemBody true elemAdd)
def execFaddShort (f : ShortFields) (s : State) := runShort 0x40 f s readsAB (elemBody true elemAdd)
def execFsub (w : Fields) (s : State) := runLong 0x41 none w s readsAB (elemBody true elemSub)
def execFmul (w : Fields) (s : State) := runLong 0x42 none w s readsAB (elemBody true elemMul)
def execFmulShort (f : ShortFields) (s : State) := runShort 0x42 f s readsAB (elemBody true elemMul)
def execFfma (w : Fields) (s : State) := runLong 0x43 none w s readsABC (elemBody true elemFma)
def execFmin (w : Fields) (s : State) := runLong 0x44 none w s readsAB (elemBody true elemMin)
def execFminShort (f : ShortFields) (s : State) := runShort 0x44 f s readsAB (elemBody true elemMin)
def execFmax (w : Fields) (s : State) := runLong 0x45 none w s readsAB (elemBody true elemMax)

/-! ### Comparison and classification (R133, R134) -/

/-- `fcmp` (R133). -/
def fcmpEff (x : Ctx) (l : Nat) : Except LaneFault Eff :=
  let a := fp32.decode (x.a l 32)
  let b := fp32.decode (x.bv l 32)
  let un := a.isNan || b.isNan
  let c := fvCompare a b
  let r := match x.fn with
    | 0 => !un && c == 0
    | 1 => un || c != 0
    | 2 => !un && decide (c < 0)
    | 3 => !un && decide (c ≤ 0)
    | 4 => !un && decide (c > 0)
    | 5 => !un && decide (c ≥ 0)
    | 6 => un
    | _ => !un
  .ok { preds := [(x.w.d.toNat, r)], flags := snanFlag [a, b] }

def execFcmp (w : Fields) (s : State) := runLong 0x46 none w s readsAB (regBody fcmpEff)

/-- The class bit of an FP32 value (R134). -/
def classBit (v : Nat) : Nat :=
  let neg := bitAt v 31
  let sub := bitsOf v 23 8 == 0
  match fp32.decode v with
  | .nan s => if s then 8 else 9
  | .inf n => if n then 0 else 7
  | .fin _ q =>
    if q.isZero then (if neg then 3 else 4)
    else if sub then (if neg then 2 else 5)
    else if neg then 1 else 6

def execFclass (w : Fields) (s : State) := runLong 0x47 none w s readsAB (regBody fun x l =>
  .ok { preds := [(x.w.d.toNat, bitAt (x.bv l 32) (classBit (x.a l 32)))] })

/-! ### Rounding to integral and exponents (R135 to R137) -/

/-- `frnd` (R135): the sign is kept, and no flag but NV is set. -/
def frndElem : ElemFn := fun f rm a _ _ =>
  match f.decode a with
  | .nan s => (f.nanBits, if s then fNV else 0)
  | .inf n => (f.infBits n, 0)
  | .fin n q =>
    let r := (roundInt rm q).1
    (if r = 0 then f.zeroBits n else (roundQ f .rne n (Q.ofInt r)).1, 0)

def execFrnd (w : Fields) (s : State) := runLong 0x48 none w s readsA (regBody fun x l => floatEff fp32 x.rm frndElem x l)

/-- A function of one FP32 value in its register or sweep form. -/
def fnBody (g : Nat → FRes) (x : Ctx) : BodyRes :=
  if x.isSweep then sweepBody (elemSweep fp32 0 (elemFn1 g) false) x else regBody (floatEff fp32 0 (elemFn1 g)) x

def execFexp (w : Fields) (s : State) := runLong 0x49 none w s readsA (fnBody fnExp)
def execFlog (w : Fields) (s : State) := runLong 0x4A none w s readsA (fnBody fnLog)
def execFrcp (w : Fields) (s : State) := runLong 0x4B none w s readsA (fnBody fnRcp)
def execFrsq (w : Fields) (s : State) := runLong 0x4C none w s readsA (fnBody fnRsq)
def execFsin (w : Fields) (s : State) := runLong 0x4F none w s readsA (fnBody fnSin)
def execFcos (w : Fields) (s : State) := runLong 0x50 none w s readsA (fnBody fnCos)

/-- `fsqrt` and `fdiv` (R139). -/
def elemSqrt : ElemFn := fun f rm a _ _ => fSqrt f rm (f.decode a)
def elemDiv : ElemFn := fun f rm a b _ => fDiv f rm (f.decode a) (f.decode b)

def execFsqrt (w : Fields) (s : State) := runLong 0x4D none w s readsA fun x =>
  if x.isSweep then sweepBody (elemSweep fp32 x.rm elemSqrt false) x else regBody (floatEff fp32 x.rm elemSqrt) x
def execFdiv (w : Fields) (s : State) := runLong 0x4E none w s readsAB (regBody fun x l => floatEff fp32 x.rm elemDiv x l)

/-- `expins` (R136): an exponent beyond ±400 rounds as ±400 does. -/
def expinsElem : ElemFn := fun f rm a b _ =>
  let x := f.decode a
  let y := f.decode b
  let fl := snanFlag [x, y]
  match y with
  | .nan _ => (f.nanBits, fl)
  | .inf n => (if n then f.zeroBits false else f.infBits false, fl)
  | .fin _ q =>
    match x with
    | .nan _ => (f.nanBits, fl)
    | .inf n => (f.infBits n, 0)
    | .fin n p =>
      if p.isZero then (f.zeroBits n, 0)
      else roundQ f rm n (p.scale (clampInt (roundInt .rz q).1 (-400) 400))

def execExpins (w : Fields) (s : State) := runLong 0x51 none w s readsAB (regBody fun x l => floatEff fp32 x.rm expinsElem x l)

/-- `expext` (R137). -/
def expextElem (man : Bool) : ElemFn := fun f _ a _ _ =>
  match f.decode a with
  | .nan s => (f.nanBits, if s then fNV else 0)
  | .inf n => (f.infBits (man && n), 0)
  | .fin n q =>
    if q.isZero then (if man then (f.zeroBits n, 0) else (f.infBits true, fDZ))
    else
      let e := q.abs.log2
      if man then roundQ f .rne n (q.scale (-e)) else roundQ f .rne false (Q.ofInt e)

def execExpext (w : Fields) (s : State) := runLong 0x52 none w s readsA (regBody fun x l =>
  floatEff fp32 0 (expextElem (x.fn == 1)) x l)

/-! ### Conversions (R141) -/

/-- The bits of a `cvt` type and whether it is signed (R129). -/
def cvtBits (t : Nat) : Nat := match t with | 1 => 16 | 4 => 64 | 5 => 64 | 6 => 16 | 7 => 16 | _ => 32
def cvtSigned (t : Nat) : Bool := t % 2 == 0
def cvtFmt (t : Nat) : FloatFmt := if t = 0 then fp32 else fp16
def cvtMin (t : Nat) : Int := if cvtSigned t then intMin (cvtBits t) else 0
def cvtMax (t : Nat) : Int := if cvtSigned t then intMax (cvtBits t) else (2 : Int) ^ cvtBits t - 1

/-- One converted element. -/
def cvtElem (dt st : Nat) (rm : Rm) (a : Nat) : FRes :=
  let a := a % 2 ^ cvtBits st
  if cvtIsFloat st then
    let v := (cvtFmt st).decode a
    if cvtIsFloat dt then fConv (cvtFmt dt) rm v
    else
      match v with
      | .nan _ => (0, fNV)
      | .inf n => (wrapInt (if n then cvtMin dt else cvtMax dt) (cvtBits dt), fNV)
      | .fin _ q =>
        let r := roundInt rm q
        if r.1 < cvtMin dt || r.1 > cvtMax dt then (wrapInt (clampInt r.1 (cvtMin dt) (cvtMax dt)) (cvtBits dt), fNV)
        else (wrapInt r.1 (cvtBits dt), if r.2 then fNX else 0)
  else
    let v : Int := if cvtSigned st then sext a (cvtBits st) else (a : Int)
    roundQ (cvtFmt dt) rm false (Q.ofInt v)

/-- A sweep of `cvt`: 8 or 16 elements of one width (R140). -/
def cvtSweep (x : Ctx) : SweepOp :=
  let st := x.w.b.toNat
  let n := cvtBits st
  { sizeA := 32, sizeB := 0, sizeD := 32, readsD := 0,
    run := fun l c a _ _ =>
      let d := drawModes x.rm (x.key l) (256 / n) c
      let rs := d.1.zipIdx.map fun p => cvtElem x.fn st p.1 (elemAt (fromBytes a) n p.2)
      (toBytes (packElems n (rs.map (·.1))) 32, rs.foldl (fun a r => a ||| r.2) d.2.2, d.2.1) }

def execCvt (w : Fields) (s : State) := runLong 0x53 none w s readsA fun x =>
  if x.isSweep then sweepBody cvtSweep x
  else regBody (fun x l =>
    let st := x.w.b.toNat
    let d := drawModes x.rm (x.key l) 1 (x.count l)
    let r := cvtElem x.fn st (d.1.headD .rne) (if st = 4 then x.rdS l x.w.a 64 else x.a l (cvtWidth st))
    .ok { x.out (cvtWidth x.fn) r.1 with flags := r.2 ||| d.2.2, rand := some d.2.1 }) x

/-! ### Block encodings (R142 to R146) -/

/-- The width and sign of a BZ instruction (R129). -/
def Ctx.bzWidth (x : Ctx) : Nat := widthOfCode x.fn
def Ctx.bzSigned (x : Ctx) : Bool := !bitAt x.mod 3

/-- The fields of a control word (R143). -/
def ctlE (c : Nat) : Nat := bitsOf c 0 8
def ctlThr (c : Nat) : Nat := min (bitsOf c 8 7) 64
def ctlPol (c : Nat) : Nat := bitsOf c 15 1
def ctlPuc (c : Nat) : Nat := bitsOf c 16 7

/-- The active lanes of a lane's group of `k` lanes. -/
def Ctx.group (x : Ctx) (k l : Nat) : List Nat := x.act.filter fun m => m / k == l / k

/-- The 64 elements of a group's block, `cnt` a lane: each active lane's, padding elsewhere. -/
def groupBlock {α : Type} (lanes : List Nat) (k cnt : Nat) (pad : α) (f : Nat → List α) : List α :=
  (List.range 64).map fun j =>
    match lanes.find? fun m => m % k == j / cnt with
    | some m => (f m).getD (j % cnt) pad
    | none => pad

/-- The rounding modes and counters of a group: every active lane draws for its own elements (R25). -/
def groupModes (x : Ctx) (lanes : List Nat) (k cnt : Nat) : List Rm :=
  groupBlock lanes k cnt Rm.rne fun m => (drawModes x.rm (x.key m) cnt (x.count m)).1

/-- The effect of a lane whose group encodes a block: its codes and the header. -/
def encodedEff (x : Ctx) (l k cnt : Nat) (blk : BzBlock) : Eff :=
  let n := x.bzWidth
  let d := drawModes x.rm (x.key l) cnt (x.count l)
  let codes := (List.range cnt).map fun i => blk.codes.getD (l % k * cnt + i) 0
  { x.out 64 (packElems n codes + blk.header * 2 ^ 32) with flags := blk.flags ||| d.2.2, rand := some d.2.1 }

/-- The format of a shape's elements (R143). -/
def shapeFmt (shape : Nat) : FloatFmt := if shape = 2 then fp16 else fp32

/-- `cvq` in the register form (R143). -/
def cvqEff (x : Ctx) (l : Nat) : Except LaneFault Eff :=
  let shape := x.w.b.toNat
  let cnt := shapeCount shape
  let k := 64 / cnt
  let f := shapeFmt shape
  let lanes := x.group k l
  let ctl := x.cv (lanes.headD l) 32
  let width := if shape = 0 then 64 else 128
  let xs := groupBlock lanes k cnt none fun m =>
    (unpackElems (x.a m width) f.bits cnt).map fun v => some (f.decode v)
  let blk := bzEncode xs (ctlE ctl) (bzHeader false (ctlPuc ctl) 0) (ctlPol ctl) (ctlThr ctl) x.bzWidth x.bzSigned
    (groupModes x lanes k cnt)
  .ok (encodedEff x l k cnt blk)

/-- The bytes of a block slot (R142). -/
def slotBytes (n : Nat) : Nat := 32 * (1 + (n + 3) / 4)

/-- A block in its slot (R142). -/
def slotOf (n : Nat) (blk : BzBlock) : List Byte :=
  (toBytes blk.header 2 ++ List.replicate 30 0 ++ bzString n blk.codes ++ List.replicate 32 0).take (slotBytes n)

/-- `cvq` in the sweep form (R144). -/
def cvqSweep (x : Ctx) : SweepOp :=
  let f := shapeFmt x.w.b.toNat
  let n := x.bzWidth
  { sizeA := 64 * f.bits / 8, sizeB := 0, sizeD := slotBytes n, readsD := 2,
    run := fun l c a _ prev =>
      let ctl := x.cv l 32
      let ph := fromBytes (prev.take 2)
      let d := drawModes x.rm (x.key l) 64 c
      let xs := (unpackElems (fromBytes a) f.bits 64).map fun v => some (f.decode v)
      let blk := bzEncode xs (if bitAt ctl 23 then ph % 256 else ctlE ctl) ph (ctlPol ctl) (ctlThr ctl) n x.bzSigned d.1
      (slotOf n blk, blk.flags ||| d.2.2, d.2.1) }

/-- `cvq` (R143, R144): the control word is read once for each group. -/
def execCvq (w : Fields) (s : State) :=
  let shape := w.b.toNat
  runLong 0x54 none w s [⟨0, 1⟩, ⟨2, match w.ext with | .sweep _ _ _ _ => 1 | _ => 64 / shapeCount shape⟩] fun x =>
    if x.isSweep then sweepBody cvqSweep x else regBody cvqEff x

/-- Decoded elements of a lane. -/
def decodeElems (f : FloatFmt) (x : Ctx) (hdr : Nat) (rms : List Rm) (codes : List Nat) : Nat × Nat :=
  let rs := (codes.zip rms).map fun p => bzDecode f x.bzSigned x.bzWidth (bzE hdr) p.1 p.2
  (packElems f.bits (rs.map (·.1)), rs.foldl (fun a r => a ||| r.2) 0)

/-- `cvd` in the register form (R145). -/
def cvdEff (x : Ctx) (l : Nat) : Except LaneFault Eff :=
  let shape := x.w.b.toNat
  let n := x.bzWidth
  let cnt := shapeCount shape
  let k := 64 / cnt
  let f := shapeFmt shape
  let lanes := x.group k l
  let low := lanes.headD l
  let hdr := bitsOf (x.a low 64) 32 16
  let d := drawModes x.rm (x.key l) cnt (x.count l)
  let width := if shape = 1 ∨ shape = 2 then 128 else 64
  let codesOf : Nat → List Nat := fun m => unpackElems (x.a m 64 % 2 ^ 32) n cnt
  let r : Nat × Nat :=
    if shape = 3 then
      let sigma := x.cv low 64
      let vs := groupBlock lanes k cnt (some ⟨0, 1⟩) fun m =>
        (codesOf m).map fun c => bzValue x.bzSigned n (bzE hdr) c
      if vs.any Option.isNone || bzE hdr = 255 then (packElems 32 (List.replicate cnt fp32.nanBits), 0)
      else
        let ys := wht64Inv (vs.map fun v => Fv.fin false (v.getD ⟨0, 1⟩)) sigma
        let rs := d.1.zipIdx.map fun p => roundQ fp32 p.1 false ((ys.getD (l % k * cnt + p.2) (.fin false ⟨0, 1⟩)).q)
        (packElems 32 (rs.map (·.1)), rs.foldl (fun a r => a ||| r.2) 0)
    else decodeElems f x hdr d.1 (codesOf l)
  .ok { x.out width r.1 with flags := r.2 ||| d.2.2, rand := some d.2.1 }

/-- `cvd` in the sweep form (R140). -/
def cvdSweep (x : Ctx) : SweepOp :=
  let f := shapeFmt x.w.b.toNat
  let n := x.bzWidth
  { sizeA := slotBytes n, sizeB := 0, sizeD := 64 * f.bits / 8, readsD := 0,
    run := fun l c a _ _ =>
      let d := drawModes x.rm (x.key l) 64 c
      let r := decodeElems f x (fromBytes (a.take 2)) d.1 (unpackElems (fromBytes (a.drop 32)) n 64)
      (toBytes r.1 (64 * f.bits / 8), r.2 ||| d.2.2, d.2.1) }

/-- `cvd` (R145): the header is the one of each group's lowest active lane. -/
def execCvd (w : Fields) (s : State) :=
  let shape := w.b.toNat
  let k := match w.ext with | .sweep _ _ _ _ => 1 | _ => 64 / shapeCount shape
  runLong 0x55 none w s ([⟨0, 1⟩, ⟨0, k⟩] ++ (if shape = 3 then [⟨2, 32⟩] else [])) fun x =>
    if x.isSweep then sweepBody cvdSweep x else regBody cvdEff x

/-- `hadq` (R146): the transform of the crew's block, then its encoding; only active lanes' outputs are real. -/
def hadqEff (x : Ctx) (l : Nat) : Except LaneFault Eff :=
  let low := x.low
  let ctl := x.bv low 32
  let xs := groupBlock x.act 32 2 (Fv.fin false ⟨0, 1⟩) fun m => (unpackElems (x.a m 64) 32 2).map fp32.decode
  let ys := wht64 xs (x.cv low 64)
  let real := ys.zipIdx.map fun p => if x.act.contains (p.2 / 2) then some p.1 else none
  let blk := bzEncode real (ctlE ctl) (bzHeader false (ctlPuc ctl) 0) (ctlPol ctl) (ctlThr ctl) x.bzWidth x.bzSigned
    (groupModes x x.act 32 2)
  .ok (encodedEff x l 32 2 blk)

def execHadq (w : Fields) (s : State) := runLong 0x56 none w s [⟨0, 1⟩, ⟨1, 32⟩, ⟨2, 32⟩] (regBody hadqEff)

/-- `cvrn` (R147). -/
def cvrnEff (x : Ctx) (l : Nat) : Except LaneFault Eff :=
  let b := x.bv l 32
  let ch := [bitsOf b 0 3, bitsOf b 3 3, bitsOf b 6 3]
  let m := (ch.map modulus).foldl (· * ·) 1
  let d := if x.fn = 1 then drawModes x.rm (x.key l) 1 (x.count l) else ([], x.count l, 0)
  -- the integer, whether it was inexact; none for a NaN or an infinity
  let v : Option (Int × Bool) :=
    if x.fn = 0 then some (sext (x.a l 32) 32, false)
    else match fp32.decode (x.a l 32) with
      | .fin _ q => some (roundInt (d.1.headD .rne) q)
      | _ => none
  let nx := match v with | some (_, true) => fNX | _ => 0
  let r : Nat × Nat := match v with
    | none => (0x8000, fNV)
    | some (i, _) =>
      if !ch.Nodup then (0x8000, fNV)
      else if i < -((m / 2 : Nat) : Int) || i > (m : Int) - 1 - ((m / 2 : Nat) : Int) then (0x8000, fRANGE)
      else (rnEncode ch i, 0)
  .ok { x.out 32 r.1 with flags := r.2 ||| nx ||| d.2.2, rand := some d.2.1 }

def execCvrn (w : Fields) (s : State) := runLong 0x57 none w s readsAB (regBody cvrnEff)

/-! ### Random streams (R148, R149) -/

def randEff (x : Ctx) (l : Nat) : Except LaneFault Eff :=
  let d := drawWord (x.key l) (x.count l)
  let r : Nat × Nat := match x.fn with
    | 0 => (32, d.1 % 2 ^ 32)
    | 1 => (64, d.1)
    | _ => (32, (roundQ fp32 .rne false (Q.scale ⟨bitsOf d.1 8 24, 1⟩ (-24))).1)
  .ok { x.out r.1 r.2 with flags := d.2.2, rand := some d.2.1 }

def execRand (w : Fields) (s : State) := runLong 0x58 none w s [] (regBody randEff)
def execRkey (w : Fields) (s : State) := runLong 0x59 none w s readsAB (regBody fun x l =>
  .ok (x.out 64 (kmix (x.a l 64) (x.bv l 64))))

/-! ### Ragged rows (R150 to R152) -/

/-- A table word read by a lane: its value, or what stops the lane (R150, R235, R393). -/
def ragWord (x : Ctx) (base k : Nat) : Except LaneRes Nat :=
  let sa := base + 4 * k
  if sa + 4 > x.b.sheet.scratch then .error (.fault (protF 0x01 sa))
  else if x.badScratch x.s0 sa 4 then .error (.fault (poisonF sa))
  else match x.s0.rangeWait x.uid sa 4 false with
    | some id => .error (.again (.range id))
    | none => .ok (fromBytes (x.s0.scratchRead x.uid sa 4))

/-- The bisection of R150. -/
def ragSearch (x : Ctx) (base i : Nat) : Nat → Nat → Nat → Except LaneRes Nat
  | 0, lo, _ => .ok lo
  | fuel + 1, lo, hi =>
    if hi - lo ≤ 1 then .ok lo
    else match ragWord x base ((lo + hi) / 2) with
      | .error r => .error r
      | .ok v => if v ≤ i then ragSearch x base i fuel ((lo + hi) / 2) hi else ragSearch x base i fuel lo ((lo + hi) / 2)

/-- The row and position of a lane's index, none where it lies in no row; or what stops the lane. Only the words that the
search reads are checked (DESIGN CHOICE, log entry 67): a table of no row, or an index below its first word, reads no more. -/
def ragFind (x : Ctx) (l : Nat) : Except LaneRes (Option (Nat × Nat)) :=
  let base := x.bv l 32
  let nr := x.cv l 32 % 2 ^ 16
  let i := x.a l 32
  if base % 4 ≠ 0 then .error (.fault (alignF base 2))
  else if nr = 0 then .ok none
  else do
    let first ← ragWord x base 0
    if i < first then return none
    let last ← ragWord x base nr
    if i ≥ last then return none
    let row ← ragSearch x base i 17 0 nr
    let start ← ragWord x base row
    return some (row, wrapInt ((i : Int) - start) 32)

/-- `ragw` (R150). -/
def ragwBody (x : Ctx) : BodyRes :=
  let rs := x.act.map fun l => (l, ragFind x l)
  let starts := laneMask (rs.filterMap fun r => match r.2 with
    | .ok (some (_, 0)) => some r.1
    | _ => none)
  let waits := rs.findSome? fun r => match r.2 with | .error (.again on) => some on | _ => none
  match (if x.fn = 0 then none else waits) with
  -- the mask is of all valid lanes: they wait together for a copy
  | some on => .done x.s0 (x.act.map fun l => (l, .again on))
  | none =>
  let s := rs.foldl (fun (s : State) r => match r.2 with
    | .error _ => s
    | .ok v =>
      let out := if x.fn = 0 then (match v with | some p => p.1 + p.2 * 2 ^ 32 | none => 2 ^ 64 - 1) else starts
      let e : Eff := { x.out (if x.fn = 0 then 64 else 32) out with preds := [(x.mod % 8, v.isSome)] }
      s.updCrew x.uid x.ci fun c => e.apply c x.clk r.1 x.w) x.s0
  .done s (rs.filterMap fun r => match r.2 with | .error e => some (r.1, e) | .ok _ => none)

def execRagw (w : Fields) (s : State) := runLong 0x5A none w s readsABC ragwBody

/-- The lanes of a lane's segment (R151). -/
def segmentOf (x : Ctx) (mask l : Nat) : List Nat :=
  let starts := x.act.filter fun k => bitAt mask k || k == x.low
  let from_ := (starts.filter fun k => decide (k ≤ l)).getLastD x.low
  let stop := (starts.find? fun k => decide (l < k)).getD 32
  x.act.filter fun k => decide (from_ ≤ k) && decide (k < stop)

/-- `segred` (R151): the mask is read from the lowest lane. -/
def segredEff (x : Ctx) (l : Nat) : Except LaneFault Eff :=
  let m := x.mod % 8
  let w := foldWidth x.fn m
  let seg := segmentOf x (x.bv x.low 32) l
  let lanes := if bitAt x.mod 3 then seg.filter fun k => decide (k ≤ l) else seg
  let r := foldVals x.fn m (lanes.map fun k => x.foldA m k)
  .ok { x.out w r.1 with flags := r.2 }

def execSegred (w : Fields) (s : State) := runLong 0x5B none w s [⟨0, 1⟩, ⟨1, 32⟩] (regBody segredEff)

/-- `rgrp` (R152). -/
def rgrpEff (x : Ctx) (l : Nat) : Except LaneFault Eff :=
  let key := x.a l 32
  if x.fn = 1 then .ok (x.out 32 (x.act.filter fun k => x.a k 32 == key).length)
  else
    let below := (x.act.filter fun k => decide (x.a k 32 < key) || (decide (k < l) && x.a k 32 == key)).length
    .ok (x.out 32 (x.bv l 32 + below))

def execRgrp (w : Fields) (s : State) :=
  runLong 0x5C none w s (if w.fn = 0 then readsAB else readsA) (regBody rgrpEff)

/-! ### vxwalk (R153, R154) -/

/-- What ends a walk early: a lane result, or a missing translation. -/
inductive VxEnd where
  | result (d : Nat)
  | stop (r : LaneRes)
  | miss (va : Nat)
  /-- Bytes that are not at hand. -/
  | wait

/-- A walk in progress. -/
structure VxSt where
  s : State
  steps : Nat
  out : Option VxEnd
  /-- Addresses translated so far. -/
  seen : List Nat

/-- Bytes that a lane reads within its instruction: as a load reads them, once they are at hand (R374). -/
def readNow (x : Ctx) (s : State) (l : Nat) (e : Elem) : State × Except Halt (List Byte) :=
  let key := memKey s.hubid e.pa
  let p := placeOf s.hubid e.pa e.leaf.type
  let got := if p != .hostIo && s.l1Hit x.b.core x.b.ctx e.va e.n then (s, .here)
    else s.bring (dieOf x.b.core) (laneReader x.uid x.ci l) p e.pa e.n false
  match got.2.halt e.va with
  | some h => (got.1, .error h)
  | none =>
    if p = .hostIo then (got.1, .ok ((got.1.blockOr x.b).overlay key (readBytes got.1.mem key e.n)))
    else match readElem x got.1 none e with
      | (s, .error f) => (s, .error (.fault f))
      | (s, .ok r) => (s, .ok (r.getD []))

/-- An aligned record read by a lane through its hierarchy: it lies in one line. -/
def vxRead (x : Ctx) (l va n : Nat) (st : VxSt) : VxSt × Nat :=
  match checkGlobal va n with
  | some f => ({ st with out := some (.stop (.fault f)) }, 0)
  | none =>
    match x.plan .read (.ok [(va, n)]) with
    | .fault f => ({ st with out := some (.stop (.fault f)), seen := va :: st.seen }, 0)
    | .miss _ => ({ st with out := some (.miss va) }, 0)
    | .ready es =>
      match es.foldl (fun (a : State × Except Halt (List Byte)) e => match a.2 with
        | .error f => (a.1, .error f)
        | .ok got => (match readNow x a.1 l e with
          | (s, .error f) => (s, .error f)
          | (s, .ok bs) => (s, .ok (got ++ bs)))) (st.s, .ok []) with
      | (s, .error (.fault f)) => ({ st with s, out := some (.stop (.fault f)) }, 0)
      | (s, .error .wait) => ({ st with s, out := some .wait }, 0)
      | (s, .ok bs) => ({ st with s, seen := va :: st.seen }, fromBytes bs)

/-- A cell or cursor word (R153). -/
def vxCode (st depth morton : Nat) : Nat := st * 2 ^ 62 + depth * 2 ^ 57 + morton

/-- The index of a cell on an axis: every third bit of its code. -/
def vxIndex (m axis depth : Nat) : Nat :=
  (List.range depth).foldl (fun a i => a + ofBool (bitAt m (3 * i + axis)) * 2 ^ i) 0

/-- Whether a cell of a depth overlaps a box on one axis: lo < c + s and hi ≥ c, exactly (R154). -/
def vxAxis (lo hi origin : Fv) (e : Int) (idx depth : Nat) : Bool :=
  let edge : Q := Q.scale ⟨1, 1⟩ (e - depth)
  let at_ : Nat → Fv := fun i => match origin with
    | .fin _ q => .fin false (q.add (edge.mul (Q.ofInt i)))
    | v => v
  decide (fvCompare lo (at_ (idx + 1)) < 0) && decide (fvCompare hi (at_ idx) ≥ 0)

/-- The query and the octree of a lane. -/
structure VxTree where
  lo : List Fv
  hi : List Fv
  origin : List Fv
  e : Int
  dmax : Nat
  cap : Nat
  floor : Nat

/-- Whether a cell overlaps the box. -/
def VxTree.overlap (q : VxTree) (depth m : Nat) : Bool :=
  (List.range 3).all fun a =>
    vxAxis (q.lo.getD a (.inf false)) (q.hi.getD a (.inf true)) (q.origin.getD a (.inf false)) q.e (vxIndex m a depth) depth

/-- Where a cell ends in Morton order at the depth limit. -/
def VxTree.ends (q : VxTree) (depth m : Nat) : Nat := (m + 1) * 8 ^ (q.dmax - depth)

/-- The visit of a node (R154), with one level of fuel for each depth. -/
def vxVisit (x : Ctx) (l : Nat) (q : VxTree) : Nat → Nat → Nat → Nat → VxSt → VxSt
  | 0, _, _, _, st => st
  | fuel + 1, node, d, m, st =>
    if st.out.isSome then st
    else if st.steps = q.cap then { st with out := some (.result (vxCode 2 d m)) }
    else
      let r := vxRead x l node 64 st
      let st := { r.1 with steps := st.steps + 1 }
      if st.out.isSome then st
      else
        let occ := bitsOf r.2 0 8
        let leaf := bitsOf r.2 8 8
        let base := bitsOf r.2 64 53
        (List.range 8).foldl (fun st k =>
          if st.out.isSome then st
          else if !bitAt occ k || decide (q.ends (d + 1) (8 * m + k) ≤ q.floor) || !q.overlap (d + 1) (8 * m + k) then st
          else if bitAt leaf k || d + 1 == q.dmax then { st with out := some (.result (vxCode 1 (d + 1) (8 * m + k))) }
          else
            let i := ((List.range k).filter fun j => bitAt occ j && !bitAt leaf j).length
            vxVisit x l q fuel (base + 64 * i) (d + 1) (8 * m + k) st) st

/-- The FP32 values of consecutive words. -/
def floatsAt (v i n : Nat) : List Fv := (List.range n).map fun k => fp32.decode (bitsOf v (32 * (i + k)) 32)

/-- One lane's walk: the outcome with the state, and NV. A result NONE has 0 in DEPTH and MORTON (R154 gives only its ST; DESIGN
CHOICE, log entry 68). -/
def vxLane (x : Ctx) (s : State) (l : Nat) : VxSt × Nat :=
  let c := x.cv l 64
  let st : VxSt := ⟨s, 0, none, []⟩
  let rq := vxRead x l (x.a l 64) 32 st
  if rq.1.out.isSome then (rq.1, 0)
  else
    let rd := vxRead x l (x.bv l 64) 32 rq.1
    if rd.1.out.isSome then (rd.1, 0)
    else
      let st := rd.1
      let dmax := bitsOf rd.2 168 8
      let cap := bitsOf rd.2 176 16
      let depth := bitsOf c 57 5
      let m := bitsOf c 0 48
      let lo := floatsAt rq.2 0 3
      let hi := floatsAt rq.2 3 3
      let origin := floatsAt rd.2 2 3
      let none_ := some (VxEnd.result 0)
      if (lo ++ hi ++ origin).any Fv.isNan || dmax = 0 || decide (dmax > 16) || bitsOf c 62 2 == 3 || decide (depth > dmax) then
        ({ st with out := none_ }, fNV)
      else if (lo.zip hi).any fun p => decide (fvCompare p.1 p.2 > 0) then ({ st with out := none_ }, 0)
      else
        let floor := match bitsOf c 62 2 with
          | 0 => 0
          | 1 => (m + 1) * 8 ^ (dmax - depth)
          | _ => m * 8 ^ (dmax - depth)
        let q : VxTree := ⟨lo, hi, origin, sext (bitsOf rd.2 160 8) 8, dmax, if cap = 0 then 65536 else cap, floor⟩
        if !q.overlap 0 0 then ({ st with out := none_ }, 0)
        else
          let st := vxVisit x l q 17 (bitsOf rd.2 0 53) 0 0 st
          (if st.out.isSome then st else { st with out := none_ }, 0)

/-- The end of one lane's walk: its result, or its fault. -/
def vxEnd (x : Ctx) (a : State × List (Nat × LaneRes)) (v : Nat × VxEnd × Nat) : State × List (Nat × LaneRes) :=
  let s := a.1.endBring (dieOf x.b.core) (laneReader x.uid x.ci v.1)
  match v.2.1 with
  | .stop f => (s, a.2 ++ [(v.1, f)])
  | .result d =>
    let e : Eff := { x.out 64 d with flags := v.2.2 }
    (s.updCrew x.uid x.ci fun c => e.apply c x.clk v.1 x.w, a.2)
  | _ => (s, a.2)

/-- `vxwalk` (R154): a walk that lacks a translation, or bytes that are not at hand, is held and starts again. -/
def vxwalkBody (x : Ctx) : BodyRes :=
  let r := x.act.foldl (fun (a : State × List (Nat × VxEnd × Nat) × List Nat) l =>
    let v := vxLane x a.1 l
    (v.1.s, a.2.1 ++ (v.1.out.toList.map fun o => (l, o, v.2)), a.2.2 ++ v.1.seen)) (x.s0, [], [])
  let miss := r.2.1.filterMap fun v => match v.2.1 with | .miss va => some va | _ => none
  let waits := r.2.1.any fun v => match v.2.1 with | .miss _ => true | .wait => true | _ => false
  if waits then .hold (miss.foldl (fun s va => s.startWalk x.b.core x.b.ctx va (x.s0.shadowTag x.b va)) r.1)
  else
    let e := r.2.1.foldl (vxEnd x) (r.1, [])
    .done (e.1.seeWalks x.b.core x.b.ctx r.2.2) e.2

def execVxwalk (w : Fields) (s : State) := runLong 0x5D none w s readsABC vxwalkBody

/-! ### front (R155) -/

/-- What one lane of `front` comes to, given the count so far. -/
def frontLane (x : Ctx) (base cap : Nat) (st : State × Nat × List (Nat × LaneRes)) (l : Nat) :
    State × Nat × List (Nat × LaneRes) :=
  let c := st.2.1
  let item := base + 32 + 4 * c
  if x.a l 32 ≠ base then (st.1, c, st.2.2 ++ [(l, .fault (protF 0x0A (x.a l 32)))])
  else if c < cap && decide (item + 4 > x.b.sheet.scratch) then (st.1, c, st.2.2 ++ [(l, .fault (protF 0x01 item))])
  else
    let wait := if c < cap then st.1.rangeWait x.uid item 4 true else none
    match wait with
    | some id => (st.1, c, st.2.2 ++ [(l, .again (.range id))])
    | none =>
      let ok := decide (c < cap)
      let s := if ok then st.1.scratchWrite x.uid item (toBytes (x.bv l 32) 4) else st.1
      let e : Eff := { x.out 32 (if ok then c else 0xFFFFFFFF) with preds := [(x.mod % 8, ok)] }
      (s.updCrew x.uid x.ci fun k => e.apply k x.clk l x.w, if ok then c + 1 else c, st.2.2)

/-- `front` (R155): one read-modify-write of the count for the bundle. -/
def frontBody (x : Ctx) : BodyRes :=
  if x.act.isEmpty then .done x.s0 []
  else
    let base := x.a x.low 32
    let same := x.act.filter fun l => x.a l 32 == base
    let others := (x.act.filter fun l => x.a l 32 != base).map fun l => (l, LaneRes.fault (protF 0x0A (x.a l 32)))
    let all (r : LaneRes) : BodyRes := .done x.s0 (others ++ same.map fun l => (l, r))
    if base % 32 ≠ 0 then all (.fault (alignF base 5))
    else if base + 8 > x.b.sheet.scratch then all (.fault (protF 0x01 base))
    else if x.badScratch x.s0 base 8 then all (.fault (poisonF base))
    else match x.s0.rangeWait x.uid base 8 true with
      | some id => all (.again (.range id))
      | none =>
        let hdr := fromBytes (x.s0.scratchRead x.uid base 8)
        let r := x.act.foldl (frontLane x base (bitsOf hdr 32 32)) (x.s0, bitsOf hdr 0 32, [])
        -- one that waits for a copy holds the others: nothing of the append is done before
        match r.2.2.findSome? fun p => match p.2 with | .again on => some on | _ => none with
        | some on => all (.again on)
        | none => .done (r.1.scratchWrite x.uid base (toBytes r.2.1 4)) r.2.2

def execFront (w : Fields) (s : State) := runLong 0x5E none w s readsAB frontBody

end Sys2Proof.Machine
end

