-- ==== Sys2Proof/Machine/Tile.lean ====
section
/-! DEFINITION. The tile (R180 to R208): precision registers, tile commands and their order, the array with its image, K
steps, slices, images in memory, and the array's events. -/

namespace Sys2Proof.Machine
open Sys2Proof

/-! ### Precision registers (R182) -/

def wWA (w : BitVec 64) : Nat := bitsOf w.toNat 0 5
def wWB (w : BitVec 64) : Nat := bitsOf w.toNat 5 5
def wSHAPE (w : BitVec 64) : Nat := bitsOf w.toNat 10 3
def wSGA (w : BitVec 64) : Bool := bitAt w.toNat 13
def wSGB (w : BitVec 64) : Bool := bitAt w.toNat 14
/-- Whether the tile holds residues. -/
def wRN (w : BitVec 64) : Bool := bitAt w.toNat 15
def wCH (w : BitVec 64) : List Nat := [bitsOf w.toNat 16 3, bitsOf w.toNat 19 3, bitsOf w.toNat 22 3]
def wPOINT (w : BitVec 64) : Int := sext (bitsOf w.toNat 32 10) 10
/-- The K blocks of a step: 4 k_g (R180). -/
def wBlocks (w : BitVec 64) : Nat := 4 * 2 ^ wSHAPE w
/-- The largest N of a shape (R180). -/
def wMaxN (w : BitVec 64) : Nat := 4096 / 2 ^ wSHAPE w
/-- The bytes of a block of A (R190). -/
def wSlot (w : BitVec 64) : Nat := if wRN w then 128 else 32 * (1 + (wWA w + 3) / 4)

/-- A value that `mprec` writes is valid (R182). -/
def precOk (v : Nat) : Bool :=
  let w := BitVec.ofNat 64 v
  let range (x : Nat) : Bool := decide (1 ≤ x) && decide (x ≤ 16)
  range (wWA w) && range (wWB w) && decide (wSHAPE w ≤ 5) && bitsOf v 25 7 == 0 &&
  (if wRN w then
      wWA w == 5 && wWB w == 5 && !wSGA w && !wSGB w && decide ((wCH w).eraseDups.length = 3)
    else bitsOf v 16 9 == 0 && !(wWA w == 1 && wSGA w) && !(wWB w == 1 && wSGB w))

/-! ### Tiles and commands of a block -/

def Block.updTile (b : Block) (t : Nat) (f : Tile → Tile) : Block := { b with tiles := updAt b.tiles t f }
def State.updTile (s : State) (uid t : Nat) (f : Tile → Tile) : State := s.updBlock uid fun b => b.updTile t f
def Block.wreg (b : Block) (t : Nat) : BitVec 64 := b.body.prec.getD t 0

/-- The block that holds a command, and the command. -/
def State.tileCmd? (s : State) (id : Nat) : Option (Block × TileCmd) :=
  s.blocks.findSome? fun b => (b.cmds.find? fun k => k.id == id).map fun k => (b, k)
def State.updCmd (s : State) (uid id : Nat) (f : TileCmd → TileCmd) : State :=
  s.updBlock uid fun b => { b with cmds := mapWhere (fun k => k.id == id) f b.cmds }

/-- The first named tile: the destination. -/
def TileCmd.dest (k : TileCmd) : Nat := k.tiles.headD 0
/-- The captured precision register of the destination. -/
def TileCmd.w0 (k : TileCmd) : BitVec 64 := k.wregs.headD 0
/-- A command that binds a tile: `mzero` or `mrest`. -/
def TileCmd.binds (k : TileCmd) : Bool := (k.op == 0xD3 && k.w.fn == 0) || k.op == 0xD7
/-- The commands that the array serves (R195). -/
def TileCmd.isArray (k : TileCmd) : Bool := k.op == 0xD1 || k.op == 0xD2 || k.op == 0xDB
/-- KS of an `mrun` (R190). -/
def TileCmd.ks (k : TileCmd) : Nat := k.b % 2 ^ 13

/-- The commands issued before one. -/
def Block.before (b : Block) (id : Nat) : List TileCmd := b.cmds.takeWhile fun k => k.id != id

/-- Whether a command may start (R185, R206): no earlier one names a tile of it, and its copy has landed. -/
def State.cmdReady (s : State) (b : Block) (k : TileCmd) : Bool :=
  !((b.before k.id).any fun e => e.tiles.any k.tiles.contains) && k.hold.isNone &&
  (match k.copy with | some c => !(s.copies.any fun x => x.id == c) | none => true)

/-- Whether a command is skipped: a tile it names is in ERROR (R186). -/
def Block.skips (b : Block) (k : TileCmd) : Bool :=
  !k.binds && !(k.op == 0xD3) && k.tiles.any fun t => (b.tile t).cause != 0

/-- Units of M × N accumulators (R181). -/
def tileUnits (m n : Nat) : Nat := (m * n + 127) / 128
def dimsOk (m n : Nat) : Bool :=
  decide (1 ≤ m) && decide (m ≤ 256) && decide (1 ≤ n) && decide (n ≤ 4096) && decide (m * n ≤ 131072)

/-- The free units of a core's tile store. -/
def State.freeUnits (s : State) (core : Nat) : Nat :=
  1024 - ((s.blocks.filter fun b => b.core == core && b.onCore).foldl (fun a b =>
    a + (b.tiles.foldl (fun a t => a + t.units) 0)) 0)

/-- The scratchpad range that an `mrun` step reads (R190). -/
def TileCmd.stepRange (k : TileCmd) (step : Nat) : Nat × Nat :=
  let n := wSlot k.w0 * k.m * wBlocks k.w0
  (k.a + n * step, n)

/-- Whether a block has a ready array command, or is served by the array (R195). -/
def State.arrayReady (s : State) (b : Block) (k : TileCmd) : Bool :=
  k.isArray && s.cmdReady b k && !b.skips k && !(k.op == 0xD2 && decide (k.kdone ≥ k.ks))

/-- What follows a change of a core's commands: binding commands that may start free the old units and begin to wait, in
order (R186); and a block that gains a ready array command takes at least the least clock of those that have one (R195). -/
def State.tileKick (s : State) (core : Nat) : State :=
  let here := s.blocks.filter fun b => b.core == core && b.onCore
  let s := here.foldl (fun (s : State) b0 =>
    b0.cmds.foldl (fun (s : State) k =>
      match s.block? b0.uid with
      | none => s
      | some b =>
        if k.binds && k.waiting.isNone && !k.granted && s.cmdReady b k then
          let (n, s) := s.fresh
          let s := s.updCmd b.uid k.id fun k => { k with waiting := some n }
          s.updTile b.uid k.dest fun t => { t with acc := [], units := 0 }
        else s) s) s
  here.foldl (fun (s : State) b0 =>
    match s.block? b0.uid with
    | none => s
    | some b =>
      let has := b.cmds.any fun k => s.arrayReady b k
      if has && !b.wantsArray then
        let others := (s.blocks.filter fun c => c.core == core && c.state != .saved && c.wantsArray).map (·.vclock)
        let least := match leastBy id others with | some v => v | none => 0
        s.updBlock b.uid fun b => { b with wantsArray := true, vclock := max b.vclock least }
      else if !has && b.wantsArray then s.updBlock b.uid fun b => { b with wantsArray := false }
      else s) s

/-! ### Waiting for commands (R200) -/

/-- The moves of a thread that are under way. -/
def Block.movesOf (b : Block) (ci l : Nat) : Nat :=
  (b.cmds.filter fun k => (k.op == 0xD8 || k.op == 0xD9) && k.ci == ci && k.lanes.any fun p => p.1 == l).length

/-- Whether a command on a tile, issued before a number, is under way. -/
def Block.tileBusy (b : Block) (t upto : Nat) : Bool := b.cmds.any fun k => decide (k.id < upto) && k.tiles.contains t

/-- A thread whose `twait` is over. -/
def Block.freeWaiter (b : Block) (ci l : Nat) (t : Thread) : Thread :=
  match t.waitsOn with
  | some (.moves n) => if b.movesOf ci l ≤ n then t.complete else t
  | some (.tile k upto p) => if b.tileBusy k upto then t else (t.setPred p ((b.tile k).st == .bound)).complete
  | _ => t

/-- The waits of a block on its tile commands, evaluated. -/
def State.freeTileWaits (s : State) (uid : Nat) : State :=
  s.updBlock uid fun b => { b with body := { b.body with crews := b.body.crews.zipIdx.map fun c =>
    { c.1 with threads := c.1.threads.zipIdx.map fun t => b.freeWaiter c.2 t.2 t.1 } } }

/-- A command completes (R185): its flags, the waits on it, and what may start now. -/
def State.endCmd (s : State) (uid id : Nat) : State :=
  match s.block? uid with
  | none => s
  | some b =>
    match b.cmds.find? fun k => k.id == id with
    | none => s
    | some k =>
      let s := (s.updBlock uid fun b => { b with cmds := b.cmds.filter fun k => k.id != id }).endBring (dieOf b.core) (cmdReader id)
      let clk := s.clockOf b.core
      let s := s.updCrew uid k.ci fun c => (c.inCycle clk).setFlags k.flags
      (s.freeTileWaits uid).tileKick b.core

/-- Whether a binding command on a tile, other than one, is under way. -/
def Block.rebinds (b : Block) (t id : Nat) : Bool := b.cmds.any fun k => k.id != id && k.binds && k.tiles.contains t

/-- A tile's remembered descriptor changed by a command, with the stored width. An `mrun` behind that command that has been stopped
for an image holds the descriptor too (R203: as loaded for its step 0). -/
def State.setDesc (s : State) (uid : Nat) (k : TileCmd) (desc : Option Nat) (ws : Nat) : State :=
  let hold : TileCmd → TileCmd := fun m =>
    { m with held := m.held.map fun h => if k.id < h.cmd ∧ m.dest = k.dest then { h with desc } else h }
  let s := s.updBlock uid fun b => { b with cmds := b.cmds.map hold }
  s.updTile uid k.dest fun t => { t with desc, ws }

/-- A command that cannot be completed: its tile to ERROR (R202). -/
def State.failCmd (s : State) (b : Block) (k : TileCmd) (cause : Nat) : State :=
  let s := s.updTile b.uid k.dest fun t =>
    { t with cause, st := if t.st = .bound ∨ (t.st = .pending ∧ !b.rebinds k.dest k.id) then .error else t.st }
  s.endCmd b.uid k.id

/-- The array left idle. -/
def State.freeArray (s : State) (core : Nat) : State := s.updCore core fun c => { c with array := none }

/-- A read or write of a command that faulted: PAGE goes to the driver first, and the command is HELD (R202). -/
def State.troubleCmd (s : State) (b : Block) (k : TileCmd) (f : LaneFault) : State :=
  let paged := match s.ctxs[b.ctx]? with | some c => f.cls == 6 && c.pfbase != 0 | none => false
  if paged then
    (s.updCmd b.uid k.id fun k => { k with hold := some (.post f.detail f.eaddr (f.einfo % 4)) }).tileKick b.core
  else s.failCmd b k 3

/-! ### Issue (R184) -/

/-- The source of a value operand read from the lowest active lane. -/
def lowRead (fields : List Nat) : List ReadAs := fields.map fun f => ⟨f, 32⟩

/-- PROT of a tile. -/
def tileF : LaneFault := protF 0x08 0

/-- A command as it issues. -/
def Ctx.cmd (x : Ctx) (b : Block) (tiles : List Nat) (a bb : Nat) (lanes : List (Nat × Nat)) : TileCmd :=
  { id := 0, ci := x.ci, op := x.op, w := x.w, tiles, m := (b.tile (tiles.headD 0)).m, n := (b.tile (tiles.headD 0)).n,
    wregs := tiles.map b.wreg, a, b := bb, lanes, kdone := 0, flags := 0, copy := none, stops := none, held := none,
    waiting := none, granted := false, hold := none }

/-- A command put at the end of its block's order; its number. -/
def State.issueCmd (s : State) (uid : Nat) (k : TileCmd) : State × Nat :=
  let (id, s) := s.fresh
  (s.updBlock uid fun b => { b with cmds := b.cmds ++ [{ k with id }] }, id)

/-- The frame of an instruction that issues a tile command: its checks fault every active lane (R184). -/
def tileBody (make : Ctx → Block → Except LaneFault TileCmd)
    (after : Ctx → State → Nat → State) (x : Ctx) : BodyRes :=
  if x.act.isEmpty then .done x.s0 []
  else match make x x.b with
    | .error f => refuseAll (fun _ => f) x
    | .ok k =>
      let r := x.s0.issueCmd x.uid k
      .done ((after x r.1 r.2).tileKick x.b.core) []

/-- A check of R184. -/
def need (ok : Bool) (f : LaneFault) (k : Except LaneFault TileCmd) : Except LaneFault TileCmd := if ok then k else .error f

def Block.isBound (b : Block) (t : Nat) : Bool := (b.tile t).st != .unbound

/-- `mprec` and `mscale` (R187). -/
def execMprec (w : Fields) (s : State) := runLong 0xD0 none w s (lowRead [0]) fun x =>
  if x.act.isEmpty then .done x.s0 []
  else
    let v := x.a x.low 32
    if !precOk v then refuseAll (fun _ => descF 0 v) x
    else .done (x.s0.updBlock x.uid fun b => { b with body := { b.body with
      prec := updAt b.body.prec x.w.d.toNat fun r => BitVec.ofNat 64 (setBits r.toNat 0 32 v) } }) []
def execMscale (w : Fields) (s : State) := runLong 0xD4 none w s (lowRead [0]) fun x =>
  if x.act.isEmpty then .done x.s0 []
  else
    let v := x.a x.low 32
    if sext v 32 < -512 ∨ sext v 32 > 511 then refuseAll (fun _ => descF 0 v) x
    else .done (x.s0.updBlock x.uid fun b => { b with body := { b.body with
      prec := updAt b.body.prec x.w.d.toNat fun r => BitVec.ofNat 64 (setBits r.toNat 32 10 (v % 1024)) } }) []

/-- The checks of `mloadb` (R189), shared with a follow-on. -/
def mkLoad (b : Block) (t addr : Nat) (k : TileCmd) : Except LaneFault TileCmd :=
  need (b.isBound t) tileF <| need (addr % 32 == 0) (alignF addr 5) <| need (decide (addr < 2 ^ 53)) (descF addr addr) <| .ok k

def execMloadb (w : Fields) (s : State) := runLong 0xD1 none w s (lowRead [0]) <|
  tileBody
    (fun x b => mkLoad b x.w.d.toNat (x.a x.low 64) (x.cmd b [x.w.d.toNat] (x.a x.low 64) 0 [])) fun _ s _ => s

/-- The checks of `mrun` (R190), shared with a follow-on. -/
def mkRun (b : Block) (t a ctl : Nat) (k : TileCmd) : Except LaneFault TileCmd :=
  let w := b.wreg t
  let ks := ctl % 2 ^ 13
  need (b.isBound t) tileF <| need (a % 32 == 0) (alignF a 5) <|
  need (decide (a + wSlot w * ks * (b.tile t).m * wBlocks w ≤ b.sheet.scratch)) (protF 0x01 a) <|
  need (ctl / 2 ^ 13 == 0 && decide (1 ≤ ks) && decide (ks ≤ 4096)) (descF 0 ctl) <|
  need (precOk (w.toNat % 2 ^ 32)) (descF 0 w.toNat) <| need (decide ((b.tile t).n ≤ wMaxN w)) tileF <| .ok k

def execMrun (w : Fields) (s : State) := runLong 0xD2 none w s (lowRead [0, 1]) <|
  tileBody
    (fun x b => mkRun b x.w.d.toNat (x.a x.low 32) (x.bv x.low 32)
      (x.cmd b [x.w.d.toNat] (x.a x.low 32) (x.bv x.low 32) [])) fun _ s _ => s

/-- `mzero` (R186, R188): the name is PENDING from its issue, with its dimensions. -/
def execMzero (w : Fields) (s : State) := runLong 0xD3 (some 0) w s (lowRead [0]) <|
  tileBody
    (fun x b =>
      let v := x.a x.low 32
      need (dimsOk (v % 2 ^ 16) (v / 2 ^ 16)) (descF 0 v) <|
        .ok { x.cmd b [x.w.d.toNat] v 0 [] with m := v % 2 ^ 16, n := v / 2 ^ 16 })
    fun x s _ =>
      let v := x.a x.low 32
      s.updTile x.uid x.w.d.toNat fun t => { t with st := .pending, m := v % 2 ^ 16, n := v / 2 ^ 16 }

/-- `mzero.free` (R186, R188). -/
def execMzeroFree (w : Fields) (s : State) := runLong 0xD3 (some 1) w s [] <|
  tileBody (fun x b => need (b.isBound x.w.d.toNat) tileF <| .ok (x.cmd b [x.w.d.toNat] 0 0 []))
    fun x s _ => s.updTile x.uid x.w.d.toNat fun t => { t with st := .unbound }

/-- The checks of `msave`. -/
def mkSave (x : Ctx) (b : Block) : Except LaneFault TileCmd :=
  let t := x.w.d.toNat
  let a := x.a x.low 64
  need (b.isBound t) tileF <| need (a % 64 == 0) (alignF a 6) <| .ok (x.cmd b [t] a 0 [])

def execMsave (w : Fields) (s : State) := runLong 0xD6 (some 0) w s (lowRead [0]) <|
  tileBody mkSave fun _ s _ => s

/-- What a stopped `mrun` leaves for an image, with the tile's descriptor. -/
def TileCmd.heldOp (k : TileCmd) (desc : Option Nat) : HeldOp := ⟨k.id, k.w0, k.a, k.ks, k.kdone, desc⟩

/-- An `mrun` stopped at a boundary for an `msave.stop` (R203): it leaves the tile, and its image takes what it held. -/
def State.stopRun (s : State) (uid : Nat) (k : TileCmd) : State :=
  let desc := match s.block? uid with | some b => (b.tile k.dest).desc | none => none
  let take : TileCmd → TileCmd := fun m => if m.stops = some k.id then { m with held := some (k.heldOp desc), stops := none } else m
  let s := s.updBlock uid fun b => { b with cmds := b.cmds.map take }
  s.endCmd uid k.id

/-- `msave.stop` (R203). -/
def execMsaveStop (w : Fields) (s : State) := runLong 0xD6 (some 1) w s (lowRead [0]) <|
  tileBody
    (fun x b => match mkSave x b with
      | .error f => .error f
      | .ok k => .ok { k with
          stops := ((b.cmds.filter fun e => e.op == 0xD2 && e.dest == x.w.d.toNat).getLast?).map (·.id) })
    fun x s id =>
      match s.block? x.uid with
      | none => s
      | some b =>
        match b.cmds.find? fun k => b.cmds.any fun m => m.id == id && m.stops == some k.id with
        | none => s
        | some k =>
          -- in the array, or with a page fault of its loading in the driver's hands, it stops at its next boundary (R196)
          let busy : Bool := match s.cores[b.core]? with
            | some c => c.array.any fun a => a.uid == x.uid && a.cmd == k.id
            | none => false
          if busy || k.hold.isSome then s else s.stopRun x.uid k

/-- `mrest` (R186, R203): the name is PENDING, its dimensions the image's. -/
def execMrest (w : Fields) (s : State) := runLong 0xD7 none w s (lowRead [0]) <|
  tileBody
    (fun x b =>
      let a := x.a x.low 64
      need (a % 64 == 0) (alignF a 6) <| .ok (x.cmd b [x.w.d.toNat] a 0 []))
    fun x s _ => s.updTile x.uid x.w.d.toNat fun t => { t with st := .pending, m := 0, n := 0 }

/-- `mrecon` (R197). -/
def execMrecon (w : Fields) (s : State) := runLong 0xDB none w s [] <|
  let srcs : Ctx → List Nat := fun x => (tileNames 0xDB x.w).drop 1
  tileBody
    (fun x b =>
      let d := x.w.d.toNat
      need (b.isBound d && (srcs x).all b.isBound) tileF <|
      need ((srcs x).all (fun t => wRN (b.wreg t)) && !wRN (b.wreg d) &&
        (srcs x).all (fun t => (b.tile t).m == (b.tile d).m && (b.tile t).n == (b.tile d).n)) tileF <|
      .ok (x.cmd b (d :: srcs x) 0 0 [])) fun _ s _ => s

/-- The destination of `tsl` pushed as not yet produced in each active lane (R58, R198). -/
def tslAfter (x : Ctx) (s : State) (id : Nat) : State :=
  s.updCrew x.uid x.ci fun c => x.act.foldl (fun c l => c.pushPending (id + 1) l x.w) c

/-- `tsl` and `tss` have one control word (R198, R199). -/
def sliceCtlOk (bz : Bool) (v : Nat) : Bool := v / 2 ^ 28 == 0 && (bz || bitsOf v 8 8 == 0)

def execTsl (w : Fields) (s : State) := runLong 0xD8 none w s (lowRead [1]) <|
  tileBody
    (fun x b =>
      let t := x.w.a.toNat
      let v := x.bv x.low 32
      need (b.isBound t) tileF <| need (sliceCtlOk (x.fn == 2) v) (descF 0 v) <|
      need (!(x.fn == 2 && wRN (b.wreg t))) tileF <| .ok (x.cmd b [t] 0 v (x.act.map fun l => (l, 0)))) tslAfter

def execTss (w : Fields) (s : State) := runLong 0xD9 none w s (eachLane [0] ++ lowRead [1]) <|
  tileBody
    (fun x b =>
      let t := x.w.d.toNat
      let v := x.bv x.low 32
      need (b.isBound t) tileF <| need (sliceCtlOk false v) (descF 0 v) <|
      .ok (x.cmd b [t] 0 v (x.act.map fun l => (l, x.a l (if x.fn = 1 then 128 else 32))))) fun _ s _ => s

/-- `twait` (R200). -/
def execTwait (w : Fields) (s : State) := runLong 0xDA (some 0) w s readsA <| moveBody fun x l =>
  let n := x.a l 32
  if n ≥ 64 ∨ x.b.movesOf x.ci l ≤ n then .next else .wait (.moves n)

/-- `twait.t` (R200). -/
def execTwaitT (w : Fields) (s : State) := runLong 0xDA (some 1) w s [] <| laneBody fun x s l =>
  let t := x.w.a.toNat
  if x.b.tileBusy t s.nextId then (s, .wait (.tile t s.nextId x.w.d.toNat))
  else (s.updThread x.uid x.ci l fun th => th.setPred x.w.d.toNat ((x.b.tile t).st == .bound), .next)

/-- `mstat` (R201). -/
def mstatValue (b : Block) (t : Nat) : Nat :=
  let k := b.tile t
  let cmds := b.cmds.filter fun c => c.tiles.contains t
  let st := match k.st with | .unbound => 0 | .pending => 1 | .bound => 2 | .error => 3
  let kd := match cmds.find? fun c => c.op == 0xD2 with | some c => c.kdone | none => 0
  st * 2 ^ 30 + ofBool (k.ue && k.st != .unbound) * 2 ^ 29 + (if k.st = .error then k.cause * 2 ^ 24 else 0) +
    min cmds.length 255 * 2 ^ 16 + kd

def execMstat (w : Fields) (s : State) := runLong 0xD5 none w s [] (regBody fun x _ =>
  .ok (x.out 32 (mstatValue x.b x.w.a.toNat)))

/-! ### The image of B (R189, R195) -/

/-- Why an image cannot be read: a fault, or a cause of R202. -/
inductive ImgErr where
  | fault (f : LaneFault)
  | cause (n : Nat)
  /-- Bytes that are not at hand. -/
  | wait
deriving DecidableEq, Repr

/-- What stops the reading of a record or of elements, for an image. -/
def Halt.img : Halt → ImgErr
  | .fault f => .fault f
  | .wait => .wait

/-- The byte-string of a block as codes. -/
def codesOf (n : Nat) (bs : List Byte) : List Nat := unpackElems (fromBytes bs) n 64

/-- The stored width of a record. An RN16 tensor has WID 0 (R37) where R190 asks for ws = 5: its three 5-bit residues count as
a width of 5 (DESIGN CHOICE, log entry 71). -/
def storedWidth (r : TensorRec) : Nat := if r.fmt = 2 then 5 else r.wid

/-- One block of an image. -/
def State.readImgBlock (s : State) (b : Block) (who : Nat) (r : TensorRec) (idx : Nat) : State × Except Halt ImgBlock :=
  match s.readBlockOf b who r idx with
  | (s, .error f) => (s, .error f)
  | (s, .ok (h, bs)) => (s, .ok ⟨if r.isBZ then bzE h else 0, codesOf (if r.isBZ then r.wid else 16) bs⟩)

/-- The image of a remembered descriptor for a K step of a tile with N columns and `nj` blocks a step. `ws` is the stored width
that the tile remembers, 0 for none: a reload reads its codes at that width (R189; DEDUCED, log entry 71). -/
def State.readImage (s : State) (b : Block) (who t desc ws step n nj : Nat) (fmtOk : TensorRec → Bool) :
    State × Except ImgErr Image :=
  let kbt := bitsOf desc 64 32
  let kb0 := bitsOf desc 96 32
  let nc0 := bitsOf desc 128 32
  if desc / 2 ^ 160 ≠ 0 ∨ bitsOf desc 53 11 ≠ 0 ∨ kbt = 0 then (s, .error (.cause 1))
  else match s.readRecord b who (bitsOf desc 0 53) with
    | (s, .error .wait) => (s, .error .wait)
    | (s, .error (.fault f)) => (s, .error (if f.cls = 1 ∨ f.cls = 4 then .cause 1 else .fault f))
    | (s, .ok r) =>
      if !fmtOk r then (s, .error (.cause 2))
      else
        let r := if ws = 0 ∨ !r.isBZ then r else { r with wid := ws }
        let cells := (List.range n).flatMap fun c => (List.range nj).map fun j => (nc0 + c, kb0 + nj * step + j)
        let q := cells.foldl (fun (a : State × Except Halt (List (Option ImgBlock))) p =>
          match a.2 with
          | .error f => (a.1, .error f)
          | .ok got =>
            let idx := p.1 * kbt + p.2
            if p.2 ≥ kbt ∨ idx ≥ r.blks then (a.1, .ok (got ++ [none]))
            else match a.1.readImgBlock b who r idx with
              | (s, .error f) => (s, .error f)
              | (s, .ok i) => (s, .ok (got ++ [some i]))) (s, .ok [])
        match q.2 with
        | .error f => (q.1, .error f.img)
        | .ok got =>
          (q.1, .ok ⟨b.uid, t, step, storedWidth r, r.fmt == 2, (List.range n).map fun c => (got.drop (c * nj)).take nj⟩)

/-- A failure of an image for a command. -/
def State.imgTrouble (s : State) (b : Block) (k : TileCmd) (e : ImgErr) : State :=
  match e with
  | .fault f => s.troubleCmd b k f
  | .cause n => s.failCmd b k n
  | .wait => s

/-! ### K steps (R191 to R194) -/

/-- A block of A as the array reads it: exponent, values and whether it holds a poison element. -/
structure ABlock where
  e : Nat
  vals : List Nat
  bad : Bool
deriving DecidableEq, Repr

/-- Whether an RN16 element is poison under a channel set. -/
def rnPoison (ch : List Nat) (x : Nat) : Bool := (rnValue ch x).isNone

/-- A block of A from its bytes (R142, R190). -/
def readABlock (bs : List Byte) (w : BitVec 64) : ABlock :=
  if wRN w then
    let cs := codesOf 16 (bs.take 128)
    ⟨0, cs, cs.any (rnPoison (wCH w))⟩
  else
    let n := wWA w
    let e := bzE (fromBytes (bs.take 2))
    let cs := codesOf n ((bs.drop 32).take (8 * n))
    ⟨e, cs, cs.any (bzPoison (wSGA w) n e) || e == 255⟩

/-- The exact sum of a block's products on BZ tiles, with B dialled down by `d` (R191, R192). -/
def bzPartial (w : BitVec 64) (ws d : Nat) (a : ABlock) (i : ImgBlock) : Int :=
  (a.vals.zip i.codes).foldl (fun s p => s + bzInt (wSGA w) (wWA w) p.1 * (bzInt (wSGB w) ws p.2 / (2 : Int) ^ d)) 0

/-- One block added to an accumulator of a BZ tile, with RANGE. -/
def bzAdd (w : BitVec 64) (ws : Nat) (acc : Acc × Nat) (a : ABlock) (i : ImgBlock) : Acc × Nat :=
  let d := ws - wWB w
  if acc.1.poison then acc
  else if a.bad || i.codes.any (bzPoison (wSGB w) ws i.e) || i.e == 255 then ({ acc.1 with poison := true }, acc.2)
  else
    let r := a64Add acc.1.v.toInt (bzPartial w ws d a i) ((a.e : Int) - 127) ((i.e : Int) + d - 127) (wPOINT w)
    ({ acc.1 with v := BitVec.ofInt 64 r.1 }, acc.2 ||| r.2)

/-- One block added to an accumulator of an RN tile (R193). -/
def rnAdd (w : BitVec 64) (acc : Acc × Nat) (a : ABlock) (i : ImgBlock) : Acc × Nat :=
  if acc.1.poison then acc
  else if a.bad || i.codes.any (rnPoison (wCH w)) then ({ acc.1 with poison := true }, acc.2)
  else
    let chans := [0, 1, 2].map fun c =>
      let m := modulus ((wCH w).getD c 0)
      let p := (a.vals.zip i.codes).foldl (fun s q => s + bitsOf q.1 (5 * c) 5 * bitsOf q.2 (5 * c) 5) 0
      (bitsOf acc.1.v.toNat (5 * c) 5 + p) % m
    ({ acc.1 with v := BitVec.ofNat 64 (packElems 5 chans) }, acc.2)

/-- The accumulators of a tile after a K step, and its flags: partials in ascending K (R46, R191, R193). -/
def kStep (w : BitVec 64) (img : Image) (rows : List (List ABlock)) (accs : List Acc) : List Acc × Nat :=
  let n := img.cols.length
  let rs := accs.zipIdx.map fun p =>
    let arow := rows.getD (p.2 / n) []
    let bcol := img.cols.getD (p.2 % n) []
    (arow.zip bcol).foldl (fun (a : Acc × Nat) q => match q.2 with
      | none => a
      | some i => if wRN w then rnAdd w a q.1 i else bzAdd w img.ws a q.1 i) (p.1, 0)
  (rs.map (·.1), rs.foldl (fun f r => f ||| r.2) 0)

/-- The rows of A of a step, from the bytes that it read (R190). -/
def TileCmd.stepRows (k : TileCmd) (bs : List Byte) : List (List ABlock) :=
  let nj := wBlocks k.w0
  let z := wSlot k.w0
  (List.range k.m).map fun r => (List.range nj).map fun j => readABlock ((bs.drop (z * (r * nj + j))).take z) k.w0

/-! ### Slices (R198, R199) -/

/-- The position of a row and column: none for padding. -/
def TileCmd.pos (k : TileCmd) (row col : Nat) : Option Nat := if row < k.m ∧ col < k.n then some (row * k.n + col) else none

/-- An accumulator as a float: poison is a NaN. -/
def Acc.fv (a : Acc) (point : Int) : Fv :=
  if a.poison then .nan false else .fin (a.v.toInt < 0) (Q.scale (Q.ofInt a.v.toInt) point)

/-- One element of `tsl.f32` (R198): bits and flags. -/
def sliceElem (k : TileCmd) (t : Tile) (row col : Nat) : Nat × Nat :=
  match (k.pos row col).bind fun i => t.acc[i]? with
  | none => (0, 0)
  | some a =>
    if wRN k.w0 then (if a.poison then 0x8000 else a.v.toNat % 2 ^ 32, 0)
    else fConv fp32 .rne (a.fv (wPOINT k.w0))

/-- The width n of `tsl.bz`. -/
def TileCmd.bzWidth (k : TileCmd) : Nat := widthOfCode k.w.mod.toNat

/-- The block of `tsl.bz`, encoded from the tile alone. -/
def sliceBlock (k : TileCmd) (t : Tile) : BzBlock :=
  let row := bitsOf k.b 0 8
  let c0 := bitsOf k.b 16 12
  let xs := (List.range 64).map fun i => ((k.pos row (c0 + i)).bind fun i => t.acc[i]?).map fun a => a.fv (wPOINT k.w0)
  bzEncode xs (bitsOf k.b 8 8) 0 0 0 k.bzWidth true (List.replicate 64 .rne)

/-- What `tsl` writes in a lane, and its flags. -/
def sliceLane (k : TileCmd) (t : Tile) (l : Nat) : Nat × Nat × Nat :=
  let row := bitsOf k.b 0 8
  let c0 := bitsOf k.b 16 12
  if k.w.fn = 2 then
    let blk := sliceBlock k t
    (64, blk.codes.getD (2 * l) 0 + blk.codes.getD (2 * l + 1) 0 * 2 ^ k.bzWidth + blk.header * 2 ^ 32, blk.flags)
  else
    let es := if k.w.fn = 1 then (List.range 4).map fun i => sliceElem k t row (c0 + 4 * l + i) else [sliceElem k t row (c0 + l)]
    (32 * es.length, packElems 32 (es.map (·.1)), es.foldl (fun f e => f ||| e.2) 0)

/-- `tsl` performed: every lane's registers and latch, and the flags. -/
def State.doSlice (s : State) (b : Block) (k : TileCmd) : State :=
  let t := b.tile k.dest
  k.lanes.foldl (fun (s : State) p =>
    let r := sliceLane k t p.1
    let s := s.updCrew b.uid k.ci fun c => c.lateResult (k.id + 1) (s.clockOf b.core) p.1 k.w r.1 r.2.1
    s.updCmd b.uid k.id fun k => { k with flags := k.flags ||| r.2.2 }) s

/-- A `tsl` that is skipped: its latch places become invalid. -/
def State.skipSlice (s : State) (b : Block) (k : TileCmd) : State :=
  k.lanes.foldl (fun (s : State) p => s.updThread b.uid k.ci p.1 fun t => t.produce (k.id + 1) none) s

/-- One element of `tss` (R199): the accumulator and its flags. R199 names no flag for a NaN; a signalling one sets NV, as R22
and R23 have it of every operation (DEDUCED, log entry 72). -/
def storeElem (w : BitVec 64) (v : Nat) : Acc × Nat :=
  if wRN w then
    if v ≥ 2 ^ 15 || rnPoison (wCH w) v then (⟨BitVec.ofNat 64 (v % 2 ^ 15), true⟩, 0) else (⟨BitVec.ofNat 64 v, false⟩, 0)
  else
    let big : Bool → Acc := fun neg => ⟨BitVec.ofInt 64 (if neg then intMin 64 else intMax 64), false⟩
    match fp32.decode v with
    | .nan sig => (⟨0, true⟩, if sig then fNV else 0)
    | .inf n => (big n, fRANGE)
    | .fin _ q =>
      let r := roundInt .rne (q.scale (-(wPOINT w)))
      if r.1 > intMax 64 ∨ r.1 < intMin 64 then (big (r.1 < 0), fRANGE ||| (if r.2 then fNX else 0))
      else (⟨BitVec.ofInt 64 r.1, false⟩, if r.2 then fNX else 0)

/-- `tss` performed: positions in ascending lanes. A NaN poisons the accumulator and leaves its number. -/
def State.doStore (s : State) (b : Block) (k : TileCmd) : State :=
  let row := bitsOf k.b 0 8
  let c0 := bitsOf k.b 16 12
  let n := if k.w.fn = 1 then 4 else 1
  k.lanes.foldl (fun (s : State) p => (List.range n).foldl (fun (s : State) i =>
    match k.pos row (c0 + n * p.1 + i) with
    | none => s
    | some e =>
      let r := storeElem k.w0 (bitsOf p.2 (32 * i) 32)
      let s := s.updTile b.uid k.dest fun t => { t with acc := updAt t.acc e fun old => if r.1.poison then { old with poison := true } else r.1 }
      s.updCmd b.uid k.id fun k => { k with flags := k.flags ||| r.2 }) s) s

/-! ### Reconstruction (R197) -/

/-- The residues of a source's element with their moduli. -/
def residuesOf (w : BitVec 64) (a : Acc) : List (Nat × Nat) :=
  (wCH w).zipIdx.map fun p => (modulus p.1, bitsOf a.v.toNat (5 * p.2) 5)

/-- One element of `mrecon`: the accumulator and RNCONFLICT. -/
def reconElem (srcs : List (BitVec 64 × Acc)) : Acc × Nat :=
  if srcs.any fun p => p.2.poison then (⟨0, true⟩, 0)
  else
    let rs := srcs.flatMap fun p => residuesOf p.1 p.2
    let conflict := rs.any fun p => rs.any fun q => p.1 == q.1 && p.2 != q.2
    if conflict then (⟨0, true⟩, fRNCONFLICT)
    else
      let us := rs.eraseDups
      let c := rnCombine (us.map (·.1)) (us.map (·.2))
      (⟨BitVec.ofInt 64 (rnSigned c.1 c.2), false⟩, 0)

/-- `mrecon` performed. -/
def State.doRecon (s : State) (b : Block) (k : TileCmd) : State :=
  let srcs := (k.tiles.zip k.wregs).drop 1
  let rs := (List.range (k.m * k.n)).map fun e => reconElem (srcs.map fun p => (p.2, (b.tile p.1).acc.getD e ⟨0, false⟩))
  let s := s.updTile b.uid k.dest fun t => { t with acc := (t.acc.zip rs).map fun p => if p.2.1.poison then { p.1 with poison := true } else p.2.1 }
  s.updCmd b.uid k.id fun k => { k with flags := k.flags ||| rs.foldl (fun f r => f ||| r.2) 0 }

/-! ### Images in memory (R203) -/

/-- The image of a tile; what a poisoned accumulator's own word holds is a free value. With no operation held, w is what the command
captured at its issue (R184, R203; DEDUCED, log entry 85). -/
def tileImage (b : Block) (k : TileCmd) (choice : Nat) : List Byte :=
  let t := b.tile k.dest
  let w := match k.held with | some h => h.w | none => k.w0
  let desc := match k.held with | some h => h.desc | none => t.desc
  let body := toBytes k.m 2 ++ toBytes k.n 2 ++ toBytes 0 4 ++ toBytes w.toNat 8 ++ toBytes (ofBool k.held.isSome) 4 ++
    (match k.held with | some h => toBytes h.kdone 4 ++ toBytes h.ks 4 ++ toBytes h.a 4 | none => toBytes 0 12) ++
    toBytes (desc.getD 0) 32 ++
    t.acc.zipIdx.flatMap (fun a => toBytes (if a.1.poison then Config.poisonWord choice a.2 else a.1.v.toNat) 8) ++
    toBytes (t.acc.zipIdx.foldl (fun m p => m + ofBool p.1.poison * 2 ^ p.2) 0) ((t.acc.length + 7) / 8)
  body ++ List.replicate (roundUp body.length 64 - body.length) 0

/-- Whether the descriptor of an image is none, or one whose fields are within their limits and its reserved bytes 0 (R189, R203). -/
def imageDescOk (d : Nat) : Bool := d == 0 || (bitsOf d 53 11 == 0 && bitsOf d 64 32 != 0 && bitsOf d 160 96 == 0)

/-- The header of an image: M, N, and whether every field is within its limits. -/
def imageOk (x scratch : Nat) : Bool :=
  let m := bitsOf x 0 16
  let n := bitsOf x 16 16
  let w := BitVec.ofNat 64 (bitsOf x 64 64)
  let st := bitsOf x 128 32
  let kdone := bitsOf x 160 32
  let ks := bitsOf x 192 32
  let a := bitsOf x 224 32
  let cause := bitsOf st 8 4
  dimsOk m n && bitsOf x 32 32 == 0 && bitsOf st 2 6 == 0 && bitsOf st 12 20 == 0 &&
  (if bitAt st 1 then [1, 2, 3, 4, 6].contains cause else cause == 0) &&
  bitsOf w.toNat 42 22 == 0 && decide (kdone ≤ ks) && imageDescOk (bitsOf x 256 256) &&
  (if bitAt st 0 then
      precOk (w.toNat % 2 ^ 32) && decide (1 ≤ ks) && decide (ks ≤ 4096) && a % 32 == 0 && decide (n ≤ wMaxN w) &&
        decide (a + wSlot w * ks * m * wBlocks w ≤ scratch)
    else true)

/-- `mrest` performed on a tile that has its units: accumulators, poison, descriptor, ERROR, and the held operation put
back in its place in the order. The padding behind the poison bitmap is not counted among the reserved bytes: R203 has it written
as zero and names no check of it (DESIGN CHOICE, log entry 73). -/
def State.doRestore (s : State) (b : Block) (k : TileCmd) : State :=
  match s.laneRead b (cmdReader k.id) k.a (roundUp (64 + 8 * k.m * k.n + (k.m * k.n + 7) / 8) 64) with
  | (s, .error f) => s.imgTrouble b k f.img
  | (s, .ok bs) =>
    let x := fromBytes (bs.take 64)
    if !imageOk x b.sheet.scratch || bitsOf x 0 16 != k.m || bitsOf x 16 16 != k.n then s.failCmd b k 4
    else
      let num := k.m * k.n
      let pois := fromBytes ((bs.drop (64 + 8 * num)).take ((num + 7) / 8))
      let accs := (List.range num).map fun e =>
        (⟨BitVec.ofNat 64 (fromBytes ((bs.drop (64 + 8 * e)).take 8)), bitAt pois e⟩ : Acc)
      let desc := bitsOf x 256 256
      let cause := bitsOf x 136 4
      let later := b.rebinds k.dest k.id
      let s := (s.setDesc b.uid k (if desc = 0 then none else some desc) 0).updTile b.uid k.dest fun t =>
        { t with acc := accs, cause,
                 st := if cause ≠ 0 ∧ t.st = .bound ∧ !later then .error else t.st }
      if bitAt x 128 then
        let w := BitVec.ofNat 64 (bitsOf x 64 64)
        s.updCmd b.uid k.id (fun k => { k with op := 0xD2, wregs := [w], a := bitsOf x 224 32, b := bitsOf x 192 32,
                                               kdone := bitsOf x 160 32, granted := false }) |>.tileKick b.core
      else s.endCmd b.uid k.id

/-! ### Events -/

/-- The tile after its units are granted: zero, with no poison, image or descriptor (R186). -/
def Tile.fill (t : Tile) (m n : Nat) (later : Bool) : Tile :=
  { t with acc := List.replicate (m * n) ⟨0, false⟩, units := tileUnits m n, desc := none, ws := 0,
           cause := 0, ue := false,
           st := if t.st = .pending ∧ !later then .bound else t.st }

/-- The units of a command granted. -/
def State.grantUnits (s : State) (b : Block) (k : TileCmd) (m n : Nat) : State :=
  let s := (s.setDesc b.uid k none 0).updTile b.uid k.dest fun t => t.fill m n (b.rebinds k.dest k.id)
  s.updCore b.core fun c => { c with image := c.image.filter fun i => !(i.uid == b.uid && i.tile == k.dest) }

/-- Whether no other command of a core began waiting for units before one. -/
def State.firstWaiter (s : State) (core n : Nat) : Bool :=
  (s.blocks.filter fun b => b.core == core && b.onCore).all fun b => b.cmds.all fun k =>
    match k.waiting with | some m => decide (n ≤ m) | none => true

/-- TILE_ALLOCATE (R186): a pending tile name obtains free units and becomes BOUND. An `mrest` first reads its image's
header, which gives its dimensions (R203). -/
def execTileAllocate (id : Nat) (s : State) : Host.Outcome State Fault Refusal :=
  match s.tileCmd? id with
  | none => .next s
  | some (b, k) =>
    match k.waiting with
    | none => .next s
    | some n =>
      if !s.firstWaiter b.core n || !b.onCore || k.hold.isSome then .next s
      else if k.op = 0xD3 then
        if tileUnits k.m k.n > s.freeUnits b.core then .next s
        else .next ((s.grantUnits b k k.m k.n).endCmd b.uid id)
      else match s.laneRead b (cmdReader id) k.a 64 with
        | (s, .error .wait) => .next s
        | (s, .error (.fault f)) => .next ((s.updCmd b.uid id fun k => { k with waiting := none }).troubleCmd b k f)
        | (s, .ok bs) =>
          let x := fromBytes bs
          let m := bitsOf x 0 16
          let n := bitsOf x 16 16
          if !imageOk x b.sheet.scratch then .next (s.failCmd b k 4)
          else if tileUnits m n > s.freeUnits b.core then .next s
          else
            let s := s.grantUnits b k m n
            let s := s.updCmd b.uid id fun k => { k with waiting := none, granted := true, m, n }
            .next ((if b.rebinds k.dest id then s else s.updTile b.uid k.dest fun t => { t with m, n }).tileKick b.core)

/-- ARRAY_PICK (R195): at a boundary or when idle, the array takes the ready command of the least virtual clock. -/
def execArrayPick (core : Nat) (s : State) : Host.Outcome State Fault Refusal :=
  match s.cores[core]? with
  | none => .next s
  | some c =>
    if c.array.isSome then .next s
    else
      let s := s.tileKick core
      let ready := s.blocks.filter fun b => b.core == core && b.onCore && !s.frozen b.ctx &&
        b.cmds.any fun k => s.arrayReady b k
      match leastBy (fun (b : Block) => (b.vclock * 64 + b.ctx) * 2 ^ 96 + b.lin) ready with
      | none => .next s
      | some b =>
        match b.cmds.find? fun k => s.arrayReady b k with
        | none => .next s
        | some k => .next (s.updCore core fun c => { c with array := some ⟨b.uid, k.id, k.op == 0xDB, []⟩ })

/-- The format that an `mloadb` asks for by its captured precision register (R189). -/
def loadFmtOk (w : BitVec 64) (r : TensorRec) : Bool := if wRN w then r.fmt == 2 else r.isBZ && r.signed == wSGB w

/-- IMAGE_LOADED (R195, R196): the image for the step is in the array, reloaded from the tile's remembered descriptor if it
was absent, and the step runs; or the command fails (R190, R202). The step reads its rows of A here: a scratchpad load that waits
in the array for the copies of the range scoreboard (R204, R256; DEDUCED, log entry 74) and meets uncorrectable lines (R393). -/
def execImageLoaded (core : Nat) (s : State) : Host.Outcome State Fault Refusal :=
  match (s.cores[core]?.bind fun c => c.array.map fun a => (c, a)) with
  | none => .next s
  | some (c, a) =>
    match s.tileCmd? a.cmd with
    | none => .next (s.freeArray core)
    | some (b, k) =>
      if a.running || k.op ≠ 0xD2 then .next s
      else
        let t := b.tile k.dest
        let w := k.w0
        let rows := k.stepRange k.kdone
        let run : State → Image → State := fun s i =>
          if i.rn != wRN w || decide (wWB w > i.ws) then (s.freeArray core).failCmd b k 2
          else if b.scratchBad rows.1 rows.2 then (s.freeArray core).failCmd b k 3
          else
            (s.updTile b.uid k.dest fun t => { t with ws := i.ws }).updCore core fun c =>
              { c with array := some { a with running := true, rows := s.scratchRead b.uid rows.1 rows.2 }, image := some i }
        match t.desc with
        | none => .next ((s.freeArray core).failCmd b k 6)
        | some d =>
          if (s.rangeWait b.uid rows.1 rows.2 false).isSome then .next s
          else match c.image.filter fun i => i.uid == b.uid && i.tile == k.dest && i.step == k.kdone &&
              i.cols.all fun c => c.length == wBlocks w with
          | some i => .next (run s i)
          | none =>
            match s.readImage b (cmdReader k.id) k.dest d t.ws k.kdone k.n (wBlocks w) (fun r => r.isBZ || r.fmt == 2) with
            | (s, .error .wait) => .next s
            | (s, .error e) => .next (((s.endBring (dieOf b.core) (cmdReader k.id)).freeArray core).imgTrouble b k e)
            | (s, .ok i) => .next (run (s.endBring (dieOf b.core) (cmdReader k.id)) i)

/-- K_STEP_END (R191 to R196): the step's additions reach the tile store all together; the operation is done after its last
step, stopped if an `msave.stop` asks for it, or gives up the array at the boundary. -/
def execKStepEnd (core : Nat) (s : State) : Host.Outcome State Fault Refusal :=
  match (s.cores[core]?.bind fun c => c.array.map fun a => (c, a)) with
  | none => .next s
  | some (c, a) =>
    match s.tileCmd? a.cmd, c.image with
    | some (b, k), some img =>
      if !a.running || k.op ≠ 0xD2 then .next s
      else
        let r := kStep k.w0 img (k.stepRows a.rows) (b.tile k.dest).acc
        let cost := if wRN k.w0 then 75 * k.m else k.m * wWA k.w0 * wWB k.w0
        let s := s.updTile b.uid k.dest fun t => { t with acc := r.1 }
        let s := s.updBlock b.uid fun b => { b with vclock := b.vclock + cost }
        let s := s.updCmd b.uid k.id fun k => { k with kdone := k.kdone + 1, flags := k.flags ||| r.2 }
        let s := s.freeArray core
        let k' : TileCmd := { k with kdone := k.kdone + 1 }
        if k'.kdone ≥ k.ks then .next (s.endCmd b.uid k.id)
        else if b.cmds.any fun m => m.stops == some k.id then .next (s.stopRun b.uid k')
        else .next (s.tileKick core)
    | none, _ => .next (s.freeArray core)
    | some _, none => .next s

/-- CIM_PARITY_ERROR (R205): the step's work is discarded, and the image is reloaded before the step runs again. -/
def execCimParityError (core : Nat) (s : State) : Host.Outcome State Fault Refusal :=
  match s.cores[core]? with
  | none => .next s
  | some c => .next (match c.array with
    | some a => (match s.tileCmd? a.cmd with
      | some (_, k) =>
        if a.running && k.op == 0xD2 then
          s.updCore core fun c => { c with array := some { a with running := false, rows := [] }, image := none }
        else s
      | none => s)
    | none => s)

/-- The array serves a command of a core. -/
def State.served (s : State) (core uid id : Nat) : Bool :=
  match s.cores[core]? with | some c => c.array.any fun a => a.uid == uid && a.cmd == id | none => false

/-- `mloadb` performed (R189): the array is kept while bytes are not at hand. -/
def State.doLoad (s : State) (b : Block) (k : TileCmd) : State :=
  let stop (s : State) (e : ImgErr) : State := if e = .wait then s else (s.freeArray b.core).imgTrouble b k e
  match s.laneRead b (cmdReader k.id) k.a 32 with
  | (s, .error f) => stop s f.img
  | (s, .ok bs) =>
    let d := fromBytes bs
    match s.readImage b (cmdReader k.id) k.dest d 0 0 k.n (wBlocks k.w0) (loadFmtOk k.w0) with
    | (s, .error e) => stop s e
    | (s, .ok i) =>
      (((s.freeArray b.core).setDesc b.uid k (some d) i.ws).updCore b.core fun c => { c with image := some i }).endCmd b.uid k.id

/-- TILE_COMMAND_COMPLETE (R185): a command that may start is performed and sets its flags, fails (R202), or is skipped
where its tile is in ERROR (R186). `mloadb` and `mrecon` have the array first (R195). -/
def execTileCommandComplete (id : Nat) (s : State) : Host.Outcome State Fault Refusal :=
  match s.tileCmd? id with
  | none => .next s
  | some (b, k) =>
    if !s.cmdReady b k || !b.onCore then .next s
    else if b.skips k then
      .next (((if k.op = 0xD8 then s.skipSlice b k else s)).endCmd b.uid id)
    else .next (match k.op with
      | 0xD1 => if s.served b.core b.uid id then s.doLoad b k else s
      | 0xD2 => if k.kdone ≥ k.ks then s.endCmd b.uid id else s
      | 0xD3 =>
        if k.w.fn = 1 then
          ((s.setDesc b.uid k none 0).updTile b.uid k.dest fun t =>
            { t with acc := [], units := 0, cause := 0, ue := false }).endCmd b.uid id
        else s
      | 0xD6 => (match s.laneWrite b (cmdReader id) k.a (tileImage b k s.choices) with
        | (s, some f) => s.imgTrouble b k f.img
        | (s, none) => { s.endCmd b.uid id with choices := s.choices + 1 })
      | 0xD7 => if k.granted then s.doRestore b k else s
      | 0xD8 => (s.doSlice b k).endCmd b.uid id
      | 0xD9 => (s.doStore b k).endCmd b.uid id
      | _ => if s.served b.core b.uid id then ((s.freeArray b.core).doRecon b k).endCmd b.uid id else s)

/-- TILE_STORE_ERROR (R205, R393): a correctable error is corrected and counted; an uncorrectable one is counted, poisons its element,
sets UE and is logged. -/
def execTileStoreError (uid tile elem : Nat) (correctable : Bool) (s : State) : Host.Outcome State Fault Refusal :=
  match s.block? uid with
  | none => .next s
  | some b =>
    if elem ≥ (b.tile tile).acc.length then .next s
    else if correctable then .next { s with mgmt := { s.mgmt with ce := (s.mgmt.ce + 1) % 2 ^ 32 } }
    else
      let s := { s with mgmt := { s.mgmt with ue := (s.mgmt.ue + 1) % 2 ^ 16 } }
      let s := s.updTile uid tile fun t => { t with ue := true, acc := updAt t.acc elem fun a => { a with poison := true } }
      .next (s.logEvent b.ctx { cls := 8, detail := 0, async := true, core := b.core, blk := b.lin, attempt := b.attempt, tag := b.launch })

end Sys2Proof.Machine
end

