-- ==== Sys2Proof/Machine/Ring.lean ====
section
/-! DEFINITION. Batches of copies as their thread numbers them (R247, R254, R255), and the stage rings of a block (R271 to
R273). -/

namespace Sys2Proof.Machine
open Sys2Proof

/-! ### Batches (R247) -/

/-- Whether a number covers a batch: serial arithmetic. -/
def batchCovers (n b : Nat) : Bool := decide ((n + 2 ^ 32 - b % 2 ^ 32) % 2 ^ 32 < 2 ^ 31)

/-- The copies of a thread that are not complete. -/
def State.copiesOf (s : State) (uid ci l : Nat) : List Copy := s.copies.filter fun c => c.uid == uid && c.ci == ci && c.lane == l

/-- The copies that an arrival of a thread carries: those of every batch that it has sealed (R255). -/
def State.carries (s : State) (uid ci l : Nat) (t : Thread) : List Nat :=
  ((s.copiesOf uid ci l).filter fun c => batchCovers t.batch.toNat c.batch).map (·.id)

/-- Whether some sealed batch that a number covers is not complete (R254). -/
def State.batchOpen (s : State) (uid ci l : Nat) (t : Thread) (n : Nat) : Bool :=
  (s.copiesOf uid ci l).any fun c => batchCovers t.batch.toNat c.batch && batchCovers n c.batch

/-- Whether every copy of a list is complete. -/
def State.copiesDone (s : State) (ids : List Nat) : Bool := ids.all fun i => !s.copies.any fun c => c.id == i

/-! ### Rings -/

def Block.ring (b : Block) (r : Nat) : Ring := b.body.rings.getD r Ring.none
def State.updRing (s : State) (uid r : Nat) (f : Ring → Ring) : State :=
  s.updBlock uid fun b => { b with body := { b.body with rings := updAt b.body.rings r f } }

/-- The bytes of a width code (R270). -/
def ringBytes (width : Nat) : Nat := 4 * 2 ^ width

/-- A ring's slot after a put that carries copies (R271). -/
def putState (s : State) (ids : List Nat) : SlotState := if s.copiesDone ids then .full else .filling ids

/-- FILLING slots whose copies are complete become FULL (R271). -/
def State.fillRings (s : State) (uid : Nat) : State :=
  let fill : SlotState → SlotState := fun k => match k with
    | .filling ids => putState s ids
    | k => k
  s.updBlock uid fun b => { b with body := { b.body with rings := b.body.rings.map fun r => { r with slots := r.slots.map fill } } }

/-- What a group's test finds (R271, R272). -/
inductive RingTest where
  | ready
  | waits
  /-- Its width or its count does not suit the ring. -/
  | misuse
deriving DecidableEq, Repr

/-- The width code of a ring instruction. -/
def RingWait.width (g : RingWait) : Nat := g.w.mod.toNat % 4

/-- The test of a group against its ring. -/
def Block.ringTest (b : Block) (g : RingWait) : RingTest :=
  let r := b.ring g.ring
  let k := g.lanes.length
  if r.n = 0 then .waits
  else if r.width ≠ g.width ∨ k > r.n then .misuse
  else if g.put then (if (r.pidx + 32 - r.cidx) % 32 + k ≤ r.n then .ready else .waits)
  else if (List.range k).all fun i => r.slots.getD ((r.cidx + i) % 32 % r.n) .empty == .full then .ready else .waits

/-- One lane's put (R272): its item in the low bytes of the slot, the others 0. -/
def State.ringPut (s : State) (uid ring item : Nat) (ids : List Nat) (width : Nat) : State :=
  match s.block? uid with
  | none => s
  | some b =>
    let r := b.ring ring
    let k := r.pidx % r.n
    let s := s.updBlock uid fun b => { b with body := { b.body with
      scratch := writeBytes b.body.scratch (r.base + 16 * k) (toBytes (item % 2 ^ (8 * ringBytes width)) 16) } }
    s.updRing uid ring fun r => { r with slots := updAt r.slots k fun _ => putState s ids, pidx := (r.pidx + 1) % 32 }

/-- One lane's take (R272). -/
def State.ringGet (s : State) (uid ci lane clk : Nat) (ring : Nat) (w : Fields) (width : Nat) : State :=
  match s.block? uid with
  | none => s
  | some b =>
    let r := b.ring ring
    let k := r.cidx % r.n
    let v := fromBytes (readBytes b.body.scratch (r.base + 16 * k) (ringBytes width))
    let s := s.updRing uid ring fun r => { r with slots := updAt r.slots k fun _ => .empty, cidx := (r.cidx + 1) % 32 }
    s.updCrew uid ci fun c => wrvOf c clk lane w w.d (8 * ringBytes width) v false

/-- Lanes that wait at an instruction fault there (R78, R329). -/
def State.faultWaiting (s : State) (uid ci pc len : Nat) (fs : List (Nat × LaneFault)) : State :=
  let s := s.updCrew uid ci fun c => fs.foldl (fun c p => c.updThread p.1 fun t => t.park .replay) c
  s.takeFaults uid ci pc (pc + len) fs true false

/-- The place of a group in the order of a cycle: ascending slice, then the lower lane (R272). -/
def Block.ringKey (b : Block) (g : RingWait) : Nat :=
  match b.crew? g.ci with
  | some c => c.slice * 2048 + ((g.lanes.map fun p => p.1).headD 0) * 64 + c.slot
  | none => 0

/-- The place in the order of a cycle from which groups may still act: above the one that acted last (R272). -/
def Block.ringFrom (b : Block) (clk : Nat) : Nat := if b.body.ringAt.1 = clk + 1 then b.body.ringAt.2 else 0

/-- A group that is ready acts, its lanes in ascending order. -/
def State.ringAct (s : State) (uid clk : Nat) (g : RingWait) : State :=
  (g.lanes.foldl (fun (s : State) p =>
    if g.put then s.ringPut uid g.ring p.2.1 p.2.2 g.width else s.ringGet uid g.ci p.1 clk g.ring g.w g.width) s).updBlock uid
      fun b => { b with body := { b.body with ringAt := (clk + 1, b.ringKey g + 1) } }

/-- The order in which waiting groups are tested. -/
def Block.ringOrder (b : Block) : List RingWait := sortBy b.ringKey b.body.ringWaits

/-- One waiting group served: the first below a place, and above the one that acted last in the cycle, that is ready or invalid (R271,
R272). -/
def State.ringServe (s : State) (uid below : Nat) : State :=
  match s.block? uid with
  | none => s
  | some b =>
    match b.ringOrder.find? fun g => decide (b.ringFrom (s.clockOf b.core) ≤ b.ringKey g) && decide (b.ringKey g < below) && b.ringTest g != .waits with
    | none => s
    | some g =>
      let s := s.updBlock uid fun b => { b with body := { b.body with ringWaits := b.body.ringWaits.filter fun h => h.group != g.group } }
      if b.ringTest g = .misuse then
        s.faultWaiting uid g.ci g.pc g.len (g.lanes.map fun p => (p.1, protF 0x08 0))
      else
        let s := s.ringAct uid (s.clockOf b.core) g
        s.updCrew uid g.ci fun c => g.lanes.foldl (fun c p => c.updThread p.1 Thread.complete) c

/-- Every waiting group below a place that can act, acts. -/
def State.settleBelow (s : State) (uid below : Nat) : State :=
  let s := s.fillRings uid
  let n := match s.block? uid with | some b => b.body.ringWaits.length | none => 0
  (List.range n).foldl (fun s _ => s.ringServe uid below) s

/-- Every waiting group that can act, at the end of a cycle. -/
def State.settleRings (s : State) (uid : Nat) : State := s.settleBelow uid 8192

/-- `rput` and `rget`: the active lanes act together, or wait together. Slices issue in ascending order, so the groups that wait in
lower places act first, the others at the end of the cycle; one whose place the cycle has passed acts in the next (R272). -/
def ringBody (put : Bool) (x : Ctx) : BodyRes :=
  if x.act.isEmpty then .done x.s0 []
  else
    let (id, s) := x.s0.fresh
    let width := x.mod % 4
    let lanes := x.act.map fun l =>
      (l, (if put then x.a l (8 * ringBytes width) else 0),
        (if put && bitAt x.mod 2 then x.s0.carries x.uid x.ci l (x.t l) else []))
    let g : RingWait := ⟨id, (if put then x.w.d else x.w.a).toNat, put, x.ci, x.pc, x.len, x.w, lanes⟩
    let s := s.settleBelow x.uid (x.b.ringKey g)
    match (s.blockOr x.b).ringTest g with
    | .misuse => .done s (x.act.map fun l => (l, .fault (protF 0x08 0)))
    | .ready => .done (s.ringAct x.uid x.clk g) []
    | .waits =>
      .done (s.updBlock x.uid fun b => { b with body := { b.body with ringWaits := b.body.ringWaits ++ [g] } })
        (x.act.map fun l => (l, .wait (.ring id)))

/-- `rput` (R272, R273). -/
def execRput (w : Fields) (s : State) := runLong 0xE0 (some 0) w s readsA (ringBody true)

/-- `rget` (R272, R273). -/
def execRget (w : Fields) (s : State) := runLong 0xE1 none w s [] (ringBody false)

/-- `rput.init` (R271), from the first active lane. -/
def execRputInit (w : Fields) (s : State) := runLong 0xE0 (some 1) w s (lowRead [0, 1]) fun x =>
  if x.act.isEmpty then .done x.s0 []
  else
    let a := x.a x.low 32
    let v := x.bv x.low 32
    let n := bitsOf v 0 5
    let width := bitsOf v 8 2
    if n = 0 ∨ n > 16 ∨ width = 3 ∨ bitsOf v 5 3 ≠ 0 ∨ v / 2 ^ 10 ≠ 0 then refuseAll (fun _ => descF 0 v) x
    else if a % 16 ≠ 0 then refuseAll (fun _ => alignF a 4) x
    else if a + 16 * n > x.b.sheet.scratch then refuseAll (fun _ => protF 0x01 a) x
    else .done (x.s0.updRing x.uid x.w.d.toNat fun _ => ⟨a, n, width, 0, 0, List.replicate n .empty⟩) []

end Sys2Proof.Machine
end

