-- ==== Sys2Proof/Machine/Copy.lean ====
section
/-! DEFINITION. The copy batch (R246 to R262): descriptors and their checks, the copy instructions, the life of a copy, die
queues and flags, staged reductions and `comb`. -/

namespace Sys2Proof.Machine
open Sys2Proof

/-! ### Descriptors (R248, R250) -/

/-- A copy descriptor's fields. -/
def CopyDesc.parse (x : Nat) : CopyDesc :=
  { gaddr := bitsOf x 0 64, saddr := bitsOf x 64 32, gstride := bitsOf x 96 32, sstride := bitsOf x 128 32,
    rowb := bitsOf x 160 32, rows := bitsOf x 192 16, kind := bitsOf x 208 4, dir := bitsOf x 212 1, xtra := bitsOf x 216 8 }

/-- The byte offset of a descriptor's first invalid field for an instruction (R248, R258, R259, R261). -/
def copyBad (op x : Nat) : Option Nat :=
  let d := CopyDesc.parse x
  let one := d.kind == 1
  if d.gaddr ≥ 2 ^ 53 then some 6
  else if one && d.sstride != 0 then some 16
  else if (if one then !(decide (1 ≤ d.rowb) && decide (d.rowb ≤ 4096))
           else !(d.rowb % 4 == 0 && decide (4 ≤ d.rowb) && decide (d.rowb ≤ 65536))) then some 20
  else if (if one then d.rows != 1 else !(decide (1 ≤ d.rows) && decide (d.rows ≤ 4096))) then some 24
  else if bitsOf x 213 3 ≠ 0 ∨ d.kind > 2 then some 26
  else if (op == 0xC1 && d.dir == 1) || ((op == 0xC2 || op == 0xC3) && !(d.dir == 1 && d.kind == 0)) then some 26
  else if (match op with
      | 0xC2 => decide (d.xtra > 3)
      | 0xC3 => !(let fn := d.xtra % 16; (decide (fn ≤ 5) || fn == 8) && atomTypeOk true fn (d.xtra / 16))
      | _ => if one then !bzWidths.contains d.xtra else d.xtra != 0) then some 27
  else if bitsOf x 224 32 ≠ 0 then some 28
  else none

/-- The element size of `cpyr` (R261), 1 otherwise. -/
def CopyDesc.elem (d : CopyDesc) (op : Nat) : Nat := if op = 0xC3 then memBytes (d.xtra / 16) else 1

/-- ALIGN of the addresses and strides (R248, R250). -/
def CopyDesc.misaligned (d : CopyDesc) (op : Nat) : Option LaneFault :=
  let k := d.elem op
  let ls := if d.kind = 1 then [(d.saddr, 32), (d.gaddr, 32)]
    else [(d.saddr, if d.kind = 2 then 2 else max 4 k), (d.sstride, max 4 k), (d.gaddr, max 4 k), (d.gstride, max 4 k)]
  (ls.find? fun p => p.1 % p.2 != 0).map fun p => alignF p.1 (Nat.log2 p.2)

/-- The length of the scratchpad range (R249). -/
def CopyDesc.span (d : CopyDesc) : Nat :=
  if d.kind = 1 then d.rowb * slotBytes d.xtra
  else (d.rows - 1) * d.sstride + (if d.kind = 2 then d.rowb / 2 else d.rowb)

/-- The checks of R250 behind the descriptor's own address. -/
def checkCopy (op da scratch x : Nat) : Except LaneFault CopyDesc :=
  let d := CopyDesc.parse x
  match copyBad op x with
  | some o => .error (descF da o)
  | none =>
    match d.misaligned op with
    | some f => .error f
    | none => if d.saddr + d.span > scratch then .error (protF 0x01 d.saddr) else .ok d

/-! ### Pieces of a copy (R249) -/

/-- A part of a copy that moves at once. -/
inductive Piece where
  /-- A slot filled with zero bytes. -/
  | zero (sa n : Nat)
  /-- Global bytes within one line, against scratchpad. -/
  | move (va sa n : Nat)
  /-- One staged element (R260). -/
  | stage (va sa : Nat)
deriving DecidableEq, Repr

/-- The pieces of a run of global bytes. -/
def movePieces (va sa n : Nat) (half : Bool) : List Piece :=
  (linePieces va n).map fun p => .move p.1 (if half then sa + (p.1 - va) / 2 else sa + (p.1 - va)) p.2

/-- The pieces of KINDs 0 and 2, rows and bytes ascending. -/
def CopyDesc.rowPieces (d : CopyDesc) (op : Nat) : List Piece :=
  (List.range d.rows).flatMap fun r =>
    let va := d.gaddr + r * d.gstride
    let sa := d.saddr + r * d.sstride
    if op = 0xC3 then (List.range (d.rowb / d.elem op)).map fun i => .stage (va + i * d.elem op) (sa + i * d.elem op)
    else movePieces va sa d.rowb (d.kind == 2)

/-- The pieces of KIND 1 under a record. -/
def CopyDesc.blockPieces (d : CopyDesc) (r : TensorRec) : List Piece :=
  let z := slotBytes d.xtra
  (List.range d.rowb).flatMap fun i =>
    let blk := d.gstride + i
    let sa := d.saddr + i * z
    (if d.dir = 0 then [.zero sa z] else []) ++
    (if blk ≥ r.blks then []
     else movePieces (r.hbase + 2 * blk) sa 2 false ++ movePieces (r.ebase + 8 * d.xtra * blk) (sa + 32) (8 * d.xtra) false)

/-! ### Global accesses of a copy (R252) -/

/-- Why a step of a copy is not made. -/
inductive Stop where
  | fault (f : LaneFault)
  /-- A home outside the device must answer first (R232, R374). -/
  | ask (e : ReqElem)
  /-- A link wakes, or a walk waits for its lines: the copy goes on later. -/
  | wait
deriving DecidableEq, Repr

/-- What a home outside the device has answered for the next step of a copy, which takes it. -/
def State.takeArrived (s : State) (id : Nat) : State × Option (List Byte) :=
  ({ s with copies := mapWhere (fun c => c.id == id) (fun c => { c with arrived := none }) s.copies },
   (s.copies.find? fun c => c.id == id).bind (·.arrived))

def State.updCopy (s : State) (id : Nat) (f : Copy → Copy) : State :=
  { s with copies := mapWhere (fun c => c.id == id) f s.copies }

/-- The core's DIRTY L1 lines over a physical line written back (R252). -/
def State.flushSource (s : State) (core line : Nat) : State :=
  (s.l1.filter fun l => l.core == core && l.pline == line && l.dirty).foldl State.publishLine s

/-- Where a global access of a copy within one line goes, once its walk is made and its links are UP: its place and leaf. -/
def State.copyReach (s : State) (b : Block) (c : Copy) (va : Nat) (acc : Access) : State × Except Stop (Nat × Leaf) :=
  if va ≥ 2 ^ 53 then (s, .error (.fault (protF 0x01 va)))
  else
    let shadow := (s.shadowTag b va).isSome
    match s.approach (dieOf b.core) (copyReader c.id) b.ctx va acc true shadow with
    | (s, .wait) => (s, .error .wait)
    | (s, .remote a) => (s, .error (.fault (remoteF va a)))
    | (s, .here) => (s, match s.agentXlate b.ctx va acc true shadow with
      | .error e => .error (.fault (xlateF e va acc))
      | .ok p => .ok p)

/-- Global bytes within one line read at the L2, with race detection; a home outside the device is asked (R374). -/
def State.copyRead (s : State) (b : Block) (c : Copy) (va n : Nat) : State × Except Stop (List Byte) :=
  match s.copyReach b c va .read with
  | (s, .error e) => (s, .error e)
  | (s, .ok (pa, leaf)) =>
    let key := memKey s.hubid pa
    let read (s : State) : State × Except Stop (List Byte) :=
      let s := (s.flushSource b.core (lineOf key)).recall (lineOf key) false
      match s.l2Fault b.core va key n with
      | some f => (s, .error (.fault f))
      | none => (s.l2Read (dieOf b.core) (lineOf key), .ok (b.overlay key (readBytes s.mem key n)))
    match placeOf s.hubid pa leaf.type with
    | .home _ => read s
    | .peer a =>
      if s.outHeld (lineOf key) false then read s
      else if s.agentDead a then (s, .error (.fault (remoteF va a)))
      else (s, .error (.ask (reqElem (.peer a) va pa n .fill [])))
    | .hostIo =>
      match s.takeArrived c.id with
      | (s, some bs) => (s, .ok (b.overlay key bs))
      | (s, none) =>
        if s.agentDead hostAgent then (s, .error (.fault (remoteF va hostAgent)))
        else (s, .error (.ask (reqElem .hostIo va pa n .read [])))

/-- The die at whose L2 a copy writes: `cpyd` names it (R259). -/
def Copy.writesAt (c : Copy) : Nat := if c.op = 0xC2 then c.desc.xtra else dieOf c.core

/-- Global bytes of a copy written at an L2 slice, with race detection. They follow the issuing core's own earlier stores, whose bytes
leave its L1: no later publication overwrites them (R219, R253, R259). -/
def State.copyStore (s : State) (b : Block) (c : Copy) (va key : Nat) (leaf : Leaf) (bs : List Byte) : State × Option Stop :=
  let mask := lineMask (lineOf key) key bs.length
  let s := s.recall (lineOf key) true
  match s.conflictBefore? b.core (lineOf key) mask (some c.id) with
  | some i => (s, some (.fault (mmeF va i)))
  | none =>
    match (if s.dieFenced c.writesAt then some (remoteF va (dieAgent c.writesAt)) else s.hostFault va key) with
    | some f => (s, some (.fault f))
    | none =>
      let s := ((s.setDirty leaf).coverBytes b.core (lineOf key) mask).l2Own c.writesAt (lineOf key)
      let s : State := { s with mem := writeBytes s.mem key bs }
      (s.updCopy c.id fun c => if c.dest.contains (lineOf key, mask) then c
        else { c with dest := c.dest ++ [(lineOf key, mask)] }, none)

/-- Global bytes within one line written at an L2 slice; a deterministic launch's go to the slate, and a home outside the device is
asked for the line, or sent the bytes (R219, R232, R374). -/
def State.copyWrite (s : State) (b : Block) (c : Copy) (va : Nat) (bs : List Byte) : State × Option Stop :=
  match s.copyReach b c va .write with
  | (s, .error e) => (s, some e)
  | (s, .ok (pa, leaf)) =>
    let key := memKey s.hubid pa
    let down := s.downSpokes.filter (· == c.writesAt)
    if b.sheet.det then
      (if s.slateRoom (s.blockOr b) key bs.length then ((s.setDirty leaf).slateStore b.uid va key bs, none)
       else (s, some (.fault (protF 0x07 va))))
    else if !down.isEmpty then (s.wakeSpokes down, some .wait)
    else match placeOf s.hubid pa leaf.type with
      | .home _ => s.copyStore b c va key leaf bs
      | .peer a =>
        if s.outHeld (lineOf key) true then s.copyStore b c va key leaf bs
        else if s.agentDead a then (s, some (.fault (remoteF va a)))
        else (s, some (.ask (reqElem (.peer a) va pa bs.length .own bs)))
      | .hostIo =>
        match s.takeArrived c.id with
        | (s, some _) => (s, none)
        | (s, none) =>
          if s.agentDead hostAgent then (s, some (.fault (remoteF va hostAgent)))
          else (s.setDirty leaf, some (.ask (reqElem .hostIo va pa bs.length .write bs)))

/-- The bytes of an element converted between FP32 and FP16 (R249): bytes and flags. -/
def convElem (toHalf : Bool) (bs : List Byte) : List Byte × Nat :=
  if toHalf then
    let r := fConv fp16 .rne (fp32.decode (fromBytes bs))
    (toBytes r.1 2, r.2)
  else
    let r := fConv fp32 .rne (fp16.decode (fromBytes bs))
    (toBytes r.1 4, r.2)

/-- Bytes cut into elements of `n` bytes and converted, with the flags. -/
def convBytes (toHalf : Bool) (bs : List Byte) : List Byte × Nat :=
  let n := if toHalf then 4 else 2
  let es := (List.range (bs.length / n)).map fun i => convElem toHalf ((bs.drop (n * i)).take n)
  (es.flatMap (·.1), es.foldl (fun f e => f ||| e.2) 0)

def State.copyFlags (s : State) (id f : Nat) : State := s.updCopy id fun c => { c with flags := c.flags ||| f }

/-- One piece moved, or why it is not. Scratchpad in a line marked uncorrectable is not read (R393). -/
def State.movePiece (s : State) (b : Block) (c : Copy) (p : Piece) : State × Option Stop :=
  match p with
  | .zero sa n => (s.scratchWrite b.uid sa (List.replicate n 0), none)
  | .stage va sa =>
    let ty := c.desc.xtra / 16
    let v : StageSlot := ⟨b.ctx, va, c.desc.xtra % 16, ty, b.lin, fromBytes (s.scratchRead b.uid sa (memBytes ty))⟩
    if (s.blockOr b).scratchBad sa (memBytes ty) then (s, some (.fault (poisonF sa)))
    else if va ≥ 2 ^ 53 then (s, some (.fault (protF 0x01 va)))
    else if !s.stageRoom v then (s, some (.fault (protF 0x07 va)))
    else
      let r := s.stageWrite b c.ci v
      (r.1.copyFlags c.id r.2, none)
  | .move va sa n =>
    let half := c.desc.kind == 2
    if c.desc.dir = 0 then
      match s.copyRead b c va n with
      | (s, .error f) => (s, some f)
      | (s, .ok bs) =>
        let r := if half then convBytes true bs else (bs, 0)
        ((s.scratchWrite b.uid sa r.1).copyFlags c.id r.2, none)
    else
      let k := if half then n / 2 else n
      if (s.blockOr b).scratchBad sa k then (s, some (.fault (poisonF sa)))
      else
        let bs := s.scratchRead b.uid sa k
        let r := if half then convBytes false bs else (bs, 0)
        match s.copyWrite b c va r.1 with
        | (s, some f) => (s, some f)
        | (s, none) => (s.copyFlags c.id r.2, none)

/-- The record of KIND 1, read once when the copy runs (R249). -/
def State.copyRecord (s : State) (b : Block) (c : Copy) : State × Except Stop TensorRec :=
  let got : State × Except Stop (List Byte) := match c.head with
    | some bs => (s, .ok bs)
    | none => s.copyRead b c c.desc.gaddr 32
  match got with
  | (s, .error f) => (s, .error f)
  | (s, .ok bs) =>
    let s := s.updCopy c.id fun c => { c with head := some bs }
    match checkRecord c.desc.gaddr bs with
    | .error f => (s, .error (.fault f))
    | .ok r => if !r.isBZ || r.wid != c.desc.xtra then (s, .error (.fault (descF c.desc.gaddr 28))) else (s, .ok r)

/-! ### The destination as an intent (R219) -/

/-- The lines of some global bytes as an intent, where they translate to memory of this device or of the host. -/
def State.intentOf (s : State) (b : Block) (va n : Nat) : List (Nat × BitVec 128) :=
  (linePieces va n).filterMap fun p =>
    if p.1 ≥ 2 ^ 53 then none else
    match s.agentXlate b.ctx p.1 .write true (s.shadowTag b p.1).isSome with
    | .error _ => none
    | .ok (pa, leaf) => (s.guardedKey pa leaf.type).map fun key => (lineOf key, lineMask (lineOf key) key p.2)

/-- The record that a KIND 1 copy will read, as coherent memory holds it: its destination is an intent from the copy's issue on
(DEDUCED, log entry 77). -/
def State.peekRecord (s : State) (b : Block) (va : Nat) : Option TensorRec :=
  if va ≥ 2 ^ 53 then none
  else match s.agentXlate b.ctx va .read true (s.shadowTag b va).isSome with
    | .error _ => none
    | .ok (pa, leaf) => (s.guardedKey pa leaf.type).bind fun key =>
      match checkRecord va (readBytes s.mem key 32) with | .ok r => some r | .error _ => none

/-- The destination of a copy as far as its pages are mapped (R219). -/
def State.destOf (s : State) (b : Block) (op : Nat) (d : CopyDesc) (head : Option (List Byte)) : List (Nat × BitVec 128) :=
  if d.dir ≠ 1 ∨ [0xC3, 0xC4, 0xC8].contains op ∨ b.sheet.det then []
  else if d.kind = 1 then
    let r := match head with
      | some bs => (match checkRecord d.gaddr bs with | .ok r => some r | .error _ => none)
      | none => s.peekRecord b d.gaddr
    match r with
    | none => []
    | some r => (d.blockPieces r).flatMap fun p => match p with | .move va _ n => s.intentOf b va n | _ => []
  else (List.range d.rows).flatMap fun r => s.intentOf b (d.gaddr + r * d.gstride) d.rowb

/-- The destination looked up again when the copy starts or goes on: its record has been read, and pages may have been mapped. -/
def State.renewDest (s : State) (b : Block) (id : Nat) : State :=
  s.updCopy id fun c => { c with dest := (c.dest ++ s.destOf b c.op c.desc c.head).eraseDups }

/-! ### Atomics of the dolly (R259, R262) -/

/-- A read-modify-write of an element at its home as one atomic at scope pkg (R229, R232): the line and the flags, or what stops it. On
coherent host memory the hub takes the line first. -/
def State.dollyAtomic (s : State) (b : Block) (c : Copy) (va n : Nat) (f : Nat → Nat × Nat) : State × Except Stop (Nat × Nat) :=
  match s.copyReach b c va .atomic with
  | (s, .error e) => (s, .error e)
  | (s, .ok (pa, leaf)) =>
    match s.guardedKey pa leaf.type with
    | none => (s, .error (.fault (protF 0x03 va)))
    | some key =>
      let line := lineOf key
      let got := if outsideLine line then s.bringLine hubDie (copyReader c.id) line true else (s, .here)
      match got.2.halt va with
      | some (.fault f) => (got.1, .error (.fault f))
      | some .wait => (got.1, .error .wait)
      | none =>
        let s := (got.1.dropLine b.core line).recall line true
        match s.l2Fault b.core va key n with
        | some f => (s, .error (.fault f))
        | none =>
          let s := s.setDirty leaf
          let r := f (fromBytes (readBytes s.mem key n))
          if outsideLine line then (s.cacheWrite pa (toBytes r.1 n), .ok (line, r.2))
          else
            let s := s.l2Own (dieOf b.core) line
            ({ s with mem := writeBytes s.mem key (toBytes r.1 n) }, .ok (line, r.2))

/-- The slots that `comb` folds, in its order (R262). -/
def combOrder (ctx lo n : Nat) (slots : List StageSlot) : List StageSlot :=
  sortBy (fun (t : StageSlot) => ((t.elem * 16 + t.fn) * 16 + t.ty) * 2 ^ 32 + t.src)
    (slots.filter fun t => t.ctx == ctx && decide (lo ≤ t.elem) && decide (t.elem < lo + n))

/-- One slot folded into its element and removed. -/
def State.foldSlot (s : State) (b : Block) (c : Copy) (t : StageSlot) : State × Option Stop :=
  match s.dollyAtomic b c t.elem (memBytes t.ty) (fun old => rmwValue t.fn t.ty old t.val 0) with
  | (s, .error f) => (s, some f)
  | (s, .ok r) => ({ s.copyFlags c.id r.2 with stage := s.stage.erase t }, none)

/-- `red.add.n32.release.pkg` of 1 on a flag (R259). -/
def State.raiseFlag (s : State) (b : Block) (c : Copy) : State × Option Stop :=
  match s.dollyAtomic b c c.desc.gaddr 4 (fun old => ((old + 1) % 2 ^ 32, 0)) with
  | (s, .error f) => (s, some f)
  | (s, .ok r) => (s.releaseAt b.core b.ctx r.1, none)

/-! ### The life of a copy (R252, R257) -/

/-- A copy that fails: its block is killed (R257). -/
def State.failCopy (s : State) (b : Block) (c : Copy) (f : LaneFault) : State :=
  (s.logEvent b.ctx { cls := f.cls, detail := f.detail, async := true, core := b.core, crew := c.ci, blk := b.lin,
                      attempt := b.attempt, pc := c.pc, lanes := 2 ^ c.lane, tag := b.launch, eaddr := f.eaddr,
                      einfo := f.einfo, copy := c.descAddr % 2 ^ 32 + c.batch % 2 ^ 32 * 2 ^ 32 }).killBlock b.uid

/-- A fault of a moving copy: PAGE goes to the driver and the copy is HELD; any other fails it. -/
def State.troubleCopy (s : State) (b : Block) (c : Copy) (f : LaneFault) : State :=
  let s := s.endBring (dieOf c.core) (copyReader c.id)
  let paged := match s.ctxs[b.ctx]? with | some k => f.cls == 6 && k.pfbase != 0 | none => false
  if paged then s.updCopy c.id fun c => { c with st := .held (.post f.detail f.eaddr (f.einfo % 4)) }
  else s.failCopy b c f

/-- Steps made in order up to the first that is not, with how many were made. -/
def runSteps {α : Type} (step : State → α → State × Option Stop) (s : State) (xs : List α) : State × Nat × Option Stop :=
  xs.foldl (fun (a : State × Nat × Option Stop) x => match a.2.2 with
    | some f => (a.1, a.2.1, some f)
    | none => match step a.1 x with
      | (s, none) => (s, a.2.1 + 1, none)
      | (s, some f) => (s, a.2.1, some f)) (s, 0, none)

/-- The steps of a copy that have not been made: it moves up to its end, a fault, or a piece for which a home outside the device must
answer first, or a link wake. -/
def State.runCopy (s : State) (id : Nat) : State :=
  match s.copies.find? fun c => c.id == id with
  | none => s
  | some c =>
    match s.block? c.uid with
    | none => s
    | some b =>
      let s := (s.updCopy id fun c => { c with st := .moving }).renewDest b id
      let close : State × Nat × Option Stop → State := fun r =>
        let s := r.1.updCopy id fun c => { c with moved := c.moved + r.2.1 }
        match r.2.2 with
        | some (.fault f) => s.troubleCopy b c f
        | some (.ask e) => s.postReq none (some id) c.pc 0 c.op 0 0 noFields [e]
        | some .wait => s
        | none => s.updCopy id fun c => { c with landed := true }
      if c.landed then s
      else if c.op = 0xC8 then
        (match s.raiseFlag b c with
          | (s, some f) => close (s, 0, some f)
          | (s, none) => close (s, 1, none))
      else if c.op = 0xC4 then
        close (runSteps (fun s t => s.foldSlot b c t) s (combOrder b.ctx c.desc.gaddr c.desc.rowb s.stage))
      else if c.desc.kind = 1 then
        (match s.copyRecord b c with
          | (s, .error f) => close (s, 0, some f)
          | (s, .ok r) => close (runSteps (fun s p => s.movePiece b c p) (s.renewDest b id) ((c.desc.blockPieces r).drop c.moved)))
      else close (runSteps (fun s p => s.movePiece b c p) s ((c.desc.rowPieces c.op).drop c.moved))

/-- Whether the scoreboard, the die queue and the order of staging let a copy begin (R252, R256, R259, R260). -/
def State.copyReady (s : State) (c : Copy) : Bool :=
  !(s.copies.any fun e => decide (e.id < c.id) && e.core == c.core &&
    ((c.queue.isSome && e.queue == c.queue) ||
     -- the staging writes of one lane are folded in program order (R260)
     (e.op == 0xC3 && c.op == 0xC3 && e.uid == c.uid && e.ci == c.ci && e.lane == c.lane) ||
     (e.uid == c.uid && (match e.range, c.range with
       | some (lo, n, w), some (lo', n', w') => (w || w') && decide (lo < lo' + n') && decide (lo' < lo + n)
       | _, _ => false))))

/-- A thread whose wait on batches is over (R254). -/
def State.freeCopyWaiter (s : State) (uid ci l : Nat) (t : Thread) : Thread :=
  match t.waitsOn with
  | some (.batch n) => if s.batchOpen uid ci l t n then t else t.complete
  | _ => t

/-- The waits of a block on copies, evaluated: its scratchpad accesses, its threads, the slots of its rings. -/
def State.freeCopyWaits (s : State) (uid : Nat) : State :=
  let s := s.settleLate uid
  let s1 := s.updBlock uid fun b => { b with body := { b.body with crews := b.body.crews.zipIdx.map fun c =>
    { c.1 with threads := c.1.threads.zipIdx.map fun t => s.freeCopyWaiter uid c.2 t.2 t.1 } } }
  s1.fillRings uid

/-- The finish row of R252: the entry and its range are freed, the flags set, the core's CLEAN copies of the lines that it
wrote dropped, a follow-on command made ready. -/
def State.finishCopy (s : State) (c : Copy) : State :=
  let s := (s.endBring (dieOf c.core) (copyReader c.id)).endBring hubDie (copyReader c.id)
  let s : State := { s with copies := s.copies.filter fun e => e.id != c.id,
                            l1 := s.l1.filter fun l => !(l.core == c.core && !l.dirty && c.dest.any fun d => d.1 == l.pline) }
  let clk := s.clockOf c.core
  let s := s.updCrew c.uid c.ci fun k => (k.inCycle clk).setFlags c.flags
  ((s.freeCopyWaits c.uid).tileKick c.core)

/-- Whether a copy that has started waits for nothing but links and walks: it goes on when it can. -/
def State.copyIdle (s : State) (c : Copy) : Bool := c.st == .moving && !c.landed && !s.reqs.any fun r => r.copy == some c.id

/-- COPY_START (R252): a queued copy starts once those ordered before it are done, and moves its bytes; one that has stopped at a
sleeping link goes on (R6, R377; log entry 78). -/
def execCopyStart (id : Nat) (s : State) : Host.Outcome State Fault Refusal :=
  match s.copies.find? fun c => c.id == id with
  | none => .next s
  | some c => .next (if c.op ≠ 0xC8 ∧ ((c.st = .queued ∧ s.copyReady c) ∨ s.copyIdle c) then s.runCopy id else s)

/-- COPY_FINISH (R252): the last byte has landed. -/
def execCopyFinish (id : Nat) (s : State) : Host.Outcome State Fault Refusal :=
  match s.copies.find? fun c => c.id == id with
  | none => .next s
  | some c => .next (if c.st = .moving ∧ c.landed then s.finishCopy c else s)

/-- FLAG_RAISE (R259): with every earlier entry of its queue done, the dolly adds 1 to the flag, which completes it. -/
def execFlagRaise (id : Nat) (s : State) : Host.Outcome State Fault Refusal :=
  match s.copies.find? fun c => c.id == id with
  | none => .next s
  | some c =>
    if c.op = 0xC8 ∧ (c.st = .queued ∨ c.st = .moving) ∧ s.copyReady c then
      let s := s.runCopy id
      .next (if s.copies.any fun c => c.id == id && c.landed then s.finishCopy c else s)
    else .next s

/-! ### Issue -/

/-- A copy as it issues. -/
def Ctx.newCopy (x : Ctx) (s : State) (l da : Nat) (d : CopyDesc) : Copy :=
  { id := 0, uid := x.uid, core := x.b.core, ctx := x.b.ctx, ci := x.ci, lane := l, op := x.op,
    batch := ((x.t l).batch.toNat + 1) % 2 ^ 32, pc := x.pc, queue := if x.op = 0xC2 then some d.xtra else none, st := .queued,
    descAddr := da, desc := d, range := some (d.saddr, d.span, d.dir == 0),
    dest := s.destOf x.b x.op d none,
    epoch := (match s.cores[x.b.core]? with | some c => c.epoch | none => 0),
    moved := 0, arrived := none, head := none, landed := false, flags := 0, follow := none }

/-- A copy entered (R246, R247). -/
def State.enterCopy (s : State) (c : Copy) : State × Nat :=
  let (id, s) := s.fresh
  ({ s with copies := s.copies ++ [{ c with id }] }, id)

/-- One lane of `cpy`, `cpyd` and `cpyr` (R248, R250). -/
def copyLane (x : Ctx) (s : State) (l : Nat) : State × LaneRes :=
  let da := x.a l 32
  scratchHold x s da 32 32 fun s =>
    match checkCopy x.op da x.b.sheet.scratch (fromBytes (s.scratchRead x.uid da 32)) with
    | .error f => (s, .fault f)
    | .ok d => ((s.enterCopy (x.newCopy s l da d)).1, .next)

def execCpy (w : Fields) (s : State) := runLong 0xC0 none w s readsA (laneBody copyLane)
def execCpyd (w : Fields) (s : State) := runLong 0xC2 none w s readsA (laneBody copyLane)
def execCpyr (w : Fields) (s : State) := runLong 0xC3 none w s readsA (laneBody copyLane)

/-- The first invalid field of the follow-on half (R258). -/
def followBad (x : Nat) : Option Nat :=
  let fop := bitsOf x 256 8
  if fop > 1 then some 32
  else if bitsOf x 264 8 > 15 then some 33
  else if bitsOf x 272 16 ≠ 0 then some 34
  else if fop = 1 ∧ bitsOf x 288 32 ≠ 0 then some 36
  else if fop = 0 ∧ (bitsOf x 320 13 = 0 ∨ bitsOf x 320 13 > 4096) then some 40
  else if fop = 0 ∧ bitsOf x 333 19 ≠ 0 then some 41
  else if fop = 0 ∧ bitsOf x 352 32 ≠ 0 then some 44
  else if fop = 1 ∧ bitsOf x 373 11 ≠ 0 then some 46
  else if bitsOf x 384 128 ≠ 0 then some 48
  else none

/-- The follow-on command of a descriptor, checked as the instruction that it stands for (R184, R206, R258). -/
def followCmd (x : Ctx) (b : Block) (v : Nat) : Except LaneFault TileCmd :=
  let t := bitsOf v 264 8
  let k (op a bb : Nat) : TileCmd := { x.cmd b [t] a bb [] with op }
  if bitsOf v 256 8 = 0 then mkRun b t (bitsOf v 288 32) (bitsOf v 320 32) (k 0xD2 (bitsOf v 288 32) (bitsOf v 320 32))
  else mkLoad b t (bitsOf v 320 64) (k 0xD1 (bitsOf v 320 64) 0)

/-- One lane of `cpym` (R258): the copy enters, and its follow-on takes its place in the tile order. -/
def cpymLane (x : Ctx) (s : State) (l : Nat) : State × LaneRes :=
  let da := x.a l 32
  scratchHold x s da 64 32 fun s =>
    let v := fromBytes (s.scratchRead x.uid da 64)
    match (copyBad x.op v).orElse fun _ => followBad v with
    | some o => (s, .fault (descF da o))
    | none =>
      match checkCopy x.op da x.b.sheet.scratch v with
      | .error f => (s, .fault f)
      | .ok d =>
        match followCmd x (s.blockOr x.b) v with
        | .error f => (s, .fault f)
        | .ok k =>
          let r := s.enterCopy (x.newCopy s l da d)
          let q := r.1.issueCmd x.uid { k with copy := some r.2 }
          (q.1.updCopy r.2 fun c => { c with follow := some q.2 }, .next)

/-- `cpym` (R206, R258). One whose descriptor a copy wrote after its issue may still have to wait for a tile's dimensions (R203). -/
def execCpym (w : Fields) (s : State) := runLong 0xC1 none w s readsA fun x =>
  if x.act.any (x.b.followPends x.c x.clk x.w) then .hold x.s0
  else match laneBody cpymLane x with
    | .hold s => .hold s
    | .done s rs => .done (s.tileKick x.b.core) rs

/-- The descriptor of an entry that has none: an address and a length. -/
def plainDesc (a n : Nat) : CopyDesc := ⟨a, 0, 0, 0, n, 0, 0, 1, 0⟩

/-- `comb` (R262). -/
def execComb (w : Fields) (s : State) := runLong 0xC4 none w s readsAB <| laneBody fun x s l =>
  let a := x.a l 64
  if a % 4 ≠ 0 then (s, .fault (alignF a 2))
  else
    let c := { x.newCopy s l 0 (plainDesc a (x.bv l 32)) with range := none, dest := [] }
    ((s.enterCopy c).1, .next)

/-- `flagr` (R259, R278, R281). -/
def execFlagr (w : Fields) (s : State) := runLong 0xC8 none w s readsAB fun x =>
  if x.b.sheet.det then refuseAll (fun l => ⟨0x0C, 0, x.a l 64, 0, 0⟩) x
  else if x.b.inside then refuseAll (fun l => protF 0x06 (x.a l 64)) x
  else laneBody (fun x s l =>
    let a := x.a l 64
    let die := x.bv l 32
    if die > 3 then (s, .fault (illF 0x06))
    else if a % 4 ≠ 0 then (s, .fault (alignF a 2))
    else
      let c := { x.newCopy s l 0 (plainDesc a 4) with range := none, dest := [], queue := some die }
      ((s.enterCopy c).1, .next)) x

/-! ### Sealing and waiting (R254) -/

/-- `seal` (R247, R254). -/
def execSeal (w : Fields) (s : State) := runLong 0xC5 none w s [] <| laneBody fun x s l =>
  let n := ((x.t l).batch.toNat + 1) % 2 ^ 32
  let s := s.updCrew x.uid x.ci fun c => wrvOf c x.clk l x.w x.w.d 32 n false
  (s.updThread x.uid x.ci l fun t => { t with batch := BitVec.ofNat 32 n }, .next)

/-- `bwait` (R253, R254). -/
def execBwait (w : Fields) (s : State) := runLong 0xC6 none w s readsA <| moveBody fun x l =>
  if x.s0.batchOpen x.uid x.ci l (x.t l) (x.a l 32) then .wait (.batch (x.a l 32)) else .next

/-- `bpoll` (R254). -/
def execBpoll (w : Fields) (s : State) := runLong 0xC7 none w s readsA <| regBody fun x l =>
  .ok { preds := [(x.w.d.toNat, !x.s0.batchOpen x.uid x.ci l (x.t l) (x.a l 32))] }

end Sys2Proof.Machine
end

