-- ==== Sys2Proof/Machine/Response.lean ====
section
/-! DEFINITION. The end of a request that has left the device: answers, what they complete, timeouts (R232, R235, R236, R374),
and PUBLISH (R216). -/

namespace Sys2Proof.Machine
open Sys2Proof

/-! ### Failure -/

/-- The failed requests of one instruction, once every other lane's access has ended: their lanes take their faults
together, and s.fmask is set unless every active lane faults (R329, R330). -/
def State.settleReqs (s : State) (r : Req) : State :=
  match r.owner with
  | none => s
  | some (u, ci, _) =>
    let mine := s.reqs.filter fun q => q.issuedAt u ci r.pc r.clk && !q.posted
    if mine.isEmpty || mine.any fun q => q.failed.isNone then s else
    let fs := mine.filterMap fun q => match q.owner, q.failed with | some o, some f => some (o.2.2, f) | _, _ => none
    let bad := laneMask (fs.map (·.1)) ||| r.early
    let s : State := { s with reqs := s.reqs.filter fun q => q.posted || !q.issuedAt u ci r.pc r.clk }
    let s := mine.foldl (fun (s : State) q => match q.owner with
      | some o => s.updThread u ci o.2.2 fun t => { t with reqs := t.reqs.filter (· != q.id) }
      | none => s) s
    let s := match s.block? u with
      | some b => if bad = r.act then s else s.updCrew u ci fun c => (c.inCycle (s.clockOf b.core)).setFmask bad
      | none => s
    s.failLanes u ci r.pc r.next fs

/-- A request that fails: its lane will park at the instruction with the fault (R235, R329); its copy stops (R252). -/
def State.failReq (s : State) (r : Req) (f : LaneFault) : State :=
  let gone : State := { s with reqs := s.reqs.filter fun q => q.id != r.id }
  match r.owner with
  | none =>
    (match (r.copy.bind fun id => gone.copies.find? fun c => c.id == id) with
    | none =>
      if r.op = eventOp then gone.logEventFailure r.clk r.act r.pc f.eaddr f.cls f.detail
      else if r.op = expertOp then
        (match gone.expert? r.pc r.clk with | some e => gone.failExpert e f.cls f.detail f.einfo | none => gone)
      -- its reader finds that it has failed
      else if r.op = bringOp then
        { s with reqs := mapWhere (fun q => q.id == r.id) (fun q => { q with elems := [], failed := some f, next := s.hubCycle }) s.reqs }
      else if r.op = checkpointOp then gone.failCheckpoint 1
      else gone
    | some c => (match gone.block? c.uid with | some b => gone.troubleCopy b c f | none => gone))
  | some _ =>
    let s : State := { s with reqs := mapWhere (fun q => q.id == r.id) (fun q => { q with elems := [], failed := some f }) s.reqs }
    -- the lane of a reduction has gone on: it takes the fault when it is between two instructions
    if r.posted then s else s.settleReqs r

/-! ### Completion -/

/-- The crew of the interleaved private line that a request's instruction reaches (R213, R323). -/
def Req.privOwner (r : Req) (b : Block) : Option (Nat × Nat) :=
  match r.owner with
  | some (u, ci, _) =>
    let priv := ((r.op == 0xA0 || r.op == 0xA1) && r.w.fn.toNat == 1) || [0x23, 0x24, 0x25].contains r.op
    if priv && b.sheet.pmode == 2 then some (u, ci) else none
  | none => none

/-- What an answered element gives its instruction: a line of a peer's memory is read through the core's caches, where the L2
still holds it, as a load of the device's memory is (R212, R213, R216). -/
def State.answerOf (s : State) (b : Block) (r : Req) (e : ReqElem) (a : List Byte) : State × Except LaneFault (List Byte) :=
  let key := memKey s.hubid e.pa
  let held := s.outHeld (lineOf key) false
  let part := (a.drop (e.va % 128)).take e.n
  match e.kind with
  | .read => (s, .ok (b.overlay key a))
  | .fill =>
    if opAcquires r.op r.w then
      (match s.acquirePublish b.core e.va (lineOf key) with
      | (s, .fault f) => (s, .error f)
      | (s, _) =>
        (s, .ok (b.overlay key (s.ownBytes b.core b.ctx e.va (if held then readBytes s.mem key e.n else part)))))
    else if held then
      (match s.loadL1 b.core b.ctx e.va key e.n (r.privOwner b) with
      | (s, .error f) => (s, .error f)
      | (s, .ok bs) => (s, .ok (b.overlay key bs)))
    else (s, .ok (b.overlay key part))
  | _ => (s, .ok a)

/-- The answers of a request's elements in order, or the first fault. -/
def State.answersOf (s : State) (b : Block) (r : Req) : State × Except LaneFault (List (List Byte)) :=
  r.elems.foldl (fun (a : State × Except LaneFault (List (List Byte))) e => match a.2 with
    | .error f => (a.1, .error f)
    | .ok got => match a.1.answerOf b r e (e.answer.getD []) with
      | (s, .error f) => (s, .error f)
      | (s, .ok bs) => (s, .ok (got ++ [bs]))) (s, .ok [])

/-- A store of a request performed: in a line that the die now owns, or in the device's memory, through the L1 (R213), or for a release
at die scope or wider at the L2, with its record (R215); in a page of non-coherent host memory at the host (R232). -/
def State.storeElem (s : State) (b : Block) (r : Req) (e : ReqElem) : State :=
  let key := memKey s.hubid e.pa
  match e.kind with
  | .own =>
    if r.op = 0xA3 ∧ r.w.fn.toNat % 8 ≥ 3 then (s.writeL2 b.core key e.data).releaseAt b.core b.ctx (lineOf key)
    else s.storeL1 b.core b.ctx e.va key e.data (r.privOwner b)
  | .held => ((match e.leaf with | some l => s.setDirty l | none => s).recall (lineOf key) true).storeL1 b.core b.ctx e.va key e.data (r.privOwner b)
  | .write => if e.home = hostAgent ∧ r.op ≠ 0xA8 ∧ r.op ≠ 0xA9 then s.homeWrite e.pa e.data else s
  | _ => s

/-- The fault of a store that has waited for the rest of its instruction, now that it is to be performed (R235). -/
def State.heldFault (s : State) (b : Block) (r : Req) : Option LaneFault :=
  r.elems.findSome? fun e =>
    if e.kind = .held then s.storeFault b.core b.ctx e.va (memKey s.hubid e.pa) e.n (r.privOwner b) else none

/-- Whether a request writes for its lane: such requests of one instruction end in ascending lane order (R230, R236). -/
def Req.stores (r : Req) : Bool := r.op != publishOp && r.elems.any fun e => e.kind == .own || e.kind == .held || e.kind == .write

/-- Whether a lower lane of a request's instruction has still a request under way that writes: one for which a test holds. -/
def State.lowerLane (s : State) (r : Req) (p : Req → Bool) : Bool :=
  match r.owner with
  | none => false
  | some (u, ci, l) => r.stores && s.reqs.any fun q =>
      q.issuedAt u ci r.pc r.clk && q.stores && q.failed.isNone && p q && (match q.owner with | some o => decide (o.2.2 < l) | none => false)

/-- The flags of an `fadd` performed by its home, from the old value that it answers (R238). -/
def Req.faddFlags (r : Req) : Nat :=
  if (r.op = 0xA8 ∨ r.op = 0xA9) ∧ r.w.fn.toNat = 8 then
    r.elems.foldl (fun f e => f ||| (rmwValue 8 r.w.mod.toNat (fromBytes (e.answer.getD [])) (fromBytes (e.data.take e.n)) 0).2) 0
  else 0

/-- The instruction of a request whose every element is answered completes in its lane. -/
def State.completeLane (s : State) (r : Req) (b : Block) (u ci l : Nat) (got : List (List Byte)) : State :=
  let clk := s.clockOf b.core
  let ty := r.w.mod.toNat
  let bs := if r.op = 0xA6 then got else [got.flatten]
  let width := max 32 (8 * memBytes ty) * bs.length
  -- `ret`: the entry of the return stack is the target (R115)
  let target := fromBytes got.flatten
  let s : State := { s with reqs := s.reqs.filter fun q => q.id != r.id }
  let s := r.elems.foldl (fun (s : State) e => s.storeElem b r e) s
  let s := if opAcquires r.op r.w then s.acquireL1 b.core else s
  -- the lane goes on: behind its instruction, at the target of its call, or at that of its `ret`
  let on : Thread → Thread := fun t =>
    if r.posted then t
    else ({ t with reqs := t.reqs.filter (· != r.id), pc := BitVec.ofNat 64 (if r.op = 0x25 then target else r.next),
                   depth := if r.op = 0x25 then t.depth - 1 else if r.op = 0x23 ∨ r.op = 0x24 then t.depth + 1 else t.depth } : Thread).remark s.staleAt
  let s := s.updThread u ci l on
  let s := if opLoads r.op then s.updCrew u ci fun c => c.lateResult 0 clk l r.w width (loadValue ty bs) else s
  let s := if r.faddFlags = 0 then s else s.updCrew u ci fun c => (c.inCycle clk).setFlags r.faddFlags
  if r.posted then s else s.settleReqs r

/-- A request whose every element is answered: the instruction completes in its lane, the copy goes on. A line that has been owned
and lost again before the last answer is asked for again. -/
def State.finishReq (s : State) (r : Req) : State :=
  let gone : State := { s with reqs := s.reqs.filter fun q => q.id != r.id }
  let gaveUp : ReqElem → Bool := fun e => e.kind == .own && !s.outHeld (lineOf (memKey s.hubid e.pa)) true
  match r.owner with
  | none =>
    (match r.copy with
    | none =>
      if r.op = publishOp then r.elems.foldl State.peerPublished gone
      -- an expert's pages stand in its request until they land
      else if r.op = expertOp then s else gone
    | some id =>
      let got := (r.elems.filter fun e => !e.ofLine).flatMap fun e => e.answer.getD []
      let s := if r.elems.all ReqElem.ofLine then gone else gone.updCopy id fun c => { c with arrived := some got }
      s.runCopy id)
  | some (u, ci, l) =>
    match s.block? u with
    | none => gone
    | some b =>
      if r.op = publishOp then
        r.elems.foldl State.peerPublished (gone.updThread u ci l fun t => { t with reqs := t.reqs.filter (· != r.id) })
      else if r.elems.any gaveUp then
        let renew : ReqElem → ReqElem := fun e => { e with answer := none, sent := false, waked := false }
        { s with reqs := mapWhere (fun q => q.id == r.id) (fun q => { q with elems := mapWhere gaveUp renew q.elems }) s.reqs }
      else
        match s.answersOf b r, s.heldFault b r with
        | (s, .error f), _ => s.failReq r f
        | (s, .ok _), some f => s.failReq r f
        | (s, .ok got), none =>
          if r.op = 0x25 ∧ fromBytes got.flatten % 4 ≠ 0 then s.failReq r (alignF (fromBytes got.flatten) 2)
          else s.completeLane r b u ci l got

/-- Whether a request's instruction or copy can go on: every element is answered, and no lower lane of the instruction is behind it. -/
def State.reqReady (s : State) (r : Req) : Bool :=
  !r.elems.isEmpty && r.elems.all (fun e => e.answer.isSome) && r.op != expertOp &&
  !(r.op == bringOp && r.elems.any fun e => e.kind == .read) && !s.lowerLane r fun _ => true

/-- Every request that can go on does, the oldest first. -/
def State.finishReqs (s : State) : Nat → State
  | 0 => s
  | fuel + 1 => match s.reqs.find? s.reqReady with
    | some r => (s.finishReq r).finishReqs fuel
    | none => s

/-- What goes on after an answer or a failure: requests that it completes, and those that waited to be sent. -/
def State.goOn (s : State) : State := (s.finishReqs s.reqs.length).sendWaiting

/-! ### Events -/

/-- A request found by its number. -/
def State.req? (s : State) (id : Nat) : Option Req := s.reqs.find? fun r => r.id == id

/-- One element of a request changed. -/
def State.updElem (s : State) (id i : Nat) (f : ReqElem → ReqElem) : State :=
  { s with reqs := mapWhere (fun r => r.id == id) (fun r => { r with elems := updAt r.elems i f }) s.reqs }

/-- The die whose L2 takes a line that a request has brought. -/
def State.landDie (s : State) (r : Req) : Nat :=
  if r.op = bringOp then r.pc else
  match r.owner, r.copy with
  | some o, _ => (match s.block? o.1 with | some b => b.die | none => 0)
  | none, some id => (match s.copies.find? fun c => c.id == id with
    | some c => if c.op = 0xC2 then c.desc.xtra else dieOf c.core
    | none => 0)
  | none, none => 0

/-- What an element's answer does where it arrives: a line of a peer's memory or of the host's enters the caches; the host has performed
an atomic on its memory. -/
def State.answerLands (s : State) (r : Req) (e : ReqElem) (bs : List Byte) : State :=
  if e.ofLine && e.home == hostAgent then s.landHostLine (s.landDie r) (lineOf (memKey s.hubid e.pa)) (e.kind == .own)
  else if e.ofLine then s.landPeerLine (s.landDie r) (lineOf (memKey s.hubid e.pa)) (e.kind == .own) bs
  else if e.home ≠ hostAgent ∨ e.kind ≠ .write then s
  else if r.op = 0xA8 then
    s.homeWrite e.pa (toBytes (rmwValue r.w.fn.toNat r.w.mod.toNat (fromBytes bs) (fromBytes (e.data.take e.n))
      (fromBytes (e.data.drop e.n))).1 e.n)
  -- a copy's write; a lane's is performed with the rest of its instruction
  else if r.owner.isNone && !e.data.isEmpty then s.homeWrite e.pa e.data
  else s

/-- An element answered; with the last of a request's elements its instruction or its copy goes on. -/
def State.answerElem (s : State) (id i : Nat) (bs : List Byte) : State :=
  let s := s.updElem id i fun e => { e with answer := some bs }
  match s.req? id with
  | none => s
  | some r =>
    match r.elems[i]? with
    | none => s
    | some e =>
      (s.answerLands r e bs).goOn

/-- Whether a message of an agent outside can arrive: the firmware runs, the agent is not dead, and a link that it may use is UP (R377,
R380, R387). -/
def State.hears (s : State) (a : Nat) : Bool :=
  s.awake && !s.agentDead a && (s.links.zipIdx.any fun k => k.1.st == .up && (if a = hostAgent then k.2 == 44 else decide (k.2 < 36)))

/-- What the home of an element answers with: the host with the bytes of its memory, as they stand when the answer comes (R232). -/
def State.answerBytes (s : State) (e : ReqElem) (v : Nat) : List Byte :=
  let n := if e.ofLine then 128 else e.n
  if e.home = hostAgent then readBytes s.mem (memKey s.hubid e.pa) n else toBytes v n

/-- MEMORY_RESPONSE (R236, R374): data or an acknowledgement of an outstanding access returns; with the last of a lane's
elements the access completes. A home performs the writes and atomics of one instruction in ascending lane order (R230). Data of a
poisoned line raises POISON, but where the line is taken to be written: it is then marked, and its bytes are free. -/
def execMemoryResponse (id elem : Nat) (ans : Answer) (s : State) : Host.Outcome State Fault Refusal :=
  match s.req? id with
  | none => .next s
  | some r =>
    match r.elems[elem]? with
    | none => .next s
    | some e =>
      let behind := e.kind == .write && s.lowerLane r fun q => q.elems.any fun k => k.home == e.home && k.kind == .write && k.answer.isNone
      if !e.sent || e.answer.isSome || !s.hears e.home || behind then .next s else
      match ans with
      | .waking => .next (if e.waked then s else s.updElem id elem fun e => { e with waked := true, since := s.hubCycle })
      | .unsupported => .next (if r.op = 0xA8 && e.home == hostAgent then (s.failReq r (protF 0x03 e.va)).goOn else s)
      | .poisoned => .next (
        if e.kind = .own then
          ({ s with poison := (s.poison ++ [lineOf (memKey s.hubid e.pa)]).eraseDups, choices := s.choices + 1 } : State).answerElem id elem
            ((List.range 128).map (Config.outsideByte s.choices))
        else if e.kind = .publish ∨ (e.kind = .write ∧ r.op ≠ 0xA8) then s
        else (s.failReq r (poisonF e.va)).goOn)
      | .data v => .next (s.answerElem id elem (s.answerBytes e v))

/-- REQUEST_TIMEOUT (R374): 20 µs without a response; sent again at most three times, then REMOTE. -/
def execRequestTimeout (id elem : Nat) (s : State) : Host.Outcome State Fault Refusal :=
  match s.req? id with
  | none => .next s
  | some r =>
    match r.elems[elem]? with
    | none => .next s
    | some e =>
      if !e.sent || e.answer.isSome || decide (s.hubCycle < e.since + requestTimeout) then .next s
      else if e.tries < 4 then
        let s := s.updElem id elem fun e => { e with tries := e.tries + 1, since := s.hubCycle }
        .next (if e.home < 4096 then s.sendMsg e.home r.channel (lineOf e.pa) (.request id elem) else s)
      else .next (s.failReq r (remoteF e.va e.home)).goOn

/-- Every request with an element to an agent fails at once (R380). -/
def State.failRequestsTo (s : State) (home : Nat) : State :=
  let hit := s.reqs.filter fun r => r.elems.any fun e => e.home == home && e.answer.isNone
  hit.foldl (fun s r => match r.elems.find? fun e => e.home == home && e.answer.isNone with
    | some e => s.failReq r (if e.kind = .publish then ⟨9, 0x02, e.va, remoteInfo home, 0⟩ else remoteF e.va home)
    | none => s) s

/-- PUBLISH (R216): a core writes back its epochs up to e, asked by a home that has found its release record. -/
def execPublish (core epoch : Nat) (s : State) : Host.Outcome State Fault Refusal :=
  match s.cores[core]? with
  | none => .next s
  | some c => .next (if epoch ≤ c.epoch then s.publishUpTo core epoch else s)

end Sys2Proof.Machine
end

