-- ==== Sys2Proof/Machine/Barrier.lean ====
section
/-! DEFINITION. Barriers (R284 to R297): the sixteen of a block, those of casts, and the package barriers of the clapper
tree. Arrivals and exits of one cycle are counted together at its end. -/

namespace Sys2Proof.Machine
open Sys2Proof

/-! ### Arrivals (R284) -/

/-- PROT of a barrier (R326). -/
def barrierF : LaneFault := protF 0x05 0

def Block.bar (b : Block) (n : Nat) : Bar := b.body.bars.getD n Bar.idle
def State.updBar (s : State) (uid n : Nat) (f : Bar → Bar) : State :=
  s.updBlock uid fun b => { b with body := { b.body with bars := updAt b.body.bars n f } }

/-- Whether a thread has an outstanding arrival among some. -/
def hasArr (arrs : List Arr) (ci l : Nat) : Bool := arrs.any fun a => a.ci == ci && a.lane == l

/-- The threads of a block that have not exited. -/
def Block.liveThreads (b : Block) : List (Nat × Nat) :=
  b.body.crews.zipIdx.flatMap fun c => c.1.threads.zipIdx.filterMap fun t => if t.1.st = .exited then none else some (c.2, t.2)

/-- How many threads of a block have exited. -/
def Block.exits (b : Block) : Nat := (b.body.crews.map fun c => (c.threads.filter fun t => t.st == .exited).length).sum

/-- s.tid of an arrival (R81). -/
def Arr.tid (a : Arr) : Nat := 32 * a.ci + a.lane

/-- The highest s.tid of some arrivals. -/
def topTid (arrs : List Arr) : Nat := arrs.foldl (fun m a => max m a.tid) 0

/-- The arrival of a lane. -/
def Ctx.arr (x : Ctx) (l : Nat) (last : Option Nat) (carried : List Nat) : Arr := ⟨x.ci, l, last, x.clk, carried⟩

/-! ### Block barriers (R287 to R289) -/

/-- One lane's arrival at a block barrier: its checks, then the arrival with the sealed batches (R255); the crew's gathered
increments are flushed first (R363). -/
def barArrive (last waits : Bool) (x : Ctx) (s : State) (l : Nat) : State × LaneRes :=
  let n := x.w.a.toNat
  let count := x.bv l 32
  let bar := (s.blockOr x.b).bar n
  if count > 1024 then (s, .fault (descF 0 count))
  else if hasArr bar.arrs x.ci l then (s, .fault barrierF)
  else if !bar.arrs.isEmpty && bar.count != count then (s, .fault barrierF)
  else
    let s := s.flushDailies x.uid x.ci
    let a := x.arr l (if last then some x.w.d.toNat else none) (s.carries x.uid x.ci l (x.t l))
    (s.updBar x.uid n fun b => { b with count, arrs := b.arrs ++ [a] }, if waits then .wait (.bar n) else .next)

def readsB : List ReadAs := eachLane [1]

/-- `bar.meet`. -/
def execBarMeet (w : Fields) (s : State) := runLong 0xE6 (some 0) w s readsB (laneBody (barArrive false true))
/-- `bar.post`. -/
def execBarPost (w : Fields) (s : State) := runLong 0xE6 (some 1) w s readsB (laneBody (barArrive false false))
/-- `bar.await`. -/
def execBarAwait (w : Fields) (s : State) := runLong 0xE6 (some 2) w s [] <| moveBody fun x l =>
  if hasArr (x.b.bar x.w.a.toNat).arrs x.ci l then .wait (.bar x.w.a.toNat) else .next
/-- `bar.last`. -/
def execBarLast (w : Fields) (s : State) := runLong 0xE6 (some 3) w s readsB (laneBody (barArrive true true))

/-- The lanes whose arrivals used a .last form told whether they belong to the last arriver (R293). -/
def State.tellLast (s : State) (uid : Nat) (arrs : List Arr) (isLast : Arr → Bool) : State :=
  arrs.foldl (fun (s : State) a => match a.last with
    | some p => s.updThread uid a.ci a.lane fun t => t.setPred p (isLast a)
    | none => s) s

/-- The threads of a block that wait on something complete. -/
def State.releaseWaiters (s : State) (uid : Nat) (w : WaitOn) : State :=
  s.updBlock uid fun b => { b with body := { b.body with crews := b.body.crews.map fun c =>
    { c with threads := c.threads.map fun t => if t.waitsOn = some w then t.complete else t } } }

/-- The waiting threads of a block, by crew, PC and length. -/
def Block.waitersBy (b : Block) (w : WaitOn) : List (Nat × Nat × Nat × List Nat) :=
  let ls := b.body.crews.zipIdx.flatMap fun c => c.1.threads.zipIdx.filterMap fun t => match t.1.st with
    | .waiting v len => if v = w then some (c.2, t.1.pc.toNat, len, t.2) else none
    | _ => none
  let keys := (ls.map fun p => (p.1, p.2.1, p.2.2.1)).eraseDups
  keys.map fun k => (k.1, k.2.1, k.2.2, (ls.filter fun p => (p.1, p.2.1, p.2.2.1) == k).map fun p => p.2.2.2)

/-- Every thread of a block that waits on something faults at its instruction. -/
def State.faultWaiters (s : State) (uid : Nat) (w : WaitOn) (f : LaneFault) : State :=
  match s.block? uid with
  | none => s
  | some b => (b.waitersBy w).foldl (fun (s : State) k => s.faultWaiting uid k.1 k.2.1 k.2.2.1 (k.2.2.2.map fun l => (l, f))) s

/-- A block barrier at the end of a cycle (R288): the release once the target is met and the carried copies are complete, or the
failure of a phase that an exit of the cycle leaves with too few threads, whichever came first in the cycle. An arrival made while
carried copies hold the release of a met phase joins that phase (DESIGN CHOICE, log entry 86). -/
def State.settleBar (s : State) (uid n : Nat) : State :=
  match s.block? uid with
  | none => s
  | some b =>
    let bar := b.bar n
    let idle : Bar := { Bar.idle with exits := b.exits }
    if bar.arrs.isEmpty then s.updBar uid n fun _ => idle
    else
      let live := b.liveThreads
      let absent := (live.filter fun p => !hasArr bar.arrs p.1 p.2).length
      let target := if bar.count = 0 then absent == 0 else decide (bar.arrs.length ≥ bar.count)
      let now := bar.arrs.filter fun a => a.cycle == s.clockOf b.core
      let met := match bar.met with
        | some t => some t
        | none => if target then some (topTid (if now.isEmpty then bar.arrs else now)) else none
      match met with
      | some t =>
        if s.copiesDone (bar.arrs.flatMap (·.carried)) then
          let last := if b.sheet.det then topTid bar.arrs else t
          let s := s.tellLast uid bar.arrs fun a => a.tid == last
          (s.updBar uid n fun _ => idle).releaseWaiters uid (.bar n)
        else s.updBar uid n fun b => { b with met := some t }
      | none =>
        if bar.count > 0 ∧ bar.exits < b.exits ∧ bar.arrs.length + absent < bar.count then
          (s.updBar uid n fun _ => idle).faultWaiters uid (.bar n) barrierF
        else s.updBar uid n fun k => { k with exits := b.exits }

/-! ### Outstanding arrivals on cast and package barriers (R290, R291, R295) -/

/-- An entry of a list of counts. -/
def countOf (t : List (Nat × Nat)) (i : Nat) : Nat := match t.find? fun p => p.1 == i with | some p => p.2 | none => 0
def setCount (t : List (Nat × Nat)) (i n : Nat) : List (Nat × Nat) := putKey t i n

/-- The arrivals of a block on a barrier. -/
def meetOf (ms : List Meet) (key : Nat) : Meet := match ms.find? fun m => m.key == key with | some m => m | none => ⟨key, [], none, false, false⟩
def putMeet (ms : List Meet) (m : Meet) : List Meet := (ms.filter fun k => k.key != m.key) ++ [m]

/-- The two kinds: casts and package barriers. -/
def Body.meets (b : Body) (pkg : Bool) : List Meet := if pkg then b.pkgs else b.casts
def State.updMeets (s : State) (uid : Nat) (pkg : Bool) (f : List Meet → List Meet) : State :=
  s.updBlock uid fun b => { b with body := if pkg then { b.body with pkgs := f b.body.pkgs } else { b.body with casts := f b.body.casts } }
def waitFor (pkg : Bool) (key : Nat) : WaitOn := if pkg then .pkg key else .cast key

/-- One lane's arrival on a cast or package barrier: a release fence at scope pkg, and for a cast the sealed batches
(R255, R292). It waits for the links that its fence crosses (R377). -/
def meetArrive (pkg last waits : Bool) (key : Nat) (x : Ctx) (s : State) (l : Nat) : State × LaneRes :=
  let m := meetOf ((s.blockOr x.b).body.meets pkg) key
  let down := s.publishDown x.b.core true false
  if hasArr m.arrs x.ci l then (s, .fault barrierF)
  else if !down.isEmpty then (s.wakeSpokes down, .again (.news s.news))
  else
    let s := (s.flushDailies x.uid x.ci).fenceAt x.b.core 2 4
    let a := x.arr l (if last then some x.w.d.toNat else none) (if pkg then [] else s.carries x.uid x.ci l (x.t l))
    (s.updMeets x.uid pkg fun ms => putMeet ms { meetOf ms key with arrs := (meetOf ms key).arrs ++ [a] },
     if waits then .wait (waitFor pkg key) else .next)

/-- Whether a lane's barrier operand agrees with the lowest active lane's (R290). Only the lowest lane's read can raise LATCH: another
lane's invalid latch is compared by the data that it has lost, 0 (DESIGN CHOICE, log entry 87). -/
def Ctx.agrees (x : Ctx) (l : Nat) : Bool := x.a l 32 == x.a x.low 32

/-- The body of a form of `cbar` or `pbar` that names a barrier: a fault of every active lane, or what each lane does. -/
def meetBody (refuse : Ctx → Nat → Option LaneFault) (act : Nat → Ctx → State → Nat → State × LaneRes) (x : Ctx) : BodyRes :=
  let key := x.a x.low 32
  match refuse x key with
  | some f => refuseAll (fun _ => f) x
  | none => laneBody (fun x s l => if x.agrees l then act key x s l else (s, .fault barrierF)) x

/-- `.await`: the wait for the thread's own outstanding arrival, if it has one. -/
def meetAwait (pkg : Bool) (key : Nat) (x : Ctx) (s : State) (l : Nat) : State × LaneRes :=
  (s, if hasArr (meetOf (x.b.body.meets pkg) key).arrs x.ci l then .wait (waitFor pkg key) else .next)

/-- The cast of a block's launch that it belongs to (R290). -/
def State.castFor (s : State) (b : Block) (c : Nat) : Option CastHub :=
  match (s.launch? b.launch).bind fun l => l.casts[c]? with
  | some h => if h.members.contains b.lin then some h else none
  | none => none

/-- What refuses a cast index (R290). -/
def noCast (x : Ctx) (c : Nat) : Option LaneFault := if (x.s0.castFor x.b c).isSome then none else some barrierF

def execCbarMeet (w : Fields) (s : State) := runLong 0xE7 (some 0) w s (lowRead [0]) (meetBody noCast (meetArrive false false true))
def execCbarPost (w : Fields) (s : State) := runLong 0xE7 (some 1) w s (lowRead [0]) (meetBody noCast (meetArrive false false false))
def execCbarAwait (w : Fields) (s : State) := runLong 0xE7 (some 2) w s (lowRead [0]) (meetBody noCast (meetAwait false))
def execCbarLast (w : Fields) (s : State) := runLong 0xE7 (some 3) w s (lowRead [0]) (meetBody noCast (meetArrive false true true))

/-- A package barrier of a context (R294). -/
def Context.pkg (c : Context) (id : Nat) : PkgHub := match c.pkgs.find? fun p => p.id == id with | some p => p | none => ⟨id, 0, 0, [], [], none⟩
def State.pkg (s : State) (ctx id : Nat) : PkgHub := match s.ctxs[ctx]? with | some c => c.pkg id | none => ⟨id, 0, 0, [], [], none⟩
def State.putPkg (s : State) (ctx : Nat) (p : PkgHub) : State :=
  s.updCtx ctx fun c => { c with pkgs := (c.pkgs.filter fun q => q.id != p.id) ++ [p] }

/-- What refuses a package barrier's identifier; an arrival also needs a count (R295). -/
def noPkg (arrives : Bool) (x : Ctx) (id : Nat) : Option LaneFault :=
  if id > 63 then some (descF 0 id)
  else if arrives && (x.s0.pkg x.b.ctx id).count == 0 then some barrierF
  else none

def execPbarMeet (w : Fields) (s : State) := runLong 0xE8 (some 0) w s (lowRead [0]) (meetBody (noPkg true) (meetArrive true false true))
def execPbarPost (w : Fields) (s : State) := runLong 0xE8 (some 1) w s (lowRead [0]) (meetBody (noPkg true) (meetArrive true false false))
def execPbarAwait (w : Fields) (s : State) := runLong 0xE8 (some 2) w s (lowRead [0]) (meetBody (noPkg false) (meetAwait true))

/-- A package barrier of a block as a new configuration leaves it (R294): its arrival number is cleared, an arrival that its phase has
released stays released, one that is still on its way is the block's first. -/
def Body.recfg (b : Body) (id g : Nat) : Body :=
  let flying := b.pkgs.any fun m => m.key == id && m.sent.isSome && !m.counted
  { b with
    pkgs := mapWhere (fun (m : Meet) => m.key == id) (fun m => match m.sent with
      | none => m
      | some ph => if m.counted then { m with freed := m.freed || decide (ph < g) } else { m with sent := some 0 }) b.pkgs
    pkgK := (b.pkgK.filter fun k => k.1 != id) ++ (if flying then [(id, 1)] else []) }

/-- `pbar.cfg` (R294). -/
def execPbarCfg (w : Fields) (s : State) := runLong 0xE8 (some 3) w s (lowRead [0, 1]) fun x =>
  if x.act.isEmpty then .done x.s0 []
  else
    let id := x.a x.low 32
    let n := x.bv x.low 32
    let p := x.s0.pkg x.b.ctx id
    if id > 63 then refuseAll (fun _ => descF 0 id) x
    else if n = 0 ∨ n > 65535 then refuseAll (fun _ => descF 0 n) x
    else if !p.arrived.isEmpty || !p.next.isEmpty || p.ending.isSome then refuseAll (fun _ => barrierF) x
    else
      let s := x.s0.putPkg x.b.ctx ⟨id, n, 0, [], [], none⟩
      let blocks := mapWhere (fun (b : Block) => b.ctx == x.b.ctx)
        (fun b => { b with body := b.body.recfg id p.g, snap := b.snap.map fun k => k.recfg id p.g }) s.blocks
      .done { s with blocks } []

/-! ### The block's own arrival and its release -/

/-- How many phases of a block's barrier are released, as its hub has counted. -/
def State.released (s : State) (b : Block) (pkg : Bool) (key : Nat) : Nat :=
  if pkg then (s.pkg b.ctx key).g else match s.castFor b key with | some h => h.g | none => 0

/-- The last arriver of a released phase of a cast (R293). -/
def State.lastOf (s : State) (b : Block) (key phase : Nat) : Option Nat :=
  (s.castFor b key).bind fun h => h.lasts.getD phase none

/-- The block's own arrival on a barrier, its `k`-th from 0 (R291). -/
def State.makeArrival (s : State) (uid : Nat) (pkg : Bool) (key k : Nat) : State :=
  let s := s.updMeets uid pkg fun ms => putMeet ms { meetOf ms key with sent := some k, counted := false, freed := false }
  s.updBlock uid fun b => { b with body := if pkg then { b.body with pkgK := setCount b.body.pkgK key (k + 1) }
                                           else { b.body with castK := setCount b.body.castK key (k + 1) } }

/-- One barrier of a block at the end of a cycle: its arrival made once every thread that has not exited holds one, or its
threads released with the acquire of R292. -/
def State.settleMeet (s : State) (uid : Nat) (pkg : Bool) (key : Nat) : State :=
  match s.block? uid with
  | none => s
  | some b =>
    let m := meetOf (b.body.meets pkg) key
    match m.sent with
    | none =>
      let live := b.liveThreads
      if m.arrs.isEmpty || live.isEmpty || !(live.all fun p => hasArr m.arrs p.1 p.2) || !s.copiesDone (m.arrs.flatMap (·.carried)) then s
      else
        let k := countOf (if pkg then b.body.pkgK else b.body.castK) key
        s.makeArrival uid pkg key k
    | some ph =>
      if m.freed || (m.counted && decide (ph < s.released b pkg key)) then
        let who := if pkg then none else s.lastOf b key ph
        let s := s.tellLast uid m.arrs fun _ => who == some b.lin
        let waits := !(b.waitersBy (waitFor pkg key)).isEmpty
        let s := (s.updMeets uid pkg fun ms => ms.filter fun k => k.key != key).releaseWaiters uid (waitFor pkg key)
        if waits then s.acquireL1 b.core else s
      else s

/-- Every barrier of a block at the end of a cycle. -/
def State.settleBarriers (s : State) (uid : Nat) : State :=
  match s.block? uid with
  | none => s
  | some b =>
    let s := (List.range 16).foldl (fun s n => s.settleBar uid n) s
    let s := b.body.casts.foldl (fun s m => s.settleMeet uid false m.key) s
    b.body.pkgs.foldl (fun s m => s.settleMeet uid true m.key) s

/-! ### Casts at the hub (R291, R293) -/

def State.updCast (s : State) (tag c : Nat) (f : CastHub → CastHub) : State :=
  s.updLaunch tag fun l => { l with casts := updAt l.casts c f }

/-- A phase releases when every member has arrived or retired. `byArrival` says that an arrival completed it. -/
def State.castTest (s : State) (tag c : Nat) (byArrival : Bool) : State :=
  match s.launch? tag with
  | none => s
  | some l =>
    match l.casts[c]? with
    | none => s
    | some h =>
      if h.arrived.isEmpty || !(h.members.all fun m => (h.arrived.any fun a => a.1 == m) || l.retired.contains m) then s
      else
        let late := h.arrived.filter fun a => a.2 == s.hubCycle
        let top (as : List (Nat × Nat)) : Option Nat := if as.isEmpty then none else some (as.foldl (fun m a => max m a.1) 0)
        let who := if l.sheet.det then top h.arrived else if byArrival then top late else none
        s.updCast tag c fun h => { h with g := h.g + 1, arrived := [], lasts := h.lasts ++ [who] }

/-- A block's arrival reaches the hub and is counted, unless its phase has released or it is counted already (R291). -/
def State.castCount (s : State) (uid cast : Nat) : State :=
  match s.block? uid with
  | none => s
  | some b =>
    let m := meetOf b.body.casts cast
    match m.sent, s.castFor b cast with
    | some ph, some h =>
      if m.counted then s
      else
        let s := s.updMeets uid false fun ms => putMeet ms { m with counted := true }
        if ph < h.g || h.arrived.any fun a => a.1 == b.lin then s
        else
          let s := s.updCast b.launch cast fun h => { h with arrived := h.arrived ++ [(b.lin, s.hubCycle)] }
          s.castTest b.launch cast true
    | _, _ => s

/-- CAST_ARRIVAL (R290, R291). -/
def execCastArrival (uid cast : Nat) (s : State) : Host.Outcome State Fault Refusal := .next (s.castCount uid cast)

/-! ### The clapper tree (R296) -/

/-- The core cycle of the package: every die counts the same cycles. -/
def State.coreCycle (s : State) : Nat := s.clockOf 0

/-- A phase whose count is met enters COUNTDOWN. -/
def State.pkgTest (s : State) (ctx id : Nat) : State :=
  let p := s.pkg ctx id
  if p.count > 0 ∧ p.ending = none ∧ p.arrived.length ≥ p.count then s.putPkg ctx { p with ending := some (s.coreCycle + 64) } else s

/-- A block's arrival reaches the root (R295, R296). -/
def State.pkgCount (s : State) (uid id : Nat) : State :=
  match s.block? uid with
  | none => s
  | some b =>
    let m := meetOf b.body.pkgs id
    match m.sent with
    | none => s
    | some ph =>
      if m.counted then s
      else
        let p := s.pkg b.ctx id
        let me := (b.launch, b.lin)
        let put (ph : Nat) : State := s.updMeets uid true fun ms => putMeet ms { m with counted := true, sent := some ph }
        if ph < p.g ∨ p.arrived.contains me then put ph
        else if p.ending.isSome then
          -- counted in the next phase
          (put (p.g + 1)).putPkg b.ctx (if p.next.contains me then p else { p with next := p.next ++ [me] })
        else ((put ph).putPkg b.ctx { p with arrived := p.arrived ++ [me] }).pkgTest b.ctx id

/-- CLAPPER_ROOT_ARRIVAL (R295, R296). -/
def execClapperRootArrival (uid id : Nat) (s : State) : Host.Outcome State Fault Refusal := .next (s.pkgCount uid id)

/-- The arrivals of a block whose threads have all exited: those that they have made are complete, and reach the hub and the root
before the retirement does (R290, R293, R295; DEDUCED, log entry 79). -/
def State.lastArrivals (s : State) (uid : Nat) : State :=
  match s.block? uid with
  | none => s
  | some b =>
    let give (pkg : Bool) (s : State) (m : Meet) : State :=
      let k := countOf (if pkg then b.body.pkgK else b.body.castK) m.key
      let s := if m.arrs.isEmpty || m.sent.isSome then s else s.makeArrival uid pkg m.key k
      if pkg then s.pkgCount uid m.key else s.castCount uid m.key
    b.body.pkgs.foldl (give true) (b.body.casts.foldl (give false) s)

/-- CLAPPER_COUNTDOWN_ELAPSE (R296): 64 core cycles after the root, the phase is released. -/
def execClapperCountdownElapse (ctx id : Nat) (s : State) : Host.Outcome State Fault Refusal :=
  let p := s.pkg ctx id
  match p.ending with
  | none => .next s
  | some t =>
    if s.coreCycle < t then .next s
    else .next ((s.putPkg ctx { p with g := p.g + 1, arrived := p.next, next := [], ending := none }).pkgTest ctx id)

end Sys2Proof.Machine
end

