-- ==== Sys2Proof/Machine/Group.lean ====
section
/-! DEFINITION. The block (R263 to R283): completion events, `done`, idempotent regions, the carve, placement and retirement,
and the slate's release. -/

namespace Sys2Proof.Machine
open Sys2Proof

/-! ### Completion events (R276) -/

/-- `red.add.n32.release.sys` of a number on a word of a context, by a core or by the hub: the state, or class and detail of
the fault. A word in a peer's memory is incremented by the peer's hub (R229); that the event is lost there is learned later, and
logged for a launch and a block. -/
def State.eventAdd (s : State) (ctx va n : Nat) (core : Option Nat) (tag lin : Nat) : Except XFault State :=
  if va % 4 ≠ 0 then .error (4, 0)
  else match s.agentXlate ctx va .atomic false false with
    | .error e => .error e
    | .ok (pa, leaf) =>
      if leaf.type = 4 then .error (protFault 0x03)
      else match targetOf s.hubid pa with
        | .peer a _ =>
          let line := lineOf (memKey s.hubid pa)
          if s.agentDead a then .error (9, 1)
          else
            let s := match core with | some c => ((s.dropLine c line).releaseFirst c 5 pa).closeEpoch c | none => s
            let s := ((s.l2.filter fun k => k.line == line).foldl State.l2Evict s).setDirty leaf
            .ok (s.postReq none none lin 0 eventOp ctx tag noFields [reqElem (.peer a) va pa 4 .write (toBytes n 4)])
        | _ =>
          let key := memKey s.hubid pa
          let s := (match core with | some c => s.dropLine c (lineOf key) | none => s).recall (lineOf key) true
          match (match core with
              | some c => s.l2Fault c va key 4
              | none => if s.poison.contains (lineOf key) then some (poisonF va) else s.hostFault va key) with
          | some f => .error (f.cls, f.detail)
          | none =>
            let s := (s.setDirty leaf)
            let s := match core with | some c => s.releaseFirst c 5 pa | none => s
            let s := s.homeWrite pa (toBytes (fromBytes (readBytes s.mem key 4) + n) 4)
            .ok (match core with | some c => s.releaseAt c ctx (lineOf key) | none => s)

/-- The completion event of a block, at most once in its launch (R276). -/
def State.completionEvent (s : State) (tag lin : Nat) (core : Option Nat) : State :=
  match s.launch? tag with
  | none => s
  | some l =>
    if l.recorded.contains lin then s
    else
      let s := s.updLaunch tag fun l => { l with recorded := l.recorded ++ [lin] }
      if l.sheet.events = 0 then s
      else
        let va := l.sheet.events + 4 * lin
        match s.eventAdd l.ctx va 1 core tag lin with
        | .ok s => s
        | .error e => s.logEventFailure l.ctx tag lin va e.1 e.2

/-- A `done` that takes effect (R276): early, at the region's end, or not before the slate's release. -/
def State.makeDone (s : State) (uid : Nat) : State :=
  match s.block? uid with
  | none => s
  | some b =>
    if b.inside then s.updBlock uid fun b => { b with deferred := true }
    else if b.sheet.det then s
    else s.completionEvent b.launch b.lin (some b.core)

/-- `done` (R276): the first active lane waits for its sealed batches. -/
def execDoneRegion (w : Fields) (s : State) := runLong 0xE2 none w s [] fun x =>
  if x.act.isEmpty then .done x.s0 []
  else if (x.s0.carries x.uid x.ci x.low (x.t x.low)).isEmpty then .done (x.s0.makeDone x.uid) []
  else .done x.s0 [(x.low, .wait (.region 0))]

/-- The threads of a block that wait in `done`, at the end of a cycle. -/
def State.settleDone (s : State) (uid : Nat) : State :=
  match s.block? uid with
  | none => s
  | some b => b.liveThreads.foldl (fun (s : State) p =>
      match s.thread? uid p.1 p.2 with
      | some t =>
        if t.waitsOn = some (.region 0) ∧ (s.carries uid p.1 p.2 t).isEmpty then
          (s.makeDone uid).updThread uid p.1 p.2 Thread.complete
        else s
      | none => s) s

/-! ### Idempotent regions (R277 to R279) -/

/-- `idemb` and `ideme` (R277): every active lane waits for the block. -/
def execIdemb (w : Fields) (s : State) := runLong 0xE3 none w s [] (moveBody fun _ _ => .wait (.region 1))
def execIdeme (w : Fields) (s : State) := runLong 0xE4 none w s [] (moveBody fun _ _ => .wait (.region 2))

/-- Whether every thread of a block that has not exited waits on something, and some thread does. -/
def Block.allWait (b : Block) (w : WaitOn) : Bool :=
  let ts := b.body.crews.flatMap (·.threads)
  ts.any (fun t => t.waitsOn == some w) && ts.all fun t => t.st == .exited || t.waitsOn == some w

/-- The bytes that a saved block needs beside its tile images (R342). -/
def Sheet.saveBytes (sh : Sheet) : Nat :=
  4096 + sh.scratch + 4096 * sh.reel + sh.crews * (1024 + 32 * (4 * sh.gregs + 12 * sh.qregs + 64))

/-- A crew as a save or snapshot keeps it: its latches are lost, its timer holds the time left (R59, R338): 0 where it is
disarmed, else one above it. A lane parked for page service offers its fault again after the restore (R343). -/
def Crew.toSave (c : Crew) (clk : Nat) : Crew :=
  let again : TState → TState := fun st => match st with
    | .parked (.page f _ g) => .parked (.pagePost f f.accessKind g)
    | st => st
  let keep : Thread → Thread := fun t => { t.loseLatches with keep := none, keepLost := false, again := none, st := again t.st }
  { c with threads := c.threads.map keep, bundles := [],
           dailies := [], dailyAge := none, tmr := if c.tmr = 0 then 0 else BitVec.ofNat 64 (c.tmr.toNat - clk + 1),
           holdFor := none, heldPicks := 0, skipCycle := none }

/-- A crew's timer at a restore. -/
def Crew.fromSave (c : Crew) (clk : Nat) : Crew :=
  { c with tmr := if c.tmr = 0 then 0 else BitVec.ofNat 64 (max 1 (clk + c.tmr.toNat - 1)) }

/-- Whether a thread is inside an instruction that completes or faults before a save (R156, R245). A tile command that finds no
room has not entered its queue and issues again after the restore. -/
def Thread.unfinished (t : Thread) : Bool :=
  match t.again with
  | none => false
  | some a => match a.on with
    | .range _ => true
    | .news _ => (match opFields a.instr with | some (op, _) => !(decide (0xC0 ≤ op) && decide (op < 0xE0)) | none => false)

/-- Whether some thread of a block is. -/
def Block.unfinished (b : Block) : Bool := b.body.crews.any fun c => c.threads.any fun t => t.unfinished

/-- Free bytes written by an agent: no rule gives the form of a snapshot or of a saved record (R342; DESIGN CHOICE, log entry 22). -/
def State.writeFree (s : State) (ctx va n : Nat) : State :=
  ({ s with choices := s.choices + 1 } : State).agentWrite ctx va ((List.range n).map (Config.outsideByte s.choices))

/-- The place of a block's snapshot in the region area (R342). -/
def Context.snapAt (c : Context) (b : Block) : Nat := c.sbase + (32 * b.core + b.rslot) * c.rslot

/-- The entry snapshot of a block (R277). -/
def Block.snapshot (b : Block) (clk : Nat) : Body := { b.body with crews := b.body.crews.map fun c => c.toSave clk }

/-- The meeting at `idemb` (R277). -/
def State.enterRegion (s : State) (uid : Nat) : State :=
  match s.block? uid with
  | none => s
  | some b =>
    let c := s.ctxs[b.ctx]?.getD Context.reset
    if b.inside || (b.body.reel.nodes.any fun n => n.spilled) || decide (b.sheet.saveBytes > c.rslot) then
      s.faultWaiters uid (.region 1) (protF 0x06 0)
    else
      let s := (s.releaseWaiters uid (.region 1)).writeFree b.ctx (c.snapAt b) b.sheet.saveBytes
      s.updBlock uid fun b => { b with inside := true, deferred := false, heldStage := [], snap := some (b.snapshot (s.clockOf b.core)) }

/-- A staging write held for a region enters its slot; the flags of the fold go to the crew that made it (R260, R261). -/
def State.stageHeld (s : State) (uid clk : Nat) (v : Nat × StageSlot) : State :=
  let r := foldStage s.stage v.2
  ({ s with stage := r.1 } : State).updCrew uid v.1 fun c => (c.inCycle clk).setFlags r.2

/-- The meeting at `ideme` (R277): held staging writes enter their slots, and a deferred `done` takes effect. -/
def State.leaveRegion (s : State) (uid : Nat) : State :=
  match s.block? uid with
  | none => s
  | some b =>
    if !b.inside then s.faultWaiters uid (.region 2) (protF 0x06 0)
    else
      let s := s.releaseWaiters uid (.region 2)
      let s := b.heldStage.foldl (fun s v => s.stageHeld uid (s.clockOf b.core) v) s
      let s := s.updBlock uid fun b => { b with inside := false, snap := none, deferred := false, heldStage := [] }
      if b.deferred then s.makeDone uid else s

/-- The regions of a block at the end of a cycle. -/
def State.settleRegion (s : State) (uid : Nat) : State :=
  match s.block? uid with
  | none => s
  | some b =>
    if b.allWait (.region 1) && b.cmds.isEmpty && !(s.copies.any fun c => c.uid == uid) then s.enterRegion uid
    else if b.allWait (.region 2) then s.leaveRegion uid
    else s

/-- The waits of a block at the end of a cycle: rings, barriers, `done`, regions. -/
def State.settleBlock (s : State) (uid : Nat) : State :=
  (((s.settleRings uid).settleBarriers uid).settleDone uid).settleRegion uid

/-- Every resident block at the end of a cycle. -/
def State.settleAll (s : State) : State :=
  (s.blocks.filter fun b => b.state == .resident && !b.isDirector).foldl (fun s b => s.settleBlock b.uid) s

/-- A discard (R279): the block returns to its entry snapshot, its copies and tile commands are cancelled, its tiles become
UNBOUND (R207); staging writes held, the slate's bytes since entry and a deferred `done` go with it. A thread that has exited inside the
region comes back with the snapshot, and its crew with it (DESIGN CHOICE, log entry 47). -/
def State.discardBlock (s : State) (uid : Nat) : State :=
  match s.block? uid with
  | none => s
  | some b =>
    match b.snap with
    | none => s
    | some body =>
      let s := (List.range b.body.crews.length).foldl (fun s i => s.flushDailies uid i) s
      let free : CoreSt → CoreSt := fun c =>
        { c with array := c.array.filter fun a => a.uid != uid, image := c.image.filter fun i => i.uid != uid }
      let mine : Req → Bool := fun r => (match r.owner with | some o => o.1 == uid | none => false) ||
        s.copies.any fun c => c.uid == uid && r.copy == some c.id
      let s : State :=
        { s with copies := s.copies.filter fun c => c.uid != uid
                 retakes := s.retakes.filter fun r => r.uid != uid
                 reqs := s.reqs.filter fun r => !mine r
                 cores := s.cores.map free }
      s.updBlock uid fun b => { b with body, state := .saved, inside := false, snap := none, deferred := false,
                                       heldStage := [], tiles := List.replicate 16 Tile.unbound, cmds := [], late := [], wantsArray := false }

/-! ### The carve (R269) -/

/-- The blocks that a core holds. -/
def State.residents (s : State) (core : Nat) : List Block :=
  s.blocks.filter fun b => b.core == core && b.onCore && !b.isDirector

/-- A request for a carve; what the core then is: true for PENDING. -/
def State.requestCarve (s : State) (core n : Nat) : State × Bool :=
  match s.cores[core]? with
  | none => (s, false)
  | some c =>
    if c.pendingCarve.isNone && c.carve == n then (s, false)
    else (s.updCore core fun c => { c with pendingCarve := some n }, true)

/-- Lines of a core's L1 given up as `ways` of its ways pass to scratchpad (R269): which lines stand in those ways is free, but no
more stay than the other ways hold. -/
def State.shrinkL1 (s : State) (core ways : Nat) : State :=
  let mine := if ways = 0 then [] else s.l1.filter fun l => l.core == core
  let s := mine.foldl (fun (s : State) l =>
    let (k, s) := s.choose 1
    if k = 1 then s.evictL1 l else s) s
  let excess := (s.l1.filter fun l => l.core == core).length - s.l1Capacity core
  (List.range excess).foldl (fun (s : State) _ =>
    let mine := s.l1.filter fun l => l.core == core
    let (k, s) := s.choose (mine.length - 1)
    match mine[k]? with
    | some l => s.evictL1 l
    | none => s) s

/-- CARVE_APPLY (R269): a PENDING core is empty and takes its carve; the lines of ways that leave the L1 are published or
dropped. -/
def execCarveApply (core : Nat) (s : State) : Host.Outcome State Fault Refusal :=
  match s.cores[core]?.bind (·.pendingCarve) with
  | none => .next s
  | some n =>
    if !(s.residents core).isEmpty then .next s
    else
      let old := match s.cores[core]? with | some c => c.carve | none => 0
      .next ((s.updCore core fun c => { c with carve := n, pendingCarve := none }).shrinkL1 core (n - old))

/-- PROT of an instruction that only a director may issue (R269, R316). -/
def directorF : LaneFault := protF 0x04 0

/-- `carve` (R269). -/
def execCarve (w : Fields) (s : State) := runLong 0xE5 none w s (lowRead [0, 1]) fun x =>
  if x.act.isEmpty then .done x.s0 []
  else if !x.b.isDirector then refuseAll (fun _ => directorF) x
  else
    let n := x.a x.low 32
    let pos := x.bv x.low 32
    if n > 7 then refuseAll (fun _ => descF 0 n) x
    else if pos > 47 then refuseAll (fun _ => descF 0 pos) x
    else
      let r := x.s0.requestCarve (48 * x.b.die + pos) n
      .done (r.1.updCrew x.uid x.ci fun c =>
        x.act.foldl (fun c l => wrvOf c x.clk l x.w x.w.d 32 (ofBool r.2) false) c) []

/-! ### Placement (R102, R103, R266 to R268) -/

/-- The slots of a core that live crews hold, as slice and slot. -/
def State.usedSlots (s : State) (core : Nat) : List (Nat × Nat) :=
  (s.residents core).flatMap fun b => b.body.crews.filterMap fun c => if c.live then some (c.slice, c.slot) else none

/-- The bytes of the main register file that a core's live crews hold (R12). -/
def State.regBytes (s : State) (core : Nat) : Nat :=
  ((s.residents core).flatMap fun b => b.body.crews.map fun c => if c.live then 128 * b.sheet.gregs else 0).sum

/-- The units that a block's tiles hold. -/
def Block.tileUnits (b : Block) : Nat := (b.tiles.map (·.units)).sum

/-- Whether a core admits a block of a sheet with some live crews and tile units (R266). -/
def State.admits (s : State) (core : Nat) (sh : Sheet) (crews units : Nat) : Bool :=
  match s.cores[core]? with
  | none => false
  | some c =>
    let here := s.residents core
    let used := (here.map fun b => b.sheet.scratch + 4096 * b.sheet.reel).sum
    c.pendingCarve.isNone && c.carve == sh.carve && decide (here.length < 32) &&
    decide ((s.usedSlots core).length + crews ≤ 64) && decide (s.regBytes core + 128 * sh.gregs * crews ≤ 524288) &&
    decide (used + sh.scratch + 4096 * sh.reel ≤ c.carve * 131072) && decide (units ≤ s.freeUnits core)

/-- The slice with the most free slots and its lowest free slot (R103). -/
def nextSlot (used : List (Nat × Nat)) : Nat × Nat :=
  let free (k : Nat) : Nat := 16 - (used.filter fun p => p.1 == k).length
  let slice := [1, 2, 3].foldl (fun best k => if free k > free best then k else best) 0
  (slice, ((List.range 16).find? fun i => !used.contains (slice, i)).getD 0)

/-- Slots for a block's live crews, in ascending crew index (R103). -/
def assignSlots (used : List (Nat × Nat)) (cs : List Crew) : List Crew :=
  match cs with
  | [] => []
  | c :: r =>
    if c.live then
      let p := nextSlot used
      { c with slice := p.1, slot := p.2 } :: assignSlots (p :: used) r
    else c :: assignSlots used r

/-- The tile address of a block (R309). -/
def Sheet.tileAddr (sh : Sheet) (lin : Nat) : Nat :=
  let p := sh.coords lin
  wrapInt ((sh.tbase : Int) + p.1 * sext sh.tsx 32 + p.2.1 * sext sh.tsy 32 + p.2.2 * sext sh.tsz 32) 53

/-- The ring position of a block's home core (R268): the director translates its tile address through the die's TLB, or by a walk; a
page that the launch's open take region holds by its shadow (R365). -/
def State.homePos (s : State) (die ctx tag : Nat) (sh : Sheet) (lin : Nat) : Nat :=
  let va := sh.tileAddr lin
  let shadow := s.takes.any fun t => t.isOpen && t.launch == tag && t.ctx == ctx && decide (t.lo ≤ va) && decide (va < t.lo + t.size)
  match s.tlb.find? fun e => e.at_ == .die die && e.maps ctx va (if shadow then some tag else none) with
  | some e =>
    (match e.leaf.check .read true (s.expertResident ctx e.exid) with
    | none => slicePos (lineOf (memKey s.hubid (e.frame + va % 2 ^ levelShift e.level)))
    | some _ => lin % 48)
  | none =>
    match s.agentPa ctx va .read true shadow with
    | .ok pa => slicePos (lineOf (memKey s.hubid pa))
    | .error _ => lin % 48

/-- The first core of a die, from the home, that admits a block (R268). -/
def State.findCore (s : State) (die home : Nat) (sh : Sheet) (crews units : Nat) : Option Nat :=
  ((List.range 48).map fun i => 48 * die + (home + i) % 48).find? fun c => s.admits c sh crews units

/-- A block put on a core: the lowest free resident slot (R267), slots for its crews. -/
def State.seat (s : State) (b : Block) (core : Nat) : Block :=
  let taken := (s.residents core).map (·.rslot)
  let clk := s.clockOf core
  { b with core, die := dieOf core, state := .resident,
           rslot := ((List.range 32).find? fun i => !taken.contains i).getD 0,
           body := { b.body with crews := (assignSlots (s.usedSlots core) b.body.crews).map fun c => { c with lastPick := clk } } }

/-- The crews of a new block (R77, R101, R102). -/
def Sheet.newCrews (sh : Sheet) (clk : Nat) : List Crew :=
  (List.range sh.crews).map fun i => Crew.create i sh.gregs sh.kregs (bitsOf sh.roles (2 * i) 2) 0 0 sh.entry clk

/-- A new block of a launch on a core (R264). Its core's clean lines go: what the hub has acquired for the launch happens before
its threads' accesses (R302). -/
def State.admitNew (s : State) (l : Launch) (sh : Sheet) (lin attempt core : Nat) : State :=
  let (uid, s) := s.fresh
  let b : Block :=
    { uid, ctx := l.ctx, launch := l.tag, lin, attempt, state := .placing, die := dieOf core, core, rslot := 0, sheet := sh,
      isDirector := false, body := Body.create (sh.newCrews (s.clockOf core)), privBack := [], inside := false, snap := none,
      deferred := false, heldStage := [], tiles := List.replicate 16 Tile.unbound, cmds := [], late := [], vclock := 0, wantsArray := false }
  let s := (s.updLaunch l.tag fun l => { l with spawned := l.spawned ++ [lin] }).acquireL1 core
  { s with blocks := s.blocks ++ [s.seat b core] }

/-- A placement of a block, new or restored, with nothing spawned where no core admits it (R268). -/
def State.placeNew (s : State) (die : Nat) (l : Launch) (sh : Sheet) (lin attempt : Nat) : Option (State × Nat) :=
  (s.findCore die (s.homePos die l.ctx l.tag sh lin) sh sh.crews 0).map fun core => (s.admitNew l sh lin attempt core, core)

/-- A restored block placed on the first core that admits it; its requests to the retake engine stand at the end of the order
(R175, R343). A saved lane stands on no stale copy of a line: its mark and its lines are not restored (DESIGN CHOICE, log entry 88). -/
def State.admitSaved (s : State) (b : Block) : State :=
  match s.findCore b.die (s.homePos b.die b.ctx b.launch b.sheet b.lin) b.sheet (b.body.crews.filter (·.live)).length b.tileUnits with
  | none => s
  | some core =>
    let clk := s.clockOf core
    let placed := s.seat b core
    let back : Thread → Thread := fun t => { t.loseLatches with age := 0, stallUntil := 0, stale := none, lastIb := [] }
    let crews := placed.body.crews.map fun c => { c.fromSave clk with threads := c.threads.map back, bundles := [] }
    let s := s.updBlock b.uid fun _ => { placed with body := { placed.body with crews }, wantsArray := false }
    let mine : Retake → Bool := fun r => r.uid == b.uid
    let s : State := { s with retakes := (s.retakes.filter fun r => !mine r) ++ s.retakes.filter mine }
    (s.acquireL1 core).tileKick core

/-! ### Retirement (R265, R276) -/

/-- Whether something is still outstanding for a RETIRING block (R265). -/
def State.retireBlocked (s : State) (b : Block) : Bool :=
  (s.copies.any fun c => c.uid == b.uid) || !b.cmds.isEmpty || !b.body.reel.sweep.isEmpty

/-- BLOCK_RETIRE (R265, R276, R282): the core publishes, once the spoke links that its lines cross are UP (R6), the block's resources are
freed and its event is made; in a deterministic launch its slate buffer is closed instead. -/
def execBlockRetire (uid : Nat) (s : State) : Host.Outcome State Fault Refusal :=
  match s.block? uid with
  | none => .next s
  | some b =>
    let down := if b.sheet.det then [] else s.publishDown b.core true false
    if b.state ≠ .retiring ∨ s.retireBlocked b then .next s
    else if !down.isEmpty then .next (s.wakeSpokes down)
    else
      let s := s.lastArrivals uid
      let s := if b.sheet.det then
          { s with slates := s.slates ++ [⟨b.uid, b.launch, b.lin, b.die, b.ctx, b.body.slate, b.body.slateOut, b.body.slatePages⟩] }
        else s.publishAll b.core
      let s := (s.removeBlock uid).updLaunch b.launch fun l => { l with retired := l.retired ++ [b.lin] }
      let s := if b.sheet.det then s else s.completionEvent b.launch b.lin (some b.core)
      let casts := match s.launch? b.launch with | some l => l.casts.length | none => 0
      .next ((((List.range casts).foldl (fun s c => s.castTest b.launch c false) s)).tileKick b.core)

/-! ### The slate (R282) -/

/-- The bytes of a buffer in a line: data and mask. -/
def slateLine (cells : List Host.Cell) (line : Nat) : List Byte × BitVec 128 :=
  let at_ (i : Nat) : Option Byte := (cells.find? fun c => c.1 == line * 128 + i).map (·.2)
  ((List.range 128).map fun i => (at_ i).getD 0,
   (List.range 128).foldl (fun (m : BitVec 128) i => if (at_ i).isSome then m ||| BitVec.twoPow 128 i else m) 0)

/-- A buffer's bytes written to their homes, line by line: nobody else holds those lines any more (R212). -/
def State.writeSlate (s : State) (cells : List Host.Cell) : State :=
  ((cells.map fun c => lineOf c.1).eraseDups).foldl (fun (s : State) line =>
    let p := slateLine cells line
    if peerLine line then s.writePeerBytes line p.1 p.2
    else
      let s := s.dropHolders [line]
      { s with mem := mergeBytes s.mem (line * 128) p.1 p.2 }) s

/-- SLATE_RELEASE (R282): the buffer of the lowest index not yet released goes to memory, once the spoke links that its lines cross are UP
(R6), and the block's event is made. -/
def execSlateRelease (tag : Nat) (s : State) : Host.Outcome State Fault Refusal :=
  match s.launch? tag with
  | none => .next s
  | some l =>
    let next := l.recorded.length
    match s.slates.find? fun b => b.launch == tag && b.lin == next with
    | none => .next s
    | some b =>
      let down := ((b.cells.map fun c => lineOf c.1).eraseDups.flatMap fun line => s.lineDown b.die line true).eraseDups
      if !down.isEmpty then .next (s.wakeSpokes down)
      else
        let s : State := { s with slates := s.slates.filter fun k => !(k.launch == tag && k.lin == next) }
        .next ((s.writeSlate b.cells).completionEvent tag next none)

end Sys2Proof.Machine
end

