-- ==== Sys2Proof/Machine/Queue.lean ====
section
/-! DEFINITION. The queues (R298 to R308): binding, the hub's readings of TAIL, record and event words, arbitration, and the
instructions that append records and signal or await event words. -/

namespace Sys2Proof.Machine
open Sys2Proof

/-! ### The hub's readings (R299, R300, R302) -/

def State.queue (s : State) (n : Nat) : Queue := match s.queues.find? fun p => p.1 == n with | some p => p.2 | none => Queue.reset
def State.putQueue (s : State) (n : Nat) (q : Queue) : State := { s with queues := putKey s.queues n q }

/-- The core number under which the hub reads: none is its own. -/
def hubCore : Nat := 0xFFFF

/-- The watchers of a queue (R300, R302): the hub's copies in S of its TAIL's line, and of its event words' lines, stand among the
L2 lines under these numbers above the dies'. Every write drops them with the other copies of a line. -/
def tailWatch (n : Nat) : Nat := 8 + n
def wordsWatch (n : Nat) : Nat := 1032 + n

/-- The hub holds a line in S for a watcher, once it has read it (R300). -/
def State.hubHold (s : State) (watch line : Nat) : State :=
  if s.l2.any fun l => l.die == watch && l.line == line then s else { s with l2 := s.l2 ++ [⟨watch, line, .s⟩] }

/-- A watcher's copies given up. -/
def State.unwatch (s : State) (watch : Nat) : State := (s.l2.filter fun l => l.die == watch).foldl State.l2Evict s

/-- An access that waits for a PUBLISH, an answer or a link comes again in the next hub cycle. -/
def State.comeAgain (s : State) (e : Instr) : State := { s with agenda := s.agenda ++ [(s.hubCycle + 1, e)] }

/-- A PUBLISH that the hub asks of a peer's core, once. -/
def State.askPublish (s : State) (va : Nat) (r : RelRec) : State :=
  if s.reqs.any fun q => q.op == publishOp && q.owner.isNone && q.elems.any fun e => e.pa == r.line * 128 && e.home == r.agent then s
  else s.postReq none none 0 0 publishOp 0 0 noFields [r.publishElem va]

/-- The spoke links not UP of the dies whose cores an acquire of a line asks to publish (R6, R218, R377). -/
def State.publishersDown (s : State) (core line : Nat) : List Nat :=
  s.downSpokes.filter fun d => s.recs.any fun r => r.line == line && !r.published && r.home.isNone && r.core != core && dieOf r.core == d

/-- The publications that an acquire of the hub asks for on a line (R216), whose records have come back with it from an owner outside;
it waits for the links that they cross, and for a peer's core. -/
def State.hubPublish (s : State) (va line : Nat) : State × Got Unit :=
  let s := s.recall line false
  let down := s.publishersDown hubCore line
  if !down.isEmpty then (s.wakeSpokes down, .wait)
  else match s.acquirePublish hubCore va line with
    | (s, .fault f) => (s, .bad (f.cls, f.detail))
    | (s, .ask r) => (s.askPublish va r, .wait)
    | (s, .done) => (s, .got ())

/-- A read by the hub with an acquire at scope sys (R300, R302), for a watcher where one is given; `io` allows non-coherent host
memory. -/
def State.hubAcquire (s : State) (who ctx va n : Nat) (io : Bool) (watch : Option Nat) : State × Got Nat :=
  if va % 4 ≠ 0 then (s, .bad ((alignF va 0).cls, 0))
  else Got.bind (s.hubReach who ctx va n) fun s p =>
    let key := memKey s.hubid p.1
    if p.2.type = 4 then (s, if io then .got (fromBytes (readBytes s.mem key n)) else .bad (protFault 0x0A))
    else Got.bind (s.hubPublish va (lineOf key)) fun s _ =>
      if s.poison.contains (lineOf key) then (s, .bad (8, 0))
      else match s.hostFault va key with
        | some f => (s, .bad (f.cls, f.detail))
        | none =>
          let s := s.hubLook (lineOf key)
          let s := match watch with | some w => s.hubHold w (lineOf key) | none => s
          (s, .got (fromBytes (readBytes s.mem key n)))

/-- The hub's reading of a queue's words is over: what it has asked for and no longer needs is taken away. -/
def State.endQueueRead {α : Type} (n : Nat) (g : State × Got α) : State × Got α :=
  match g.2 with
  | .wait => g
  | _ => (g.1.endBring hubDie (queueReader n), g.2)

/-- Whether the hub still holds the line of a word for a watcher: nothing has written it since (R300). -/
def State.watched (s : State) (ctx va watch : Nat) : Bool :=
  match s.agentXlate ctx va .read false false with
  | .error _ => false
  | .ok (pa, _) => s.l2.any fun l => l.die == watch && l.line == lineOf (memKey s.hubid pa)

/-- The address of a record (R299). -/
def Queue.recordAt (q : Queue) (i : Nat) : Nat := q.cbase + 256 + 64 * (i % 2 ^ q.log2sz)

/-- Wait event k of a record: its address and its target (R301). -/
def recWait (v k : Nat) : Nat × Nat := (bitsOf v (128 + 96 * k) 64, bitsOf v (192 + 96 * k) 32)
def recWaitValid (v k : Nat) : Bool := bitAt v (56 + k)
def recSer (v : Nat) : Bool := bitAt v 61
/-- The signal event of a record, where SIGV is set: 0 is an address as any other (R301). -/
def recSignal (v : Nat) : Option Nat := if bitAt v 60 then some (bitsOf v 64 64) else none
def recSheet (v : Nat) : Nat := bitsOf v 0 53
/-- The wait events of a record that are valid. -/
def recWaits (v : Nat) : List (Nat × Nat) := ((List.range 4).filter (recWaitValid v)).map (recWait v)

/-- Whether a record has a nonzero reserved or invalid field (R301, R303). -/
def recBad (v : Nat) : Bool :=
  bitsOf v 62 2 != 0 || bitsOf v 53 3 != 0 || bitsOf v 117 11 != 0 || (!bitAt v 60 && bitsOf v 64 64 != 0) ||
  (List.range 4).any fun k => if recWaitValid v k then decide ((recWait v k).1 ≥ 2 ^ 53) else (recWait v k) != (0, 0)

/-- The first address of a record that is not 4-byte aligned: its signal's or a wait event's. -/
def recMisaligned (v : Nat) : Option Nat := ((recSignal v).toList ++ (recWaits v).map (·.1)).find? fun a => a % 4 != 0

/-- Whether a word meets a target (R301). -/
def eventMet (w t : Nat) : Bool := decide ((w + 2 ^ 32 - t % 2 ^ 32) % 2 ^ 32 < 2 ^ 31)

/-- A queue enters ERROR, which is logged (R303): from EMPTY, WAITING and READY alone. -/
def State.failQueue (s : State) (n cause addr : Nat) : State :=
  let q := s.queue n
  if q.st = .unbound ∨ q.st = .error then s else
  (((s.unwatch (tailWatch n)).unwatch (wordsWatch n)).putQueue n { q with st := .error, cause, record := none, met := false }).logEvent q.ctx
    { cls := 5, detail := 0x0A, async := true, eaddr := addr, einfo := n * 2 ^ 32 + cause }

/-- Whether a launch is still going. -/
def Launch.open_ (l : Launch) : Bool := l.state == .splitting || l.state == .running

/-- The conditions of READY beside the event words: SER, the context, the credit (R303). -/
def State.queueMay (s : State) (n : Nat) (q : Queue) (v : Nat) : Bool :=
  !(recSer v && s.launches.any fun l => l.queue == n && l.open_) &&
  (match s.ctxs[q.ctx]? with | some c => c.state == .running | none => false) &&
  (q.budget == 0 || decide (0 < q.credit))

/-- WAITING or READY by the last readings (R303). -/
def State.checkQueue (s : State) (n : Nat) : State :=
  let q := s.queue n
  if q.st = .unbound ∨ q.st = .error then s
  else match q.record with
    | none => s.putQueue n { q with st := .empty, met := false }
    | some v => s.putQueue n { q with st := if q.met && s.queueMay n q v then .ready else .waiting }

/-- One event word of a record read after those before it: whether all were met, and the first that is unreadable. -/
def State.readEvent (n : Nat) (q : Queue) (a : State × Bool × Option Nat) (w : Nat × Nat) : State × Bool × Option Nat :=
  match a.2.2 with
  | some e => (a.1, a.2.1, some e)
  | none => match State.endQueueRead n (a.1.hubAcquire (queueReader n) q.ctx w.1 4 false (some (wordsWatch n))) with
    | (s, .bad _) => (s, false, some w.1)
    | (s, .wait) => (s, false, none)
    | (s, .got x) => (s, a.2.1 && eventMet x w.2, none)

/-- The event words of the head record read (R302): up to the first that is unreadable. -/
def State.readWords (s : State) (n : Nat) : State :=
  let q := s.queue n
  match q.record with
  | none => s.checkQueue n
  | some v =>
    let r := (recWaits v).foldl (State.readEvent n q) (s, true, none)
    match r.2.2 with
    | some a => r.1.failQueue n 3 a
    | none => (r.1.putQueue n { q with met := r.2.1 }).checkQueue n

/-- The head record read and checked, then its event words (R300, R303). -/
def State.readHead (s : State) (n : Nat) : State :=
  let q := s.queue n
  let a := q.recordAt q.head
  if q.cbase % 256 ≠ 0 then s.failQueue n 3 a
  else match State.endQueueRead n (s.hubAcquire (queueReader n) q.ctx a 64 q.door none) with
  | (s, .bad _) => s.failQueue n 3 a
  | (s, .wait) => s
  | (s, .got v) =>
    if recBad v then s.failQueue n 2 a
    else match recMisaligned v with
      | some e => s.failQueue n 3 e
      | none => (s.putQueue n { q with record := some v, met := false }).readWords n

/-- The head of a queue by the tail that the hub knows: overflow, EMPTY, or its record (R299, R303). -/
def State.headQueue (s : State) (n : Nat) : State :=
  let q := s.queue n
  let held := (q.tail + 2 ^ 32 - q.head) % 2 ^ 32
  if held > 2 ^ q.log2sz then s.failQueue n 1 0
  else if held = 0 then (s.putQueue n { q with record := none, met := false }).checkQueue n
  else if q.record.isSome then s.readWords n
  else s.readHead n

/-- TAIL as the hub reads it for queue n: from memory, whose line it then holds, or QTAIL (R300). -/
def State.tailOf (s : State) (n : Nat) (q : Queue) : State × Got Nat :=
  if q.door then (s, .got q.qtail)
  else if q.cbase % 256 ≠ 0 then (s, .bad ((alignF q.cbase 0).cls, 0))
  else State.endQueueRead n (s.hubAcquire (queueReader n) q.ctx q.cbase 4 false (some (tailWatch n)))

/-- HEAD written to the control block with a release at scope sys (R299, R300). -/
def State.writeHead (s : State) (q : Queue) : State := s.agentWrite q.ctx (q.cbase + 128) (toBytes q.head 4)

/-- The current TAIL taken as HEAD by a queue that is bound, and written at once; while TAIL is not at hand, the hub reads it again
(R303). -/
def State.bindTail (s : State) (n : Nat) (q : Queue) : State :=
  match s.tailOf n q with
  | (s, .got t) =>
    let q := { q with head := t, tail := t, binding := false }
    (s.putQueue n q).writeHead q
  | (s, .bad _) => (s.putQueue n { q with binding := false }).failQueue n 3 q.cbase
  | (s, .wait) => s.putQueue n q

/-- TAIL read again, and the head record with it (R300). -/
def State.rereadQueue (s : State) (n : Nat) : State :=
  let q := s.queue n
  if q.st = .unbound ∨ q.st = .error then s
  else if q.binding then s.bindTail n q
  else match s.tailOf n q with
    | (s, .bad _) => s.failQueue n 3 q.cbase
    | (s, .wait) => s
    | (s, .got t) => (s.putQueue n { s.queue n with tail := t }).headQueue n

/-- Whether the hub has to read a queue's tail again: a write has taken the copy of its line, or a head record is still unread
because it waits for a PUBLISH (R300). -/
def State.tailLost (s : State) (n : Nat) (q : Queue) : Bool :=
  q.binding || (!q.door && !s.watched q.ctx q.cbase (tailWatch n)) || (q.record.isNone && q.tail != q.head)

/-- TAIL_REREAD (R300): a write has invalidated the watched line of TAIL. -/
def execTailReread (n : Nat) (s : State) : Host.Outcome State Fault Refusal :=
  .next (if n < 1024 && s.tailLost n (s.queue n) then s.rereadQueue n else s)

/-- WAIT_WORD_CHANGE (R302): a write has invalidated the watched line of an event word, and the words are read again. -/
def execWaitWordChange (n : Nat) (s : State) : Host.Outcome State Fault Refusal :=
  let q := s.queue n
  .next (match q.record with
    | some v => if (recWaits v).all fun w => s.watched q.ctx w.1 (wordsWatch n) then s else s.readWords n
    | none => s)

/-! ### Registers (R298) -/

/-- The fields of QCFG but EN. -/
def Queue.setCfg (q : Queue) (v : Nat) : Queue :=
  { q with budget := bitsOf v 48 16, ctx := bitsOf v 32 6, dev := bitAt v 30, door := bitAt v 29, log2sz := bitsOf v 24 5,
           prio := bitsOf v 0 7, credit := bitsOf v 48 16 }

/-- The value of QCFG. -/
def Queue.cfg (q : Queue) : Nat :=
  q.prio + q.log2sz * 2 ^ 24 + ofBool q.door * 2 ^ 29 + ofBool q.dev * 2 ^ 30 + ofBool q.en * 2 ^ 31 + q.ctx * 2 ^ 32 + q.budget * 2 ^ 48

/-- QUEUE_BIND (R298, R303): QCFG written with EN set. EN stays 0 where the fields do not allow it. -/
def execQueueBind (n cfg : Nat) (s : State) : Host.Outcome State Fault Refusal :=
  if !s.awake then .next s else
  let q := s.queue n
  if n ≥ 1024 || q.en then .next s
  else
    let q := q.setCfg cfg
    let free := match s.ctxs[q.ctx]? with | some c => c.state == .free | none => true
    if q.log2sz < 4 || q.log2sz > 16 || free || (q.dev && q.door) then .next (s.putQueue n q)
    else
      .next (s.bindTail n { q with en := true, st := .empty, cause := 0, record := none, met := false, tail := q.head, binding := true })

/-- A queue unbound: its records that are not picked are dropped (R303). -/
def State.unbindQueue (s : State) (n : Nat) : State :=
  let q := s.queue n
  if q.en then ((s.unwatch (tailWatch n)).unwatch (wordsWatch n)).putQueue n { q with en := false, st := .unbound, record := none, met := false, binding := false } else s

/-- QUEUE_UNBIND (R298, R303): QCFG written with EN clear while EN = 1; its other fields are ignored. -/
def execQueueUnbind (n : Nat) (s : State) : Host.Outcome State Fault Refusal :=
  if !s.awake then .next s else
  .next (s.unbindQueue n)

/-- QTAIL (R298, R300). -/
def execQtail (n v : Nat) (s : State) : Host.Outcome State Fault Refusal :=
  if !s.awake then .next s else
  let q := s.queue n
  if n < 1024 && q.door then .next ((s.putQueue n { q with qtail := v % 2 ^ 32 }).rereadQueue n) else .next s

/-- Every queue's WAITING or READY, at the end of a cycle. -/
def State.checkQueues (s : State) : State := s.queues.foldl (fun (s : State) p => s.checkQueue p.1) s

/-! ### Arbitration (R304) -/

/-- The queue that the arbiter picks: of the highest priority with a READY queue, the first after the last pick. -/
def State.arbiterChoice (s : State) : Option Nat :=
  let ready := s.queues.filter fun p => p.2.st == .ready
  let top := ready.foldl (fun m p => max m p.2.prio) 0
  let last := match s.lastPicks.find? fun p => p.1 == top with | some p => p.2 | none => 1023
  (leastBy (fun (p : Nat × Queue) => (p.1 + 1023 - last) % 1024) (ready.filter fun p => p.2.prio == top)).map (·.1)

/-- A launch as it is picked (R312). -/
def Launch.picked_ (tag n ctx now v : Nat) : Launch :=
  { tag, ctx, queue := n, sheetAddr := recSheet v, sheet := Sheet.none, state := .splitting, picked := now,
    signal := recSignal v, ser := recSer v, spawned := [], attempts := [], retired := [], casts := [], regions := [], recorded := [] }

/-- ARBITER_PICK (R303, R304): the launch is handed to the splitter, HEAD advances, the credit falls. -/
def execArbiterPick (s : State) : Host.Outcome State Fault Refusal :=
  let s := s.checkQueues
  match s.arbiterChoice with
  | none => .next s
  | some n =>
    let q := s.queue n
    match q.record with
    | none => .next s
    | some v =>
      let l := Launch.picked_ s.launches.length n q.ctx s.hubCycle v
      let q := { q with head := (q.head + 1) % 2 ^ 32, credit := q.credit - 1, record := none, met := false }
      let s : State := { s.unwatch (wordsWatch n) with launches := s.launches ++ [l], lastPicks := putKey s.lastPicks q.prio n }
      .next (((s.putQueue n q).writeHead q).headQueue n).checkQueues

/-- The length of a budget period in hub cycles (R304). -/
def budgetPeriod : Nat := 1000000

/-- BUDGET_PERIOD (R304): the boundary of a period sets every credit. -/
def execBudgetPeriod (s : State) : Host.Outcome State Fault Refusal :=
  if s.hubCycle < (s.periods + 1) * budgetPeriod then .next s
  else
    let queues := s.queues.map fun p => (p.1, { p.2 with credit := p.2.budget })
    .next ({ s with periods := s.periods + 1, queues } : State).checkQueues

/-! ### The instructions (R305 to R308) -/

/-- What the hub does for an append, indivisibly (R306): the tail before it, and whether the record was written; none while TAIL is not
at hand. A control block that cannot be read or written takes the queue to ERROR with CAUSE 3. -/
def State.appendRecord (s : State) (n : Nat) (rec : List Byte) : State × Option (Nat × Bool) :=
  let q := s.queue n
  match s.tailOf n q with
  | (s, .wait) => (s, none)
  | (s, .bad _) => (s.failQueue n 3 q.cbase, some (q.tail, false))
  | (s, .got t) =>
    if q.binding then (s, none) else
    if (t + 2 ^ 32 - q.head) % 2 ^ 32 ≥ 2 ^ q.log2sz then (s, some (t, false))
    else match s.agentRange q.ctx (q.recordAt t) 64 .write, s.agentRange q.ctx q.cbase 4 .write with
      | .ok _, .ok _ =>
        ((s.agentWrite q.ctx (q.recordAt t) rec).agentWrite q.ctx q.cbase (toBytes ((t + 1) % 2 ^ 32) 4), some (t, true))
      | _, _ => (s.failQueue n 3 (q.recordAt t), some (t, false))

/-- One lane of `enq` (R306): it waits for the links that its fence crosses, and for TAIL. -/
def enqLane (x : Ctx) (s : State) (l : Nat) : State × LaneRes :=
  let n := x.a l 32
  let sa := x.bv l 32
  scratchHold x s sa 64 64 fun s =>
    let q := s.queue n
    if n ≥ 1024 then (s, .fault (descF 0 n))
    else if !(q.en && q.ctx == x.b.ctx && q.dev) then (s, .fault (protF 0x0A 0))
    else
      let down := s.publishDown x.b.core true false
      if !down.isEmpty then (s.wakeSpokes down, .again (.news s.news))
      else
        let s := (s.flushDailies x.uid x.ci).fenceAt x.b.core 2 5
        match s.appendRecord n (s.scratchRead x.uid sa 64) with
        | (s, none) => (s, .again (.news s.news))
        | (s, some r) =>
          (s.updCrew x.uid x.ci fun c =>
            (wrvOf c x.clk l x.w x.w.d 32 r.1 false).updThread l fun t => t.setPred (x.mod % 8) r.2, .next)

/-- What a deterministic launch and a region refuse (R278, R281, R305). -/
def quietBody (addr : Ctx → Nat → Nat) (body : Ctx → BodyRes) (x : Ctx) : BodyRes :=
  if x.b.sheet.det then refuseAll (fun l => ⟨0x0C, 0, addr x l, 0, 0⟩) x
  else if x.b.inside then refuseAll (fun l => protF 0x06 (addr x l)) x
  else body x

def execEnq (w : Fields) (s : State) := runLong 0xE9 none w s readsAB (quietBody (fun _ _ => 0) (laneBody enqLane))

/-- What a reading of an awaited word finds. -/
inductive WordRes where
  | met
  | unmet
  | fault (f : LaneFault)
deriving DecidableEq, Repr

/-- An awaited word of coherent memory, or of a peer's line that a die holds, read once with its checks (R235, R307). A reading that
meets the target acquires; where a peer's core is to publish first, the word is read again (R216). -/
def State.readHeld (s : State) (b : Block) (va key target : Nat) : State × WordRes :=
  let s := s.recall (lineOf key) false
  match s.l2Fault b.core va key 4 with
  | some f => (s, .fault f)
  | none =>
    let seen := s.ownBytes b.core b.ctx va (readBytes s.mem key 4)
    let down := s.publishersDown b.core (lineOf key)
    if !eventMet (fromBytes (b.overlay key seen)) target then (s, .unmet)
    else if !down.isEmpty then (s.wakeSpokes down, .unmet)
    else
      match s.acquirePublish b.core va (lineOf key) with
      | (s, .fault f) => (s, .fault f)
      | (s, .ask r) => (s.askPublish va r, .unmet)
      | (s, .done) => ((s.l2Read (dieOf b.core) (lineOf key)).acquireL1 b.core, .met)

/-- An awaited word read once, with its checks, once its line is at hand (R235, R307). -/
def State.readWord (s : State) (b : Block) (who va pa type target : Nat) : State × WordRes :=
  match placeOf s.hubid pa type with
  | .hostIo => (s, .fault (protF 0x0A va))
  | _ =>
    match s.bringLine (dieOf b.core) who (lineOf (memKey s.hubid pa)) false with
    | (s, .wait) => (s, .unmet)
    | (s, .remote a) => (s.endBring (dieOf b.core) who, .fault (remoteF va a))
    | (s, .here) =>
      let r := s.readHeld b va (memKey s.hubid pa) target
      (r.1.endBring (dieOf b.core) who, r.2)

/-- `waitev` (R307): the first reading at issue; a lane whose word does not meet its target waits. -/
def execWaitev (w : Fields) (s : State) := runLong 0xEA none w s readsAB <|
  memBody .read (fun x l => globalElems [x.a l 64] 4) fun x s l es =>
    match es with
    | [e] =>
      match s.readWord (s.blockOr x.b) (laneReader x.uid x.ci l) e.va e.pa e.leaf.type (x.bv l 32) with
      | (s, .fault f) => (s, .fault f)
      | (s, .met) => (s, .next)
      | (s, .unmet) => (s, .wait (.word e.va (x.bv l 32)))
    | _ => (s, .next)

/-- The lanes of a block that wait for words, read again at the end of a cycle. -/
def State.settleWords (s : State) (uid : Nat) : State :=
  match s.block? uid with
  | none => s
  | some b => b.liveThreads.foldl (fun (s : State) p =>
      match s.block? uid, s.thread? uid p.1 p.2 with
      | some b, some t =>
        match t.st with
        | .waiting (.word va target) len =>
          let stop (s : State) (f : LaneFault) : State := s.faultWaiting uid p.1 t.pc.toNat len [(p.2, f)]
          match s.translate b.core b.ctx va (s.shadowTag b va) .read with
          | .miss => s.startWalk b.core b.ctx va (s.shadowTag b va)
          | .fault f => stop (s.seeWalks b.core b.ctx [va]) (xlateF f va .read)
          | .ok pa leaf =>
            match s.readWord b (laneReader uid p.1 p.2) va pa leaf.type target with
            | (s, .fault f) => stop s f
            | (s, .met) => s.updThread uid p.1 p.2 Thread.complete
            | (s, .unmet) => s
        | _ => s
      | _, _ => s) s

/-- The semantics that `sigev.add` stands for: `red.add.n32.release.sys` (R238, R308). -/
def Ctx.asRed (x : Ctx) : Ctx := { x with op := 0xA9, w := { x.w with c := 21, fn := 0, mod := 9 } }
/-- The store that `sigev.set` stands for: `stl.b32.sys` (R308). -/
def Ctx.asStl (x : Ctx) : Ctx := { x with op := 0xA3, w := { x.w with fn := 5, mod := 0 } }

/-- `sigev.add` (R308). -/
def execSigevAdd (w : Fields) (s : State) := runLong 0xEB (some 0) w s readsAB fun x => atomBody x.asRed

/-- `sigev.set` (R308). -/
def execSigevSet (w : Fields) (s : State) := runLong 0xEB (some 1) w s readsAB <|
  quietBody (fun x l => x.a l 64) fun x => memBody .write (fun x l => globalElems [x.a l 64] 4) stlLane x.asStl

end Sys2Proof.Machine
end

