-- ==== Sys2Proof/Machine/Kernel.lean ====
section
/-! DEFINITION. The kernel and its call sheet (R309 to R323, R366): the sheet and its checks, the split, take regions, the life
of a launch, work packets, the directors and their instructions. -/

namespace Sys2Proof.Machine
open Sys2Proof

/-! ### The call sheet (R309 to R311) -/

/-- A sheet from its 256 bytes as a number (R309). -/
def sheetOf (addr v : Nat) : Sheet :=
  { addr, entry := bitsOf v 0 53, director := bitsOf v 64 53, gregs := bitsOf v 128 8, qregs := bitsOf v 136 8,
    kregs := bitsOf v 144 8, crews := bitsOf v 152 8, roles := bitsOf v 160 64, scratch := bitsOf v 224 32,
    carve := bitsOf v 256 3, reel := bitsOf v 264 8, pmode := bitsOf v 272 2, idem := bitAt v 280, det := bitAt v 281,
    retry := bitsOf v 284 4, priv := bitsOf v 288 32, nx := bitsOf v 320 32, ny := bitsOf v 352 32, nz := bitsOf v 384 32,
    spill := bitsOf v 416 32, casts := bitsOf v 448 53, events := bitsOf v 512 53, deadline := bitsOf v 576 64,
    takes := bitsOf v 640 53, pbase := bitsOf v 704 53, tbase := bitsOf v 768 53, tsx := bitsOf v 832 32,
    tsy := bitsOf v 864 32, tsz := bitsOf v 896 32, spbase := bitsOf v 928 53, part := bitsOf v 1024 2,
    lims := (List.range 4).map fun i => bitsOf v (1056 + 32 * i) 32 }

/-- The number of blocks of a grid. -/
def Sheet.nblk (sh : Sheet) : Nat := sh.nx * sh.ny * sh.nz

/-- Whether the bits above a 53-bit address field are not 0. -/
def high53 (v bit : Nat) : Bool := bitsOf v (bit + 53) 11 != 0

/-- The lowest offset of a byte that is not 0 in a range. -/
def dirtyByte (v lo n : Nat) : Option Nat := ((List.range n).map (lo + ·)).find? fun i => bitsOf v (8 * i) 8 != 0

/-- The lowest offset of a field outside its own limits (R311, step 1). -/
def sheetField (addr v : Nat) : Option Nat :=
  let sh := sheetOf addr v
  if addr % 256 ≠ 0 ∨ high53 v 0 ∨ sh.entry % 4 ≠ 0 then some 0
  else if high53 v 64 ∨ sh.director % 4 ≠ 0 then some 8
  else if sh.gregs = 0 then some 16
  else if sh.qregs > 8 then some 17
  else if sh.kregs > 64 then some 18
  else if sh.crews = 0 ∨ sh.crews > 32 then some 19
  else if (List.range 32).any fun i => bitsOf sh.roles (2 * i) 2 == 3 then some 20
  else if sh.scratch % 32 ≠ 0 then some 28
  else if bitsOf v 259 5 ≠ 0 then some 32
  else if sh.reel > 64 then some 33
  else if sh.pmode = 0 ∨ sh.pmode = 3 ∨ bitsOf v 274 6 ≠ 0 then some 34
  else if bitsOf v 282 2 ≠ 0 then some 35
  else if sh.priv % 8 ≠ 0 ∨ sh.priv < 256 ∨ sh.priv > 1048576 then some 36
  else if sh.nx = 0 then some 40
  else if sh.ny = 0 then some 44
  else if sh.nz = 0 then some 48
  else if high53 v 448 then some 56
  else if high53 v 512 then some 64
  else if high53 v 640 then some 80
  else if high53 v 704 then some 88
  else if high53 v 768 then some 96
  else if high53 v 928 ∨ sh.spbase % 8192 ≠ 0 then some 116
  else match dirtyByte v 124 4 with
    | some o => some o
    | none =>
      if bitsOf v 1026 6 ≠ 0 then some 128
      else (dirtyByte v 129 3).orElse fun _ => dirtyByte v 148 108

/-- The span of a block's spill area (R160). -/
def Sheet.spillSpan (sh : Sheet) : Nat := roundUp (16 * min (256 * sh.reel + sh.spill) 16777215) 8192

/-- The size of the grid on an axis: 1 x, 2 y, 3 z. -/
def Sheet.axis (sh : Sheet) (a : Nat) : Nat := match a with | 1 => sh.nx | 2 => sh.ny | _ => sh.nz

/-- A list of numbers that never falls. -/
def nondecreasing (xs : List Nat) : Bool := match xs with
  | a :: b :: r => decide (a ≤ b) && nondecreasing (b :: r)
  | _ => true

/-- The offset of the first joining condition that fails, the tables apart (R311, step 2). -/
def Sheet.joint (sh : Sheet) : Option Nat :=
  if sh.roles / 2 ^ (2 * sh.crews) ≠ 0 then some 20
  else if sh.reel = 0 ∧ sh.qregs > 0 then some 33
  else if sh.nblk > 2 ^ 32 - 1 then some 40
  else if sh.crews * 32 * sh.gregs * 4 > 524288 then some 16
  else if sh.scratch + 4096 * sh.reel > sh.carve * 131072 then some 28
  else if (if sh.part = 0 then sh.lims.any (· != 0) else !nondecreasing sh.lims || sh.lims.getD 3 0 != sh.axis sh.part) then some 132
  else if sh.qregs > 0 ∧ sh.spill > 0 ∧ (sh.spbase = 0 ∨ sh.spbase + sh.nblk * sh.spillSpan > 2 ^ 53) then some 116
  else Option.none

/-- The number under which the hub reads for a launch. -/
def sheetReader (tag : Nat) : Nat := 8 * tag + 1

/-- A 64-bit word that the hub or a director reads for a launch at an 8-byte aligned address of a context. -/
def State.hubWord (s : State) (who ctx va : Nat) : State × Got Nat :=
  Got.bind (s.hubRead who ctx va 8) fun s bs => (s, .got (fromBytes bs))

/-- `n` such words in a row. -/
def State.hubWords (s : State) (who ctx va n : Nat) : State × Got (List Nat) :=
  (List.range n).foldl (fun (a : State × Got (List Nat)) i =>
    Got.bind a fun s ws => Got.bind (s.hubWord who ctx (va + 8 * i)) fun s w => (s, .got (ws ++ [w]))) (s, .got [])

/-- The bytes of a sheet as a number. -/
def State.sheetBytes (s : State) (who ctx addr : Nat) : State × Got Nat :=
  Got.bind (s.hubWords who ctx addr 32) fun s ws => (s, .got (packElems 64 ws))

/-- The casts that one block's membership entry names; none where it is malformed (R274, R275). -/
def memberCasts (ncast e : Nat) : Option (List Nat) :=
  let cs := ((List.range 4).filter fun k => bitAt e (32 + k)).map fun k => bitsOf e (8 * k) 8
  if bitsOf e 36 28 ≠ 0 || cs.any (fun c => decide (c ≥ ncast)) || cs.eraseDups.length != cs.length then none else some cs

/-- The casts that records and membership entries describe; none where they do not agree (R274, R275). -/
def castsOf (recs mem : List Nat) : Option (List CastHub) :=
  match mem.mapM (memberCasts recs.length) with
  | none => none
  | some ms =>
    let casts := (List.range recs.length).map fun c => ((ms.zipIdx.filter fun m => m.1.contains c).map (·.2))
    if (recs.zip casts).all fun p => decide (1 ≤ p.2.length) && bitsOf p.1 0 32 == p.2.length && bitsOf p.1 32 32 == p.2.getLastD 0
    then some (casts.map fun m => ⟨m, 0, [], []⟩) else none

/-- A table that is there and valid, or not (R326: no class of its own). -/
def Got.valid {α : Type} (o : Option α) : Got α := match o with | some a => .got a | none => .bad (0, 0)

/-- The casts of a launch by its cast table, if it is valid (R274, R275). -/
def State.readCasts (s : State) (who ctx : Nat) (sh : Sheet) : State × Got (List CastHub) :=
  if sh.casts = 0 then (s, .got [])
  else if sh.casts % 8 ≠ 0 then (s, .bad (0, 0))
  else Got.bind (s.hubWords who ctx sh.casts 2) fun s hz =>
    let h := hz.getD 0 0
    let n := bitsOf h 0 32
    if n > 256 ∨ bitsOf h 32 32 ≠ sh.nblk ∨ hz.getD 1 0 ≠ 0 then (s, .bad (0, 0))
    else Got.bind (s.hubWords who ctx (sh.casts + 16) (n + sh.nblk)) fun s ws => (s, .valid (castsOf (ws.take n) (ws.drop n)))

/-- The regions that the entries of a take table name; none where one is malformed or two overlap (R323). -/
def takesOf (ws : List Nat) : Option (List (Nat × Nat)) :=
  let rs := (List.range (ws.length / 2)).map fun i => (ws.getD (2 * i) 0, ws.getD (2 * i + 1) 0)
  let good := rs.all fun r => r.1 % 8192 == 0 && decide (r.1 < 2 ^ 53) && r.2 % 8192 == 0 && r.2 != 0 && decide (r.1 + r.2 ≤ 2 ^ 53)
  let apart := rs.zipIdx.all fun p => rs.zipIdx.all fun q => p.2 == q.2 || !rangesMeet p.1.1 p.1.2 q.1.1 q.1.2
  if good && apart then some rs else none

/-- The regions of a take table, if it is valid (R323). -/
def State.readTakes (s : State) (who ctx : Nat) (sh : Sheet) : State × Got (List (Nat × Nat)) :=
  if sh.takes = 0 then (s, .got [])
  else if sh.takes % 8 ≠ 0 then (s, .bad (0, 0))
  else Got.bind (s.hubWord who ctx sh.takes) fun s h =>
    let n := bitsOf h 0 32
    if n = 0 ∨ n > 64 then (s, .bad (0, 0))
    else Got.bind (s.hubWords who ctx (sh.takes + 8) (2 * n)) fun s ws => (s, .valid (takesOf ws))

/-- What the hub makes of a sheet at the split. -/
inductive SheetRes where
  /-- The sheet with its casts and regions. -/
  | good (sh : Sheet) (casts : List CastHub) (regions : List (Nat × Nat))
  /-- The offset to report. -/
  | bad (off : Nat)
  /-- Not at hand yet. -/
  | wait
deriving DecidableEq, Repr

/-- A reading of a sheet's part: what stops it is reported at an offset. -/
def SheetRes.after {α : Type} (g : State × Got α) (off : Nat) (k : State → α → State × SheetRes) : State × SheetRes :=
  match g with
  | (s, .got a) => k s a
  | (s, .bad _) => (s, .bad off)
  | (s, .wait) => (s, .wait)

/-- The sheet, its cast table and its take table read and checked at the split (R274, R310, R311, R323). -/
def State.checkSheet (s : State) (who ctx addr : Nat) : State × SheetRes :=
  if addr % 256 ≠ 0 then (s, .bad 0)
  else SheetRes.after (s.sheetBytes who ctx addr) 0 fun s v =>
    let sh := sheetOf addr v
    match (sheetField addr v).orElse fun _ => sh.joint with
    | some o => (s, .bad o)
    | none =>
      SheetRes.after (s.readCasts who ctx sh) 56 fun s c =>
        SheetRes.after (s.readTakes who ctx sh) 80 fun s t => (s, .good sh c t)

/-! ### Splitting (R313 to R315) -/

/-- A packet of KIND 0 for a box of blocks (R314). -/
def rangePacket (sheet tag attempt : Nat) (box : List Nat) : List Byte :=
  toBytes (sheet % 2 ^ 53) 8 ++ toBytes tag 4 ++ toBytes attempt 4 ++ box.flatMap (fun v => toBytes v 4) ++ toBytes 0 24

/-- The partition axis of a sheet and the four upper bounds (R313). -/
def Sheet.split (sh : Sheet) : Nat × List Nat :=
  if sh.part ≠ 0 then (sh.part, sh.lims)
  else
    let a := if sh.nz ≥ 4 then 3 else if sh.ny ≥ 4 then 2 else 1
    (a, (List.range 4).map fun i => (sh.axis a * (i + 1) + 3) / 4)

/-- The box of a range on an axis. -/
def Sheet.box (sh : Sheet) (a lo hi : Nat) : List Nat :=
  (if a = 1 then [lo, hi] else [0, sh.nx]) ++ (if a = 2 then [lo, hi] else [0, sh.ny]) ++ (if a = 3 then [lo, hi] else [0, sh.nz])

/-- The packets of a launch, in ascending die order; the range of a fenced die goes to the next live one (R313). -/
def State.packetsOf (s : State) (l : Launch) : List (Nat × List Byte) :=
  let p := l.sheet.split
  (List.range 4).filterMap fun i =>
    let lo := if i = 0 then 0 else p.2.getD (i - 1) 0
    let hi := p.2.getD i 0
    if lo < hi then some (s.liveDie i, rangePacket l.sheetAddr l.tag 0 (l.sheet.box p.1 lo hi)) else none

/-- A launch that begins to run: its packets are held for the mailboxes (R312). -/
def State.startLaunch (s : State) (tag : Nat) : State :=
  match s.launch? tag with
  | none => s
  | some l => { s.updLaunch tag fun l => { l with state := .running } with held := s.held ++ s.packetsOf l }

/-- A sheet that is invalid or cannot be read (R311). -/
def State.refuseSheet (s : State) (l : Launch) (off : Nat) : State :=
  ((s.logEvent l.ctx { cls := 1, detail := 0x10, async := true, pc := l.sheetAddr, tag := l.tag, eaddr := l.sheetAddr,
                       einfo := off }).failLaunch l.tag).faultContext l.ctx

/-- The regions of a launch that are CLOSED and that no region which is opening or open overlaps (R366). -/
def State.freeRegions (s : State) (l : Launch) : List (Nat × Nat) :=
  l.regions.filter fun r => !s.takes.any fun t => t.ctx == l.ctx && rangesMeet t.lo t.size r.1 r.2

/-- Whether every region of a launch is OPEN. -/
def State.takesOpen (s : State) (l : Launch) : Bool :=
  l.regions.all fun r => s.takes.any fun t => t.launch == l.tag && t.lo == r.1 && t.isOpen

/-- The regions of a launch opened for copying, each where none that is opening or open overlaps it (R366); with every region OPEN,
or with none, the launch runs. -/
def State.openTakes (s : State) (tag : Nat) : State :=
  match s.launch? tag with
  | none => s
  | some l =>
    if s.takesOpen l then s.startLaunch tag
    else { s with takes := s.takes ++ (s.freeRegions l).map fun r => ⟨tag, l.ctx, r.1, r.2, false⟩ }

/-- Whether a context starts launches: it runs, or drains (R312, R344). -/
def State.ctxStarts (s : State) (c : Nat) : Bool := match s.ctxs[c]? with | some c => c.state == .running || c.state == .draining | none => false

/-- LAUNCH_SPLIT (R310 to R313, R366): the sheet is read and checked once; then the launch runs, or its regions open. A sheet
with CREWS = 0 has not been read yet. -/
def execLaunchSplit (tag : Nat) (s : State) : Host.Outcome State Fault Refusal :=
  match s.launch? tag with
  | none => .next s
  | some l =>
    if l.state ≠ .splitting || !s.ctxStarts l.ctx then .next s
    else if l.sheet.crews ≠ 0 then .next (s.openTakes tag)
    else match s.checkSheet (sheetReader tag) l.ctx l.sheetAddr with
      | (s, .wait) => .next s
      | (s, .bad o) => .next ((s.endBring hubDie (sheetReader tag)).refuseSheet l o)
      | (s, .good sheet casts regions) =>
        .next (((s.endBring hubDie (sheetReader tag)).updLaunch tag fun l => { l with sheet, casts, regions }).openTakes tag)

/-- The pages of a region that are take-shadow pages: the leaf, and its shadow frame (R365). -/
def State.shadowPages (s : State) (ctx lo size : Nat) : List (Leaf × Nat) :=
  match s.ctxs[ctx]? with
  | none => []
  | some c => (List.range (size / 8192)).filterMap fun i =>
      match walkTables s.mem s.hubid c.root (lo + 8192 * i) with
      | .error _ => none
      | .ok l => if l.type ≠ 2 then none else match shadowFrame s.mem s.hubid l with | .ok f => some (l, f) | .error _ => none

/-- A committed frame copied into its shadow: the page is written, so that its D is set first (R354, R368). -/
def State.copyFrame (s : State) (p : Leaf × Nat) : State := (s.setDirty p.1).homeWrite p.2 (s.agentMem p.1.frame 8192)

/-- TAKE_OPENED (R366): every committed frame of the opening regions has been copied into its shadow; they are OPEN, and with every
region of the launch OPEN it runs, unless its context starts no launch (R344). -/
def execTakeOpened (tag : Nat) (s : State) : Host.Outcome State Fault Refusal :=
  let mine : Take → Bool := fun t => t.launch == tag && !t.isOpen
  if !s.takes.any mine || !(match s.launch? tag with | some l => s.ctxStarts l.ctx | none => true) then .next s
  else
    let s := (s.takes.filter mine).foldl (fun (s : State) t =>
      (s.shadowPages t.ctx t.lo t.size).foldl State.copyFrame s) s
    let s : State := { s with takes := mapWhere mine (fun t => { t with isOpen := true }) s.takes }
    .next (match s.launch? tag with | some l => if s.takesOpen l then s.startLaunch tag else s | none => s)

/-- The packets left in a die's mailbox. -/
def State.mailboxLen (s : State) (d : Nat) : Nat := match s.dies[d]? with | some k => k.mailbox.length | none => 0

/-- The packet that the hub posts next: the first held one whose mailbox has room, so that the packets of a split are posted in
ascending die order (R313, R315). -/
def State.nextHeld (s : State) : Option (Nat × List Byte) := s.held.find? fun p => decide (s.mailboxLen p.1 < 64)

/-- MAILBOX_POST (R313, R315): the packet that is posted next enters its die's mailbox, by the die's spoke link (R6, R377). -/
def execMailboxPost (die : Nat) (s : State) : Host.Outcome State Fault Refusal :=
  match s.nextHeld with
  | none => .next s
  | some p =>
    if p.1 ≠ die then .next s
    else if s.downSpokes.contains die then .next (s.wakeSpokes [die])
    else .next { s with held := s.held.erase p, dies := updAt s.dies die fun d => { d with mailbox := d.mailbox ++ [p.2] } }

/-! ### The end of a launch (R301, R312, R323, R366) -/

/-- Whether every block has retired and every event is made (R301). -/
def Launch.complete (l : Launch) : Bool :=
  l.state == .running && decide (l.retired.length ≥ l.sheet.nblk) && decide (l.recorded.length ≥ l.sheet.nblk)

/-- The signal event of a launch (R301). -/
def State.signalLaunch (s : State) (l : Launch) : State :=
  match l.signal with
  | none => s
  | some va => match s.eventAdd l.ctx va 1 none l.tag 0 with
    | .ok s => s
    | .error e => s.logEventFailure l.ctx l.tag 0 va e.1 e.2

/-- One page committed: the entry's frame and its shadow change places (R366), both sent before if a checkpoint has still to
(R368). -/
def State.swapFrames (s : State) (p : Leaf × Nat) : State :=
  let s := s.setDirty p.1
  let e := fromBytes (s.agentMem p.1.entryAddr 8)
  (s.homeWrite p.1.entryAddr (toBytes (setBits e 13 26 (bitsOf p.2 13 26)) 8)).homeWrite (p.1.entryAddr + 8192) (toBytes (bitsOf e 13 26 * 2 ^ 13) 8)

/-- The regions of a launch committed in one step, then STATUS = 1 (R366). -/
def State.commitTakes (s : State) (l : Launch) : State :=
  let mine := s.takes.filter fun t => t.launch == l.tag
  if mine.isEmpty then s
  else
    let s := mine.foldl (fun (s : State) t => (s.unmapL1 t.ctx t.lo t.size).dropTranslations t.ctx t.lo t.size) s
    let s := mine.foldl (fun (s : State) t => (s.shadowPages t.ctx t.lo t.size).foldl State.swapFrames s) s
    let s : State := { s with takes := s.takes.filter fun t => t.launch != l.tag }
    s.agentWrite l.ctx (l.sheet.takes + 4) (toBytes 1 4)

/-- LAUNCH_COMPLETE (R301, R312): takes commit, then the signal is made. -/
def execLaunchComplete (tag : Nat) (s : State) : Host.Outcome State Fault Refusal :=
  match s.launch? tag with
  | none => .next s
  | some l =>
    if !l.complete then .next s
    else .next (((s.commitTakes l).updLaunch tag fun l => { l with state := .done }).signalLaunch l).checkQueues

/-- Every block of a launch killed without relaunch; a director that runs a routine for it goes idle. -/
def State.killLaunch (s : State) (tag : Nat) : State :=
  let s := (s.blocks.filter fun b => b.launch == tag && !b.isDirector).foldl (fun (s : State) b => s.removeBlock b.uid) s
  (List.range 4).foldl (fun (s : State) d =>
    if s.blocks.any fun b => b.isDirector && b.die == d && b.launch == tag && (match s.dies[d]? with | some k => k.called.isSome | none => false)
    then s.idleDirector d else s) s

/-- Whether a launch's deadline has passed (R309, R312): nanoseconds are cycles of the hub's counter. -/
def State.deadlinePassed (s : State) (l : Launch) : Bool :=
  l.state == .running && l.sheet.deadline != 0 && decide (l.picked + l.sheet.deadline ≤ s.hubCycle)

/-- LAUNCH_DEADLINE (R312): the launch is CANCELLED, unless it is complete in that hub cycle. -/
def execLaunchDeadline (tag : Nat) (s : State) : Host.Outcome State Fault Refusal :=
  match s.launch? tag with
  | none => .next s
  | some l =>
    if !s.deadlinePassed l || l.complete then .next s
    else .next (((s.killLaunch tag).endLaunch tag .cancelled).signalLaunch l).checkQueues

/-! ### The directors (R316 to R318) -/

/-- The fields of a packet as a number (R314). -/
def pktSheet (v : Nat) : Nat := bitsOf v 0 53
def pktKind (v : Nat) : Nat := bitsOf v 56 8
def pktTag (v : Nat) : Nat := bitsOf v 64 32
def pktAttempt (v : Nat) : Nat := bitsOf v 96 32
def pktBox (v i : Nat) : Nat := bitsOf v (128 + 32 * i) 32

/-- Numbers from one to below another. -/
def rangeFrom (lo hi : Nat) : List Nat := (List.range (hi - lo)).map (lo + ·)

/-- The blocks of a packet in ascending s.blk. -/
def pktBlocks (sh : Sheet) (v : Nat) : List Nat :=
  (rangeFrom (pktBox v 4) (min (pktBox v 5) sh.nz)).flatMap fun z =>
    (rangeFrom (pktBox v 2) (min (pktBox v 3) sh.ny)).flatMap fun y =>
      (rangeFrom (pktBox v 0) (min (pktBox v 1) sh.nx)).map fun x => x + sh.nx * (y + sh.ny * z)

/-- The launch of a packet while it runs. -/
def State.pktLaunch (s : State) (v : Nat) : Option Launch :=
  match s.launch? (pktTag v) with | some l => if l.state = .running then some l else none | none => none

def State.ctxRuns (s : State) (c : Nat) : Bool := match s.ctxs[c]? with | some c => c.state == .running | none => false

/-- The sheet as a director reads it again at a spawn (R310), none while it is not at hand; the one read at the split where it cannot be
read. -/
def State.sheetAgain (s : State) (l : Launch) (v : Nat) : State × Option Sheet :=
  match s.sheetBytes (sheetReader l.tag) l.ctx (pktSheet v) with
  | (s, .wait) => (s, none)
  | (s, .bad _) => (s.endBring hubDie (sheetReader l.tag), some l.sheet)
  | (s, .got b) => (s.endBring hubDie (sheetReader l.tag), some (sheetOf (pktSheet v) b))

/-- Whether a context starts no launch any more, and no block of one (R344): it leaves FAULTED by a reset alone. -/
def State.ctxOver (s : State) (c : Nat) : Bool := match s.ctxs[c]? with | some c => c.state == .faulted || c.state == .reset | none => true

/-- Whether a director may take a packet: its launch runs in a context that does, or has ended. -/
def State.takeable (s : State) (p : List Byte) : Bool :=
  match s.pktLaunch (fromBytes p) with | some l => s.ctxRuns l.ctx || s.ctxOver l.ctx | none => true

/-- A die's state changed. -/
def State.updDie (s : State) (d : Nat) (f : DieSt → DieSt) : State := { s with dies := updAt s.dies d f }

/-- The number that a custom director's crew counts as a block of the launch: behind every block (its private memory lies
there). -/
def Sheet.directorLin (sh : Sheet) (die : Nat) : Nat := sh.nblk * sh.crews + die

/-- The sheet that a director's crew has while it serves a packet of a launch: its own sizes, the launch's other values (R316). -/
def Sheet.forDirector (sh : Sheet) : Sheet :=
  { sh with gregs := 64, qregs := 0, kregs := 0, crews := 1, scratch := 65536, reel := 0, det := false, idem := false }

/-- A director's crew in the context of the launch whose packet it serves (R316). -/
def Block.forLaunch (b : Block) (l : Launch) (attempt : Nat) : Block :=
  { b with ctx := l.ctx, launch := l.tag, attempt, lin := l.sheet.directorLin b.die, sheet := l.sheet.forDirector }

/-- The stock director of a die takes a packet, and with it the context of its launch (R316, R317). -/
def State.takeStock (s : State) (d : Nat) (p : List Byte) : State :=
  let s := s.updDie d fun k => { k with mailbox := k.mailbox.erase p, serving := some p }
  match s.pktLaunch (fromBytes p) with
  | none => s
  | some l =>
    let blocks := mapWhere (fun (b : Block) => b.isDirector && b.die == d) (fun b => b.forLaunch l (pktAttempt (fromBytes p))) s.blocks
    { s with blocks }

/-- A custom routine called with a packet at address 0 of the director's scratchpad (R316, R318). -/
def State.callRoutine (s : State) (d : Nat) (l : Launch) (sh : Sheet) (p : List Byte) : State :=
  let clk := match s.dies[d]? with | some k => k.clock | none => 0
  let now := s.hubCycle
  let begin_ : Thread → Thread := fun t => { t with depth := 1 }
  let c := Crew.create 0 64 0 0 0 16 sh.director clk
  let start : Block → Block := fun b =>
    { b.forLaunch l (pktAttempt (fromBytes p)) with
      lin := sh.directorLin d, sheet := sh.forDirector
      body := { Body.create [{ c with threads := c.threads.map begin_ }] with scratch := writeBytes b.body.scratch 0 p } }
  ({ s with blocks := mapWhere (fun (b : Block) => b.isDirector && b.die == d) start s.blocks } : State).updDie d
    fun k => { k with called := some now }

/-- The s.attempt with which a block is spawned next. -/
def Launch.attemptOf (l : Launch) (lin : Nat) : Nat := match l.attempts.find? fun p => p.1 == lin with | some p => p.2 | none => 0

/-- The next block that the stock director spawns for a packet (R317). A killed block belongs to its relaunch's packet (R280,
R313). -/
def nextBlock (l : Launch) (sh : Sheet) (v : Nat) : Option Nat :=
  (pktBlocks sh v).find? fun b => !l.spawned.contains b && decide (l.attemptOf b ≤ pktAttempt v)

/-- Whether the carve of a block's home core differs from the sheet's (R317). -/
def State.wrongCarve (s : State) (core carve : Nat) : Bool :=
  match s.cores[core]? with | some c => (c.pendingCarve.getD c.carve) != carve | none => false

/-- The home core of a block on a die (R268). -/
def State.homeCore (s : State) (die : Nat) (l : Launch) (sh : Sheet) (lin : Nat) : Nat :=
  48 * die + s.homePos die l.ctx l.tag sh lin

/-- A packet put back at the front of its mailbox, or held where that is full: its launch goes on when its context runs again. -/
def State.putBack (s : State) (d : Nat) (p : List Byte) : State :=
  let s := s.updDie d fun k => { k with serving := none }
  if s.mailboxLen d < 64 then s.updDie d fun k => { k with mailbox := p :: k.mailbox } else { s with held := (d, p) :: s.held }

/-- One act of the stock director on the packet it serves: the carve asked for, the next block placed, or the packet done. A packet of
a context that has stopped does not hold up the packets of others. -/
def State.serve (s : State) (d : Nat) (p : List Byte) : State :=
  let v := fromBytes p
  let done : DieSt → DieSt := fun k => { k with serving := none }
  match s.pktLaunch v with
  | none => s.updDie d done
  | some l =>
    if s.ctxOver l.ctx then s.updDie d done
    else if !s.ctxRuns l.ctx then s.putBack d p
    else
      match s.sheetAgain l v with
      | (s, none) => s
      | (s, some sh) =>
      if sh.director ≠ 0 then s.callRoutine d l sh p
      else if pktKind v ≠ 0 then s.updDie d done
      else match nextBlock l sh v with
        | none => s.updDie d done
        | some lin =>
          let home := s.homeCore d l sh lin
          let s := if s.wrongCarve home sh.carve then (s.requestCarve home sh.carve).1 else s
          match s.placeNew d l sh lin (pktAttempt v) with
          | some r => r.1
          | none => s

/-- A restored block of a die that waits for a core, in the order of the save (R343). -/
def State.restoring (s : State) (d : Nat) : Option Block :=
  s.blocks.find? fun b => b.state == .placing && b.die == d && s.ctxRuns b.ctx &&
    (s.findCore b.die (s.homePos b.die b.ctx b.launch b.sheet b.lin) b.sheet (b.body.crews.filter (·.live)).length b.tileUnits).isSome

/-- BLOCK_ADMIT (R264, R268, R317): a restored block that a core of the die admits is placed, or the die's stock director acts:
it takes its next packet, or serves the one it has. -/
def execBlockAdmit (die : Nat) (s : State) : Host.Outcome State Fault Refusal :=
  match s.dies[die]? with
  | none => .next s
  | some k =>
    if s.dieFenced die then .next s
    else match s.restoring die with
      | some b => .next (s.admitSaved b)
      | none =>
        if k.called.isSome then .next s
        else match k.serving with
          | some p => .next (s.serve die p)
          | none =>
            match k.mailbox.find? s.takeable with
            | none => .next s
            | some p => .next (s.takeStock die p)

/-- 1 ms (R318): the die's counter counts at the clock in force, and a bound given in seconds keeps its value (R391), so it is counted
in cycles of the hub's 1 GHz counter. -/
def directorLimit : Nat := 1000000

/-- DIRECTOR_WATCHDOG (R318, R326, R346): a routine that has not returned within 1 ms is abandoned and logged. -/
def execDirectorWatchdog (die : Nat) (s : State) : Host.Outcome State Fault Refusal :=
  match s.dies[die]?, s.blocks.find? fun b => b.isDirector && b.die == die with
  | some k, some b =>
    match k.called with
    | some t =>
      if s.hubCycle < t + directorLimit then .next s
      else .next ((s.logEvent b.ctx { cls := 0x0D, detail := 1, core := b.core, attempt := b.attempt, tag := b.launch }).idleDirector die)
    | none => .next s
  | _, _ => .next s

/-! ### Director instructions (R319 to R322) -/

/-- The frame of an instruction that only a director may issue. -/
def directorBody (body : Ctx → BodyRes) (x : Ctx) : BodyRes :=
  if x.b.isDirector then body x else refuseAll (fun _ => directorF) x

/-- The first packet of a mailbox that a director's crew may take: its context runs, or its launch has ended. -/
def State.nextPacket (s : State) (d : Nat) : Option (List Byte) :=
  (s.dies[d]?).bind fun k => k.mailbox.find? fun p => match s.pktLaunch (fromBytes p) with | some l => s.ctxRuns l.ctx | none => true

/-- A packet taken by the crew of a director: it lies in scratchpad, and the crew takes its context (R320). -/
def State.takePacket (s : State) (b : Block) (sa : Nat) (p : List Byte) : State :=
  let v := fromBytes p
  let s := (s.updDie b.die fun k => { k with mailbox := k.mailbox.erase p }).scratchWrite b.uid sa p
  match s.pktLaunch v with
  | none => s
  | some l => s.updBlock b.uid fun b => b.forLaunch l (pktAttempt v)

/-- `mboxr` (R320). -/
def execMboxr (w : Fields) (s : State) := runLong 0xEC none w s (lowRead [0]) <| directorBody fun x =>
  if x.act.isEmpty then .done x.s0 []
  else
    let sa := x.a x.low 32
    match x.checkScratch sa 64 64 with
    | some f => .done x.s0 [(x.low, .fault f)]
    | none =>
      match x.s0.nextPacket x.b.die with
      | none => .done x.s0 (x.act.map fun l => (l, .wait (.mailbox sa x.w)))
      | some p =>
        let s := x.s0.takePacket x.b sa p
        .done (s.updCrew x.uid x.ci fun c => x.act.foldl (fun c l => wrvOf c x.clk l x.w x.w.d 32 (s.mailboxLen x.b.die) false) c) []

/-- The lanes of a director that wait for a packet, at the end of a cycle: those of the first wait take it together. -/
def State.settleMailbox (s : State) (uid : Nat) : State :=
  match s.block? uid with
  | none => s
  | some b =>
    match b.body.crews with
    | [c] =>
      match c.threads.findSome? fun t => match t.st with | .waiting (.mailbox sa w) _ => some (t.pc, sa, w) | _ => none with
      | none => s
      | some (pc, sa, w) =>
        match s.nextPacket b.die with
        | none => s
        | some p =>
          let clk := s.clockOf b.core
          let s := s.takePacket b sa p
          let lanes := (c.threads.zipIdx.filter fun t => t.1.pc == pc && t.1.waitsOn == some (.mailbox sa w)).map (·.2)
          s.updCrew uid 0 fun c => lanes.foldl (fun c l =>
            (wrvOf c clk l w w.d 32 (s.mailboxLen b.die) false).updThread l Thread.complete) c
    | _ => s

/-- The sheets that the lanes of a `spawn` read again (R310), each lane's where its packet is of a launch; whether all are at hand. -/
def spawnSheets (x : Ctx) : State × List (Nat × Sheet) × Bool :=
  x.act.foldl (fun (a : State × List (Nat × Sheet) × Bool) l =>
    let v := fromBytes (x.s0.scratchRead x.uid (x.a l 32) 64)
    match a.1.pktLaunch v with
    | none => a
    | some k => match a.1.sheetAgain k v with
      | (s, none) => (s, a.2.1, false)
      | (s, some sh) => (s, a.2.1 ++ [(l, sh)], a.2.2)) (x.s0, [], true)

/-- One lane of `spawn` with the sheet that it has read: a fault, or the placement; none where no core admits the block (R321). -/
def spawnLane (x : Ctx) (s : State) (sheets : List (Nat × Sheet)) (l : Nat) : Option (State × LaneRes) :=
  let sa := x.a l 32
  let lin := x.bv l 32
  match x.checkScratch sa 64 64 with
  | some f => some (s, .fault f)
  | none =>
    let v := fromBytes (s.scratchRead x.uid sa 64)
    match s.pktLaunch v with
    | none => some (s, .fault (protF 0x0A 0))
    | some k =>
      let sh := match sheets.find? fun p => p.1 == l with | some p => p.2 | none => k.sheet
      if lin ≥ sh.nblk then some (s, .fault (protF 0x01 0))
      else if k.spawned.contains lin then some (s, .fault (protF 0x0A 0))
      else if !s.ctxRuns k.ctx then none
      else (s.placeNew x.b.die k sh lin (pktAttempt v)).map fun r =>
        (r.1.updCrew x.uid x.ci fun c => wrvOf c x.clk l x.w x.w.d 32 r.2 false, .next)

/-- `spawn` (R321): not ready to issue until every named block can be placed. -/
def execSpawn (w : Fields) (s : State) := runLong 0xED none w s readsAB <| directorBody fun x =>
  let q := spawnSheets x
  if !q.2.2 then .hold q.1
  else
    let r := x.act.foldl (fun (a : Option (State × List (Nat × LaneRes))) l => match a with
      | none => none
      | some (s, rs) => (spawnLane x s q.2.1 l).map fun q => (q.1, rs ++ [(l, q.2)])) (some (q.1, []))
    match r with
    | none => .hold q.1
    | some (s, rs) => .done s rs

/-- One lane of `fwd` (R322): the packet crosses the spoke links of the two dies (R6), and waits until they are UP (R377). -/
def fwdLane (x : Ctx) (s : State) (l : Nat) : State × LaneRes :=
  let sa := x.a l 32
  let d := x.bv l 32
  match x.checkScratch sa 64 64 with
  | some f => (s, .fault f)
  | none =>
    if d > 3 then (s, .fault (illF 0x06))
    else
      let ok := decide (s.mailboxLen d < 64) && !s.dieFenced d
      let down := s.downSpokes.filter fun e => d != x.b.die && (e == d || e == x.b.die)
      if ok && !down.isEmpty then (s.wakeSpokes down, .again (.news s.news)) else
      let s := if ok then s.updDie d fun k => { k with mailbox := k.mailbox ++ [s.scratchRead x.uid sa 64] } else s
      (s.updThread x.uid x.ci l fun t => t.setPred (x.mod % 8) ok, .next)

def execFwd (w : Fields) (s : State) := runLong 0xEE none w s readsAB (directorBody (laneBody fwdLane))

end Sys2Proof.Machine
end

