-- ==== Sys2Proof/Machine/Context.lean ====
section
/-! DEFINITION. The context (R324 to R346): its commands and states, pre-emption and reset, the trap instructions, the timer
and host calls. -/

namespace Sys2Proof.Machine
open Sys2Proof

/-! ### The trap instructions (R334 to R336) -/

/-- The fault of `trap` and `bkpt` in each active lane. -/
def codeFault (cls : Nat) (x : Ctx) (l : Nat) : LaneRes := .fault ⟨cls, x.a l 32 % 256, 0, x.a l 32, 0⟩

def execTrap (w : Fields) (s : State) := runLong 0xF0 (some 0) w s readsA (moveBody (codeFault 0x11))
/-- `trap.abort`: the fault is unrecoverable at once. -/
def execTrapAbort (w : Fields) (s : State) := runLong 0xF0 (some 1) w s readsA (moveBody (codeFault 0x11)) (fatal := true)

/-- `bkpt` (R327): with extended debug access a debug agent may take it before its delivery. What it then does is not said: the crew is
halted, and goes on behind the instruction when the agent lets it (R394; DESIGN CHOICE, log entry 96). -/
def bkptBody (x : Ctx) : BodyRes :=
  if !x.s0.mgmt.debug then moveBody (codeFault 0x12) x
  else
    let (k, s) := x.s0.choose 1
    if k = 0 then moveBody (codeFault 0x12) { x with s0 := s }
    else .done { s with mgmt := { s.mgmt with halted := s.mgmt.halted ++ [(x.uid, x.ci)] } } (x.act.map fun l => (l, .next))

def execBkpt (w : Fields) (s : State) := runLong 0xF6 none w s readsA bkptBody

/-- One lane of `rett` (R335): it returns to s.epc; a sweep goes on at the iteration that faulted (R65). -/
def rettLane (x : Ctx) (s : State) (l : Nat) : State × LaneRes :=
  let t := x.t l
  if !t.hmode then (s, .fault (protF 0x09 0))
  else if t.epc.toNat % 4 ≠ 0 then (s, .fault (alignF t.epc.toNat 2))
  else (s.updThread x.uid x.ci l fun t => { t with hmode := false, resumeI := 0 }, .resume t.epc.toNat t.resumeI)

/-- `rett` (R335): the crew returns from a handler, and every lane's latches are lost (R59). -/
def execRett (w : Fields) (s : State) := runLong 0xF1 none w s [] fun x =>
  match laneBody rettLane x with
  | .hold s => .hold s
  | .done s rs =>
    if rs.any fun r => match r.2 with | .resume _ _ => true | _ => false then
      .done (s.updCrew x.uid x.ci fun c => { c with threads := c.threads.map Thread.loseLatches }) rs
    else .done s rs

def execSysrd (w : Fields) (s : State) := runLong 0xF4 none w s [] (regBody getEff)

/-- Bits of s.fstat or s.fmask cleared by the ones written (R26, R28, R330): a bit set in the same cycle stays set. -/
def Crew.w1c (c : Crew) (n v : Nat) : Crew :=
  let m := ~~~ (BitVec.ofNat 32 v)
  if n = 0x11 then { c with fstat := (c.fstat &&& m) ||| c.cycFstat } else { c with fmask := (c.fmask &&& m) ||| c.cycFmask }

/-- One lane of `syswr` (R336). -/
def syswrLane (x : Ctx) (s : State) (l : Nat) : State × LaneRes :=
  let n := x.w.d.toNat
  if n ≠ 0x41 then (s.updCrew x.uid x.ci fun c => c.w1c n (x.a l 32), .next)
  else if (x.t l).hmode then (s.updThread x.uid x.ci l fun t => { t with epc := BitVec.ofNat 64 (x.a l 64), resumeI := 0 }, .next)
  else (s, .fault (illF 0x06))

def execSyswr (w : Fields) (s : State) := runLong 0xF5 none w s readsA (laneBody syswrLane)

/-! ### The timer (R337, R338) -/

/-- `tmrset` (R337). -/
def execTmrset (w : Fields) (s : State) := runLong 0xF3 none w s (lowRead [0]) <| crewBody fun x c =>
  let a := x.a x.low 64
  let sum := (x.clk + a) % 2 ^ 64
  { c with tmr := BitVec.ofNat 64 (if x.fn = 0 then a else if sum = 0 then 1 else sum) }

/-- The comparator at or below s.clock disarms the timer; lanes that faulted in this cycle take TIMER after they resume (R338). -/
def Crew.fireTimer (c : Crew) (clk : Nat) : Crew :=
  if c.tmr ≠ 0 ∧ c.tmr.toNat ≤ clk then
    let late := if c.cyc = clk + 1 then c.cycFaults.eraseDups.map fun l => (l, c.tmr.toNat) else []
    { c with tmr := 0, fired := some c.tmr.toNat, owed := c.owed ++ late }
  else c

/-- The issue opportunity of a timer that has fired: with a READY lane, and none in handler mode, every READY lane is to take TIMER
(R332, R338). -/
def Crew.oweTimer (c : Crew) : Crew :=
  let ready := c.threads.zipIdx.filter fun t => t.1.st == .ready
  match c.fired with
  | some v =>
    if ready.isEmpty || ready.any (fun t => t.1.hmode) then c
    else { c with fired := none, owed := c.owed ++ (ready.map fun t => (t.2, v)).filter fun o => !c.owed.contains o }
  | none => c

/-- Whether a thread takes a TIMER now: READY, not in handler mode, and no instruction of it has still to complete. -/
def Thread.takesTimer (t : Thread) : Bool := t.st == .ready && !t.hmode && t.reqs.isEmpty && t.again.isNone

/-- The lanes that take a TIMER now: lane, comparator and PC. None does while a READY lane of the crew is in handler mode (R332), and
a lane that owes several takes the oldest. -/
def Crew.timerLanes (c : Crew) : List (Nat × Nat × Nat) :=
  if c.threads.any fun t => t.st == .ready && t.hmode then []
  else c.threads.zipIdx.filterMap fun t => match c.owed.find? fun o => o.1 == t.2 with
    | some o => if t.1.takesTimer then some (o.1, o.2, t.1.pc.toNat) else none
    | none => none

/-- CREW_TIMER_FIRE (R332, R338): the comparator is reached, and the READY lanes take TIMER before they issue, each as soon as its
instruction before has completed (DEDUCED, log entry 80). -/
def execCrewTimerFire (uid crew : Nat) (s : State) : Host.Outcome State Fault Refusal :=
  match s.block? uid with
  | none => .next s
  | some b =>
    let s := s.updCrew uid crew fun c => (c.fireTimer (s.clockOf b.core)).oweTimer
    match s.crew? uid crew with
    | none => .next s
    | some c =>
      let ls := c.timerLanes
      let s := if ls.isEmpty then s else s.updCrew uid crew fun c => { c with owed := c.owed.filter fun o => !ls.any fun l => (l.1, l.2.1) == o }
      .next (((ls.map (·.2)).eraseDups).foldl (fun (s : State) k =>
        s.takeFaults uid crew k.2 k.2 ((ls.filter fun l => l.2 == k).map fun l => (l.1, ⟨0x10, 0, 0, k.1, 0⟩)) true false) s)

/-! ### Host calls (R339, R340) -/

/-- The address of an entry of the host-call ring. -/
def Context.callAt (c : Context) (i : Nat) : Nat := c.hbase + 256 + 1024 * (i % 2 ^ c.log2h)

/-- Whether the host-call ring has room. -/
def Context.callRoom (c : Context) : Bool := decide (c.hcTail - c.hcHead < 2 ^ c.log2h)

/-- The 576 bytes of an entry (R339): the requests of the calling lanes, the slots of the others 0. -/
def callBytes (b : Block) (ci pc num : Nat) (lanes : List (Nat × Nat)) : List Byte :=
  toBytes num 4 ++ toBytes 0 4 ++ toBytes (laneMask (lanes.map (·.1))) 4 ++ toBytes (b.core + ci * 2 ^ 8 + b.ctx * 2 ^ 14) 4 ++
  toBytes pc 8 ++ toBytes b.lin 4 ++ toBytes 0 36 ++
  (List.range 32).flatMap fun l => toBytes (match lanes.find? fun p => p.1 == l with | some p => p.2 | none => 0) 16

/-- An entry posted for some lanes with their requests: its number. -/
def State.postCall (s : State) (b : Block) (ci pc : Nat) (lanes : List (Nat × Nat)) : State × Nat :=
  match s.ctxs[b.ctx]? with
  | none => (s, 0)
  | some c =>
    let i := c.hcTail
    let s := s.agentWrite b.ctx (c.callAt i) (callBytes b ci pc i lanes)
    let s := s.agentWrite b.ctx c.hbase (toBytes (i + 1) 4)
    ({ s.updCtx b.ctx fun c => { c with hcTail := i + 1 } with calls := s.calls ++ [⟨b.ctx, i, false, false⟩] }, i)

/-- The group, request, destination and length of a lane that waits for room in the host-call ring. -/
def Thread.callWait (t : Thread) : Option (Nat × Nat × Nat × Nat) :=
  match t.st with | .parked (.hcallPost g r d n) => some (g, r, d, n) | _ => none

/-- The groups of a context that wait for room, on resident blocks: group, block and crew. -/
def State.callWaits (s : State) (ctx : Nat) : List (Nat × Nat × Nat) :=
  (s.blocks.filter fun b => b.ctx == ctx && b.state == .resident).flatMap fun b =>
    b.body.crews.zipIdx.flatMap fun c => (c.1.threads.filterMap fun t => t.callWait.map fun w => (w.1, b.uid, c.2)).eraseDups

/-- `hcall` (R340): the entry is posted, or waits for room, and the lanes park. -/
def execHcall (w : Fields) (s : State) := runLong 0xF2 none w s readsA fun x =>
  match x.s0.ctxs[x.b.ctx]? with
  | none => .done x.s0 []
  | some c =>
    if x.act.isEmpty then .done x.s0 []
    else if x.b.inside then refuseAll (fun _ => protF 0x06 0) x
    else if c.hbase = 0 then refuseAll (fun _ => protF 0x09 0) x
    else if !(x.s0.publishDown x.b.core true false).isEmpty then .hold (x.s0.wakeSpokes (x.s0.publishDown x.b.core true false))
    else
      let s := (x.s0.flushDailies x.uid x.ci).fenceAt x.b.core 2 5
      let d := x.w.d.toNat
      if c.callRoom && (s.callWaits x.b.ctx).isEmpty then
        let r := s.postCall x.b x.ci x.pc (x.act.map fun l => (l, x.a l 128))
        .done r.1 (x.act.map fun l => (l, .park (.hcall r.2 d x.len)))
      else
        let (g, s) := s.fresh
        .done s (x.act.map fun l => (l, .park (.hcallPost g (x.a l 128) d x.len)))

/-- HOST_CALL_POST (R340): the group that has waited longest posts its entry when one is free. -/
def execHostCallPost (ctx : Nat) (s : State) : Host.Outcome State Fault Refusal :=
  match s.ctxs[ctx]?, leastBy (fun (g : Nat × Nat × Nat) => g.1) (s.callWaits ctx) with
  | some c, some (g, uid, ci) =>
    if !c.callRoom then .next s
    else match s.block? uid, s.crew? uid ci with
      | some b, some k =>
        let ls := k.threads.zipIdx.filterMap fun t => match t.1.callWait with
          | some (h, r, d, n) => if h = g then some (t.2, r, (d, n), t.1.pc.toNat) else none
          | none => none
        let pc := match ls with | l :: _ => l.2.2.2 | [] => 0
        let r := s.postCall b ci pc (ls.map fun l => (l.1, l.2.1))
        .next (ls.foldl (fun (s : State) l => s.updThread uid ci l.1 fun t => { t with st := .parked (.hcall r.2 l.2.2.1.1 l.2.2.1.2) }) r.1)
      | _, _ => .next s
  | _, _ => .next s

/-- The lanes that wait for an entry's reply: block, crew, lane, destination and length. -/
def State.callers (s : State) (ctx num : Nat) : List (Nat × Nat × Nat × Nat × Nat) :=
  (s.blocks.filter fun b => b.ctx == ctx).flatMap fun b => b.body.crews.zipIdx.flatMap fun c => c.1.threads.zipIdx.filterMap fun t =>
    match t.1.st with | .parked (.hcall e d n) => if e = num then some (b.uid, c.2, t.2, d, n) else none | _ => none

/-- A reply delivered to one lane: its 16 bytes in D, and the lane is READY behind the `hcall`. -/
def State.giveReply (s : State) (p : Nat × Nat × Nat × Nat × Nat) (v : Nat) : State :=
  match s.block? p.1 with
  | none => s
  | some b => s.updCrew p.1 p.2.1 fun c =>
      (writeValue c (s.clockOf b.core) p.2.2.1 (BitVec.ofNat 9 p.2.2.2.1) 128 v).updThread p.2.2.1 fun t =>
        { t.loseLatches with st := .ready, pc := t.pc + BitVec.ofNat 64 p.2.2.2.2 }

/-- HEAD advanced over the answered entries in order (R339). -/
def State.passCalls (s : State) (ctx : Nat) : State :=
  let done := (s.calls.filter fun e => e.ctx == ctx).takeWhile (·.answered)
  if done.isEmpty then s
  else
    let s := { s with calls := s.calls.filter fun e => !done.contains e }
    let s := s.updCtx ctx fun c => { c with hcHead := c.hcHead + done.length }
    match s.ctxs[ctx]? with
    | none => s
    | some c => s.agentWrite ctx (c.hbase + 128) (toBytes c.hcHead 4)

/-- The reply slots of an entry read for the lanes that wait for it (R339). -/
def State.readReplies (s : State) (ctx at_ : Nat) (who : List (Nat × Nat × Nat × Nat × Nat)) : State × Got (List Nat) :=
  who.foldl (fun (a : State × Got (List Nat)) p => Got.bind a fun s vs =>
    Got.bind (s.hubRead (ctxReader ctx) ctx (at_ + 64 + 16 * p.2.2.1) 16) fun s bs => (s, .got (vs ++ [fromBytes bs]))) (s, .got [])

/-- The reply of an entry, if the host has completed it and its callers are not saved (R339, R340): it is read with an acquire at scope
sys, once its lines are at hand. -/
def State.answerCall (s : State) (ctx num : Nat) : State :=
  match s.ctxs[ctx]?, s.calls.find? fun e => e.ctx == ctx && e.num == num && !e.answered with
  | some c, some _ =>
    let at_ := c.callAt num
    let who := s.callers ctx num
    let away := who.any fun p => match s.block? p.1 with | some b => b.state != .resident | none => false
    match Got.bind (s.hubAcquire (ctxReader ctx) ctx (at_ + 4) 4 true none) fun s v =>
        if away || v != 1 then (s, .got none) else Got.bind (s.readReplies ctx at_ who) fun s vs => (s, .got (some vs)) with
    | (s, .wait) => s
    | (s, .bad _) => s.endBring hubDie (ctxReader ctx)
    | (s, .got none) => s.endBring hubDie (ctxReader ctx)
    | (s, .got (some vs)) =>
        let s := s.endBring hubDie (ctxReader ctx)
        let cores := (who.filterMap fun p => (s.block? p.1).map (·.core)).eraseDups
        let s := (who.zip vs).foldl (fun (s : State) p => s.giveReply p.1 p.2) s
        let s := cores.foldl (fun (s : State) k => s.acquireL1 k) s
        let same : HcEntry → Bool := fun e => e.ctx == ctx && e.num == num
        ({ s with calls := mapWhere same (fun e => { e with answered := true }) s.calls } : State).passCalls ctx
  | _, _ => s

/-- Whether the host-call ring lies in non-coherent host memory. -/
def State.callsApart (s : State) (ctx : Nat) : Bool :=
  match s.ctxs[ctx]? with
  | none => false
  | some c => match s.agentXlate ctx c.hbase .read false false with | .ok p => p.2.type == 4 | .error _ => false

/-- HOST_CALL_REPLY (R339): the hub sees STATUS = 1 and delivers the replies; in non-coherent host memory, once CHDOOR has
named the entry. -/
def execHostCallReply (ctx num : Nat) (s : State) : Host.Outcome State Fault Refusal :=
  let rung := s.calls.any fun e => e.ctx == ctx && e.num == num && e.rung
  .next (if s.callsApart ctx && !rung then s else s.answerCall ctx num)

/-- CHDOOR (R339): the host names an entry whose STATUS it has made visible; a dead host's doorbells are dropped (R380). -/
def execChdoor (ctx num : Nat) (s : State) : Host.Outcome State Fault Refusal :=
  if !s.awake || s.agentDead hostAgent then .next s else
  let same : HcEntry → Bool := fun e => e.ctx == ctx && e.num == num
  .next (({ s with calls := mapWhere same (fun e => { e with rung := true }) s.calls } : State).answerCall ctx num)

/-! ### Commands (R324, R325) -/

/-- The effective deadlines in hub cycles. -/
def Context.drainLimit (c : Context) : Nat := 1000 * (if c.drainus = 0 then 2000 else c.drainus)
def Context.resetLimit (c : Context) : Nat := 1000 * (if c.resetus = 0 then 20000 else c.resetus)

/-- Whether the fields of a slot are within their limits (R324, R352). -/
def Context.fieldsOk (c : Context) : Bool :=
  c.tvec % 4 == 0 && c.sbase % 65536 == 0 && c.ssize % 65536 == 0 && c.rslot % 4096 == 0 && decide (c.dcount ≤ 65536) &&
  (c.lbase == 0 || (c.lbase % 64 == 0 && decide (4 ≤ c.log2n) && decide (c.log2n ≤ 16))) &&
  (c.hbase == 0 || (c.hbase % 256 == 0 && decide (2 ≤ c.log2h) && decide (c.log2h ≤ 10))) &&
  (c.pfbase == 0 || (c.pfbase % 256 == 0 && decide (2 ≤ c.log2p) && decide (c.log2p ≤ 10))) &&
  c.xbase % 32 == 0 && decide (c.nexp ≤ 2 ^ 24) && decide (c.dbase + c.dcount ≤ 65536) &&
  decide (c.drainLimit < c.resetLimit) && decide (6144 * c.rslot ≤ c.ssize)

/-- Whether a slot's dailies overlap another allocated context's. -/
def State.dailiesClash (s : State) (ctx : Nat) (c : Context) : Bool :=
  s.ctxs.zipIdx.any fun p => p.2 != ctx && p.1.state != .free && rangesMeet p.1.dbase p.1.dcount c.dbase c.dcount &&
    p.1.dcount != 0 && c.dcount != 0

/-- ALLOC (R324, R325). The rings begin at entry 0. -/
def execAlloc (ctx : Nat) (s : State) : Host.Outcome State Fault Refusal :=
  if !s.awake then .next s else
  match s.ctxs[ctx]? with
  | none => .next s
  | some c =>
    if c.state ≠ .free then .next s
    else if !c.fieldsOk || s.dailiesClash ctx c then .next (s.updCtx ctx fun c => { c with lastcls := 0x05 })
    else
      let s : State := { s with calls := s.calls.filter fun e => e.ctx != ctx, faults := s.faults.filter fun e => e.ctx != ctx }
      .next (s.updCtx ctx fun c => { c with state := .ready, pkgs := [], logcnt := 0, hcTail := 0, hcHead := 0, pfTail := 0, pfHead := 0 })

/-- RUN (R325, R343): a READY context starts; the saved blocks of a SAVED one wait for placement again. Each does on the die that it was
on, or on the next live one: R264 leaves the die open (DESIGN CHOICE, log entry 93). -/
def execRun (ctx : Nat) (s : State) : Host.Outcome State Fault Refusal :=
  if !s.awake then .next s else
  match s.ctxs[ctx]? with
  | none => .next s
  | some c =>
    if c.state ≠ .ready ∧ c.state ≠ .saved then .next s
    else
      let blocks := mapWhere (fun (b : Block) => b.ctx == ctx && b.state == .saved)
        (fun b => { b with state := .placing, die := s.liveDie b.die }) s.blocks
      .next (({ s with blocks } : State).updCtx ctx fun c =>
        { c with state := .running, drainEnd := none, resetEnd := none, saving := false }).checkQueues

/-- PREEMPT (R325, R341): both deadlines count from the command. A block that a restore has not placed stays PLACING (R264). -/
def execPreempt (ctx : Nat) (s : State) : Host.Outcome State Fault Refusal :=
  if !s.awake then .next s else
  match s.ctxs[ctx]? with
  | none => .next s
  | some c =>
    if c.state ≠ .running then .next s
    else
      .next (s.updCtx ctx fun c =>
        { c with state := .draining, saving := false, drainEnd := some (s.hubCycle + c.drainLimit),
                 resetEnd := some (s.hubCycle + c.resetLimit) }).checkQueues

/-- A context SAVED. -/
def State.becomeSaved (s : State) (ctx : Nat) : State :=
  s.updCtx ctx fun c => { c with state := .saved, drainEnd := none, resetEnd := none, saving := false }

/-- The bytes of a tile's image (R203). -/
def Tile.imageBytes (t : Tile) : Nat := if t.units = 0 then 0 else 64 + roundUp (8 * t.m * t.n + (t.m * t.n + 7) / 8) 64

/-- The bytes of a block's saved record (R342). -/
def Block.recordBytes (b : Block) : Nat := b.sheet.saveBytes + (b.tiles.map Tile.imageBytes).sum

/-- The bytes that the saved blocks of a context need behind the region area (R342). -/
def State.saveNeed (s : State) (ctx : Nat) (c : Context) : Nat :=
  6144 * c.rslot + ((s.blocks.filter fun b => b.ctx == ctx && !b.isDirector).map Block.recordBytes).sum

/-- The save header written by a context that drains of itself: free bytes behind the records, where the area has room (DESIGN CHOICE,
log entry 22). -/
def State.writeHeader (s : State) (ctx : Nat) (c : Context) : State :=
  if s.saveNeed ctx c + 64 ≤ c.ssize then s.writeFree ctx (c.sbase + s.saveNeed ctx c) 64 else s

/-- DRAINED (R325): no block of the context is resident; nothing is written but the save header. -/
def execDrained (ctx : Nat) (s : State) : Host.Outcome State Fault Refusal :=
  match s.ctxs[ctx]? with
  | none => .next s
  | some c =>
    if c.state = .draining ∧ !c.saving ∧ !s.blocks.any (fun b => b.ctx == ctx && b.onCore && !b.isDirector) then
      .next ((s.writeHeader ctx c).becomeSaved ctx)
    else .next s

/-- DRAIN_DEADLINE (R341): blocks that are IN are discarded, and the save step begins. -/
def execDrainDeadline (ctx : Nat) (s : State) : Host.Outcome State Fault Refusal :=
  match s.ctxs[ctx]? with
  | none => .next s
  | some c =>
    let due := match c.drainEnd with | some t => decide (t ≤ s.hubCycle) | none => false
    if c.state ≠ .draining ∨ c.saving ∨ !due then .next s
    else
      let s := (s.blocks.filter fun b => b.ctx == ctx && b.state == .resident && b.inside).foldl (fun (s : State) b => s.discardBlock b.uid) s
      .next (s.updCtx ctx fun c => { c with saving := true })

/-- The records of a context's blocks written to its save area, one behind the other (R341, R342): those that are saved now, or were
discarded at the drain deadline. The place of a block that waits for a core stays. -/
def State.writeRecords (s : State) (ctx : Nat) (c : Context) : State :=
  ((s.blocks.filter fun b => b.ctx == ctx && !b.isDirector).foldl (fun (a : State × Nat) b =>
    (if b.state = .placing then a.1 else a.1.writeFree ctx (c.sbase + a.2) b.recordBytes, a.2 + b.recordBytes)) (s, 6144 * c.rslot)).1

/-- Whether the save step of a context has only to publish and to write: nothing issued, copied, retiring or stepping is left (R341). -/
def State.saveReady (s : State) (ctx : Nat) : Bool :=
  let mine := s.blocks.filter fun b => b.ctx == ctx && b.onCore && !b.isDirector
  mine.all (fun b => b.state == .resident && b.late.isEmpty && !b.unfinished && !(s.copies.any fun k => k.uid == b.uid) &&
    !(s.reqs.any fun r => match r.owner with | some o => o.1 == b.uid | none => false) &&
    (match s.cores[b.core]?.bind (·.array) with | some a => a.uid != b.uid | none => true))

/-- Whether a core has something to publish. -/
def State.unpublished (s : State) (core : Nat) : Bool :=
  (s.l1.any fun l => l.core == core && l.dirty && l.priv.isNone) || s.recs.any fun r => r.core == core && r.home.isNone && !r.published

/-- A block saved (R341, R343): what a restore takes of it. -/
def State.saveBlock (s : State) (b : Block) : State :=
  let s := (List.range b.body.crews.length).foldl (fun (s : State) i => s.flushDailies b.uid i) s
  let clk := s.clockOf b.core
  let gone : CoreSt → CoreSt := fun c =>
    { c with array := c.array.filter fun a => a.uid != b.uid, image := c.image.filter fun i => i.uid != b.uid }
  let s : State :=
    { s with cores := s.cores.map gone
             retakes := mapWhere (fun r => r.uid == b.uid) (fun r => { r with res := none }) s.retakes }
  let again : TileCmd → TileCmd := fun k => match k.hold with
    | some (.entry _ d a t) => { k with hold := some (.post d a t) }
    | _ => k
  (s.updBlock b.uid fun b => { b with state := .saved, wantsArray := false, cmds := b.cmds.map again,
                                      body := { b.body with crews := b.body.crews.map fun c => c.toSave clk } }).tileKick b.core

/-- SAVE_STEP_COMPLETE (R325, R341): every epoch of the cores that ran the blocks is published, once the links that this crosses are UP;
then every L1 line of the context is evicted (R213) and every block saved. With the area too small, the step stops before it writes
(R342). -/
def execSaveStepComplete (ctx : Nat) (s : State) : Host.Outcome State Fault Refusal :=
  match s.ctxs[ctx]? with
  | none => .next s
  | some c =>
    if c.state ≠ .draining ∨ !c.saving ∨ !s.saveReady ctx then .next s
    else
      let mine := s.blocks.filter fun b => b.ctx == ctx && b.onCore && !b.isDirector
      let cores := ((mine.map (·.core)) ++ (s.l1.filter fun l => l.ctx == ctx && l.dirty).map (·.core)).eraseDups
      let down := (cores.flatMap fun k => s.publishDown k true false).eraseDups
      if !down.isEmpty then .next (s.wakeSpokes down)
      else if c.ssize < s.saveNeed ctx c then .next ((cores.filter s.unpublished).foldl State.publishAll s)
      else
      let s := cores.foldl State.publishAll s
      let s := (s.l1.filter fun l => l.ctx == ctx).foldl State.evictL1 s
      .next (((mine.foldl State.saveBlock s).writeRecords ctx c).becomeSaved ctx)

/-! ### Reset (R325, R345) -/

/-- The five steps of a reset. Experts become ABSENT (R359), staged reductions go (R262). -/
def State.resetContext (s : State) (ctx : Nat) (byDeadline : Bool) : State :=
  let s := s.updCtx ctx fun c => { c with state := .reset, byDeadline, saving := false, drainEnd := none, resetEnd := none, pkgs := [] }
  let s := (s.blocks.filter fun b => b.ctx == ctx && !b.isDirector).foldl (fun (s : State) b => s.removeBlock b.uid) s
  let s := (s.blocks.filter fun b => b.ctx == ctx && b.isDirector).foldl (fun (s : State) b => s.idleDirector b.die) s
  let s : State :=
    { s with l1 := s.l1.filter fun l => !(l.ctx == ctx && l.dirty)
             intents := s.intents.filter fun i => i.ctx != ctx
             recs := s.recs.filter fun r => r.ctx != ctx
             stage := s.stage.filter fun t => t.ctx != ctx }
  let s := (s.queues.filter fun q => q.2.ctx == ctx).foldl (fun (s : State) q => s.unbindQueue q.1) s
  let s := (s.launches.filter fun l => l.ctx == ctx && l.open_).foldl (fun (s : State) l => s.endLaunch l.tag .cancelled) s
  let ids := (s.experts.filter fun e => e.ctx == ctx).map (·.id)
  let s : State := { s with experts := s.experts.filter fun e => e.ctx != ctx
                            reqs := s.reqs.filter fun r => !(r.op == expertOp && r.pc == ctx) }
  match s.ctxs[ctx]? with
  | none => s
  | some c => ids.foldl (fun (s : State) i => s.agentWrite ctx (c.expertRecord i + 14) (toBytes 0 2)) s

/-- RESET (R325, R345). -/
def execReset (ctx : Nat) (s : State) : Host.Outcome State Fault Refusal :=
  if !s.awake then .next s else
  match s.ctxs[ctx]? with
  | none => .next s
  | some c => .next (if c.state = .free ∨ c.state = .reset then s else s.resetContext ctx false)

/-- RESET_DEADLINE (R325, R346): the context is not SAVED in time. -/
def execResetDeadline (ctx : Nat) (s : State) : Host.Outcome State Fault Refusal :=
  match s.ctxs[ctx]? with
  | none => .next s
  | some c =>
    let due := match c.resetEnd with | some t => decide (t ≤ s.hubCycle) | none => false
    if c.state ≠ .draining ∨ !due then .next s
    else .next ((s.logEvent ctx { cls := 0x0D, detail := 2 }).resetContext ctx true)

/-- RESET_COMPLETE (R325). -/
def execResetComplete (ctx : Nat) (s : State) : Host.Outcome State Fault Refusal :=
  match s.ctxs[ctx]? with
  | none => .next s
  | some c => .next (if c.state = .reset then s.updCtx ctx fun c => { c with state := if c.byDeadline then .faulted else .free } else s)

end Sys2Proof.Machine
end

