-- ==== Sys2Proof/Machine/Crypto.lean ====
section
/-! DEFINITION. The functions that firmware and attestation rest on (R386, R389, R394): SHA-256, the LMS signature in the HSS form with
two levels, and ECDSA on the NIST P-256 curve. The rules name them and define none: they are taken from the standards of these names
(PRESUMED, log entry 97). -/

namespace Sys2Proof.Machine
open Sys2Proof

/-! ### SHA-256 -/

/-- A number as bytes, the most significant first. -/
def beBytes (v n : Nat) : List Byte := (toBytes v n).reverse
/-- Bytes as a number, the most significant first. -/
def beNat (bs : List Byte) : Nat := fromBytes bs.reverse

/-- The 64 round constants. -/
def shaK : List Nat :=
  [0x428A2F98, 0x71374491, 0xB5C0FBCF, 0xE9B5DBA5, 0x3956C25B, 0x59F111F1, 0x923F82A4, 0xAB1C5ED5] ++
  [0xD807AA98, 0x12835B01, 0x243185BE, 0x550C7DC3, 0x72BE5D74, 0x80DEB1FE, 0x9BDC06A7, 0xC19BF174] ++
  [0xE49B69C1, 0xEFBE4786, 0x0FC19DC6, 0x240CA1CC, 0x2DE92C6F, 0x4A7484AA, 0x5CB0A9DC, 0x76F988DA] ++
  [0x983E5152, 0xA831C66D, 0xB00327C8, 0xBF597FC7, 0xC6E00BF3, 0xD5A79147, 0x06CA6351, 0x14292967] ++
  [0x27B70A85, 0x2E1B2138, 0x4D2C6DFC, 0x53380D13, 0x650A7354, 0x766A0ABB, 0x81C2C92E, 0x92722C85] ++
  [0xA2BFE8A1, 0xA81A664B, 0xC24B8B70, 0xC76C51A3, 0xD192E819, 0xD6990624, 0xF40E3585, 0x106AA070] ++
  [0x19A4C116, 0x1E376C08, 0x2748774C, 0x34B0BCB5, 0x391C0CB3, 0x4ED8AA4A, 0x5B9CCA4F, 0x682E6FF3] ++
  [0x748F82EE, 0x78A5636F, 0x84C87814, 0x8CC70208, 0x90BEFFFA, 0xA4506CEB, 0xBEF9A3F7, 0xC67178F2]

/-- The initial hash value. -/
def shaInit : List Word := [0x6A09E667, 0xBB67AE85, 0x3C6EF372, 0xA54FF53A, 0x510E527F, 0x9B05688C, 0x1F83D9AB, 0x5BE0CD19].map (BitVec.ofNat 32)

/-- The exclusive or of three rotations of a word. -/
def shaMix (a b c : Nat) (x : Word) : Word := x.rotateRight a ^^^ x.rotateRight b ^^^ x.rotateRight c
/-- The same with a shift in place of the third rotation. -/
def shaMixS (a b c : Nat) (x : Word) : Word := x.rotateRight a ^^^ x.rotateRight b ^^^ x >>> c

/-- A message padded to whole blocks of 64 bytes, its length in bits at the end. -/
def shaPad (m : List Byte) : List Byte := m ++ [0x80] ++ List.replicate ((119 - m.length % 64) % 64) 0 ++ beBytes (8 * m.length) 8

/-- The 64 words of a block's schedule. -/
def shaSchedule (block : List Byte) : List Word :=
  (List.range 48).foldl (fun ws i =>
    let w (j : Nat) : Word := ws.getD (16 + i - j) 0
    ws ++ [shaMixS 17 19 10 (w 2) + w 7 + shaMixS 7 18 3 (w 15) + w 16])
    ((List.range 16).map fun i => BitVec.ofNat 32 (beNat ((block.drop (4 * i)).take 4)))

/-- One round on the eight working words. -/
def shaRound (v : List Word) (kw : Nat × Word) : List Word :=
  match v with
  | [a, b, c, d, e, f, g, h] =>
    let t1 := h + shaMix 6 11 25 e + ((e &&& f) ^^^ (~~~ e &&& g)) + BitVec.ofNat 32 kw.1 + kw.2
    let t2 := shaMix 2 13 22 a + ((a &&& b) ^^^ (a &&& c) ^^^ (b &&& c))
    [t1 + t2, a, b, c, d + t1, e, f, g]
  | v => v

/-- One block taken into the hash value. -/
def shaBlock (h : List Word) (block : List Byte) : List Word :=
  (h.zip ((shaK.zip (shaSchedule block)).foldl shaRound h)).map fun p => p.1 + p.2

/-- SHA-256: the 32 bytes of the digest. -/
def sha256 (m : List Byte) : List Byte :=
  let p := shaPad m
  ((List.range (p.length / 64)).foldl (fun h i => shaBlock h ((p.drop (64 * i)).take 64)) shaInit).flatMap fun w => beBytes w.toNat 4

/-- A digest as a number whose byte i is byte i of the digest (R3). -/
def digest (m : List Byte) : Nat := fromBytes (sha256 m)

/-! ### LMS and HSS -/

/-- The Winternitz parameter, the number of chains and the shift of the checksum of an LM-OTS type. -/
def otsParams (type : Nat) : Option (Nat × Nat × Nat) :=
  match type with
  | 1 => some (1, 265, 7)
  | 2 => some (2, 133, 6)
  | 3 => some (4, 67, 4)
  | 4 => some (8, 34, 0)
  | _ => none

/-- The height of an LMS type's tree. -/
def lmsHeight (type : Nat) : Option Nat := if 5 ≤ type ∧ type ≤ 9 then some (5 * (type - 4)) else none

/-- The i-th w-bit digit of bytes, the most significant first. -/
def digitOf (bs : List Byte) (i w : Nat) : Nat := (bs.getD (i * w / 8) 0).toNat / 2 ^ (8 - (w * (i % (8 / w)) + w)) % 2 ^ w

/-- The checksum of a digest's digits. -/
def otsChecksum (q : List Byte) (w shift : Nat) : Nat :=
  ((List.range (256 / w)).map fun i => 2 ^ w - 1 - digitOf q i w).sum * 2 ^ shift

/-- Bytes `i` to `i + n` of a string. -/
def slice (bs : List Byte) (i n : Nat) : List Byte := (bs.drop i).take n

/-- One chain of a one-time signature carried to its end. -/
def otsChain (id : List Byte) (q i a last : Nat) (y : List Byte) : List Byte :=
  (List.range (last - a)).foldl (fun t j => sha256 (id ++ beBytes q 4 ++ beBytes i 2 ++ beBytes (a + j) 1 ++ t)) y

/-- The public key that a one-time signature of a message leads to. -/
def otsCandidate (id : List Byte) (q : Nat) (params : Nat × Nat × Nat) (sig msg : List Byte) : List Byte :=
  let w := params.1
  let h := sha256 (id ++ beBytes q 4 ++ [0x81, 0x81] ++ slice sig 4 32 ++ msg)
  let digits := h ++ beBytes (otsChecksum h w params.2.2) 2
  let z := (List.range params.2.1).map fun i => otsChain id q i (digitOf digits i w) (2 ^ w - 1) (slice sig (36 + 32 * i) 32)
  sha256 (id ++ beBytes q 4 ++ [0x80, 0x80] ++ z.flatten)

/-- The root that a leaf and its path lead to. -/
def lmsRoot (id : List Byte) (path : List Byte) (leaf : Nat) (tmp : List Byte) (h : Nat) : List Byte :=
  ((List.range h).foldl (fun (t : Nat × List Byte) i =>
    let p := slice path (32 * i) 32
    (t.1 / 2, sha256 (id ++ beBytes (t.1 / 2) 4 ++ [0x83, 0x83] ++ (if t.1 % 2 = 1 then p ++ t.2 else t.2 ++ p)))) (leaf, tmp)).2

/-- The length of an LMS signature under a public key; none where the key's types are none. -/
def lmsSigLength (key : List Byte) : Option Nat :=
  match lmsHeight (beNat (slice key 0 4)), otsParams (beNat (slice key 4 4)) with
  | some h, some p => some (12 + 32 * (p.2.1 + 1) + 32 * h)
  | _, _ => none

/-- Whether an LMS signature of a message verifies under a public key: 4 bytes of type, 4 of one-time type, 16 of identifier, 32 of
root. -/
def lmsVerify (key sig msg : List Byte) : Bool :=
  match lmsHeight (beNat (slice key 0 4)), otsParams (beNat (slice key 4 4)) with
  | some h, some p =>
    let id := slice key 8 16
    let q := beNat (slice sig 0 4)
    let n := 4 + 32 * (p.2.1 + 1)
    let kc := otsCandidate id q p (slice sig 4 n) msg
    let leaf := 2 ^ h + q
    let tmp := sha256 (id ++ beBytes leaf 4 ++ [0x82, 0x82] ++ kc)
    key.length == 56 && sig.length == n + 8 + 32 * h && slice sig 4 4 == slice key 4 4 && slice sig (4 + n) 4 == slice key 0 4 &&
      decide (q < 2 ^ h) && lmsRoot id (sig.drop (8 + n)) leaf tmp h == slice key 24 32
  | _, _ => false

/-- Whether a signature in the HSS form with two levels verifies (R386): the first signs the second's public key, which signs the
message. -/
def hssVerify (key sig msg : List Byte) : Bool :=
  match lmsSigLength (key.drop 4) with
  | none => false
  | some n =>
    let next := slice sig (4 + n) 56
    beNat (slice key 0 4) == 2 && beNat (slice sig 0 4) == 1 && lmsVerify (key.drop 4) (slice sig 4 n) next &&
      lmsVerify next (sig.drop (60 + n)) msg

/-! ### ECDSA on P-256 -/

/-- The prime of the field, the order of the group and the base point. -/
def p256P : Nat := 0xFFFFFFFF00000001000000000000000000000000FFFFFFFFFFFFFFFFFFFFFFFF
def p256N : Nat := 0xFFFFFFFF00000000FFFFFFFFFFFFFFFFBCE6FAADA7179E84F3B9CAC2FC632551
def p256G : Nat × Nat :=
  (0x6B17D1F2E12C4247F8BCE6E563A440F277037D812DEB33A0F4A13945D898C296,
   0x4FE342E2FE1A7F9B8EE7EB4A7C0F9E162BCE33576B315ECECBB6406837BF51F5)

/-- A power modulo m, by the exponent's low bits. -/
def powMod (m b e : Nat) : Nat → Nat
  | 0 => 1
  | fuel + 1 => powMod m (b * b % m) (e / 2) fuel * (if e % 2 = 1 then b else 1) % m

/-- The inverse modulo a prime of 256 bits. -/
def invMod (m a : Nat) : Nat := powMod m a (m - 2) 256

/-- The sum of two points; none is the point at infinity. -/
def pointAdd (a b : Option (Nat × Nat)) : Option (Nat × Nat) :=
  match a, b with
  | none, b => b
  | a, none => a
  | some (x1, y1), some (x2, y2) =>
    let p := p256P
    if x1 = x2 ∧ (y1 + y2) % p = 0 then none
    else
      let l := if x1 = x2 then (3 * x1 * x1 + p - 3) * invMod p (2 * y1 % p) % p else (y2 + p - y1) * invMod p ((x2 + p - x1) % p) % p
      let x := (l * l + 2 * p - x1 - x2) % p
      some (x, (l * (x1 + p - x) + p - y1) % p)

/-- A multiple of a point, by the multiplier's low bits. -/
def pointMul (q : Option (Nat × Nat)) (k : Nat) : Nat → Option (Nat × Nat)
  | 0 => none
  | fuel + 1 =>
    let r := pointMul (pointAdd q q) (k / 2) fuel
    if k % 2 = 1 then pointAdd q r else r

/-- A multiple of the base point. -/
def baseMul (k : Nat) : Option (Nat × Nat) := pointMul (some p256G) k 256

/-- The device's private key (R389). -/
def privateKey : Nat := 1 + Config.privateKey % (p256N - 1)

/-- The signature (r, s) of a message with a secret; none where the scheme takes another secret. -/
def signWith (msg : List Byte) (secret : Nat) : Option (Nat × Nat) :=
  let k := 1 + secret % (p256N - 1)
  let r := match baseMul k with | some p => p.1 % p256N | none => 0
  let s := invMod p256N k * (beNat (sha256 msg) + r * privateKey) % p256N
  if r = 0 ∨ s = 0 then none else some (r, s)

/-- The 64 bytes of a signature of a message under the identity key: r, then s (R3, R389). -/
def signature (msg : List Byte) : List Byte :=
  match (List.range 64).findSome? fun i => signWith msg (Config.signSecret msg i) with
  | some p => toBytes p.1 32 ++ toBytes p.2 32
  | none => List.replicate 64 0

/-- The 64 bytes of the device's public key: x, then y. -/
def publicKey : List Byte :=
  match baseMul privateKey with
  | some p => toBytes p.1 32 ++ toBytes p.2 32
  | none => List.replicate 64 0

end Sys2Proof.Machine
end

