-- ==== Sys2Proof/Machine/Port.lean ====
section
/-! DEFINITION. The ports of the fabric and the spoke links (R369 to R373): flits, error correction, selective repeat, and
the messages that leave by a port. -/

namespace Sys2Proof.Machine
open Sys2Proof

/-! ### Error correction and check (R371) -/

/-- The bytes of an interleave, data symbols first. -/
def interleave (flit : List Byte) (k : Nat) : List Byte :=
  ((List.range 256).filter fun i => i % 3 == k).map fun i => flit.getD i 0

/-- The primitive polynomials of degree 8 over GF(2). -/
def fieldPolys : List Nat :=
  [0x11D, 0x12B, 0x12D, 0x14D, 0x15F, 0x163, 0x165, 0x169, 0x171, 0x187, 0x18D, 0x1A9, 0x1C3, 0x1CF, 0x1E7, 0x1F5]

/-- The field's polynomial: which one is free (DESIGN CHOICE, log entry 19). -/
def fieldPoly : Nat := fieldPolys.getD (Config.fecField % 16) 0x11D

/-- A field element times x. -/
def gfTimesX (poly a : Nat) : Nat := if a < 128 then 2 * a else (2 * a) ^^^ poly

/-- The product of two elements of GF(2^8). -/
def gfMul (poly a b : Nat) : Nat :=
  ((List.range 8).foldl (fun (p : Nat × Nat) i => (if bitAt b i then p.1 ^^^ p.2 else p.1, gfTimesX poly p.2)) (0, a)).1

/-- The power x^n. -/
def gfPow (poly : Nat) : Nat → Nat
  | 0 => 1
  | n + 1 => gfTimesX poly (gfPow poly n)

/-- A polynomial, highest coefficient first, times (X + r). -/
def gfTimesRoot (poly : Nat) (g : List Nat) (r : Nat) : List Nat :=
  ((g ++ [0]).zip (0 :: g)).map fun (p : Nat × Nat) => p.1 ^^^ gfMul poly r p.2

/-- The generator of the code (R371): four consecutive powers are its roots. -/
def fecGenerator (poly first : Nat) : List Nat :=
  ((List.range 4).map fun i => gfPow poly (first + i)).foldl (gfTimesRoot poly) [1]

/-- One data symbol fed into the division by the generator: the four remainders. -/
def fecFeed (poly : Nat) (g : List Nat) (rem : List Nat) (d : Nat) : List Nat :=
  let f := d ^^^ rem.headD 0
  ((rem.drop 1 ++ [0]).zip (g.drop 1)).map fun (p : Nat × Nat) => p.1 ^^^ gfMul poly f p.2

/-- The four parity symbols of data symbols (R371): a codeword is divisible by the generator. -/
def fecParity (data : List Byte) : List Byte :=
  let poly := fieldPoly
  let g := fecGenerator poly (Config.fecRoot % 255)
  ((data.map (·.toNat)).foldl (fecFeed poly g) [0, 0, 0, 0]).map (BitVec.ofNat 8)

/-- Whether the last four symbols of an interleave are its parity. -/
def codeword (ws : List Byte) : Bool := fecParity (ws.take (ws.length - 4)) == ws.drop (ws.length - 4)

/-- Every word that differs from a word in one symbol at most, that symbol at a place below a bound. -/
def oneChange (ws : List Byte) : List (List Byte) :=
  (List.range ws.length).flatMap fun i => (List.range 256).map fun v => ws.set i (BitVec.ofNat 8 v)

/-- An interleave with up to two byte errors corrected: none where no codeword is so near. -/
def fecCorrect (ws : List Byte) : Option (List Byte) :=
  if codeword ws then some ws
  else match (oneChange ws).find? codeword with
    | some c => some c
    | none => ((oneChange ws).flatMap oneChange).find? codeword

/-- The place of index i of a flit in its interleave. -/
def fromInterleaves (k0 k1 k2 : List Byte) : List Byte :=
  (List.range 256).map fun i => (match i % 3 with | 0 => k0 | 1 => k1 | _ => k2).getD (i / 3) 0

/-- A flit after correction; none where an interleave cannot be corrected. -/
def fecFlit (flit : List Byte) : Option (List Byte) :=
  match fecCorrect (interleave flit 0), fecCorrect (interleave flit 1), fecCorrect (interleave flit 2) with
  | some a, some b, some c => some (fromInterleaves a b c)
  | _, _, _ => none

/-- One bit of the reflected CRC-32C (R370): the polynomial 0x1EDC6F41 with its bits reversed. -/
def crcBit (c : BitVec 32) : BitVec 32 := if c.getLsbD 0 then (c >>> 1) ^^^ 0x82F63B78 else c >>> 1

/-- CRC-32C of bytes, as the Castagnoli code is used elsewhere: reflected, from all ones, complemented at the end.
PRESUMED (log entry 30). -/
def crc32c (bs : List Byte) : Nat :=
  (~~~ (bs.foldl (fun (c : BitVec 32) b => (List.range 8).foldl (fun c _ => crcBit c) (c ^^^ b.zeroExtend 32)) 0xFFFFFFFF)).toNat

/-! ### The flits of this device (R370) -/

/-- A status as a number. -/
def HomeStatus.code : HomeStatus → Nat
  | .done => 0
  | .mme => 1
  | .poisoned => 2
  | .waking => 3

/-- A message as numbers. -/
def LinkMsg.code : LinkMsg → List Nat
  | .request id elem => [0, id, elem]
  | .response agent seq status result => [1, agent, seq, status.code, result]
  | .snoop line take => [2, line, ofBool take]
  | .snooped line waking => [3, line, ofBool waking]

/-- The payload of a flit: 232 bytes at most. -/
def OutFlit.payload (f : OutFlit) : List Byte := match f.msg with | some m => (Config.messageBytes m.code).take 232 | none => []

/-- Bytes 0 to 239 of a flit. -/
def OutFlit.head (f : OutFlit) : List Byte :=
  (toBytes f.type 1 ++ toBytes f.chan 1 ++ toBytes f.seq 2 ++ toBytes f.ack 2 ++ toBytes Config.incarnation 1 ++ toBytes f.payload.length 1 ++
    f.payload ++ List.replicate 232 0).take 240

/-- The 256 bytes of a flit on the wire: its CRC, and the parity of the three interleaves (R370, R371). -/
def OutFlit.bytes (f : OutFlit) : List Byte :=
  let body := f.head ++ toBytes (crc32c f.head) 4
  let parity (k : Nat) : List Byte := fecParity (((List.range 244).filter fun i => i % 3 == k).map fun i => body.getD i 0)
  body ++ (List.range 12).map fun j => (parity ((244 + j) % 3)).getD (j / 3) 0

/-! ### Receiving (R370, R372) -/

/-- The fields of a flit. -/
structure Flit where
  type : Nat
  chan : Nat
  seq : Nat
  ack : Nat
  inc : Nat
  len : Nat
  payload : List Byte
deriving DecidableEq, Repr

/-- A flit's fields from its 256 bytes; none where its TYPE, a reserved bit or LEN is outside R370. -/
def Flit.parse (bs : List Byte) : Option Flit :=
  let v := fromBytes bs
  let len := bitsOf v 56 8
  if bitsOf v 0 8 > 3 ∨ bitsOf v 11 5 ≠ 0 ∨ bitsOf v 24 8 ≠ 0 ∨ bitsOf v 40 8 ≠ 0 ∨ len > 232 then none
  else some ⟨bitsOf v 0 8, bitsOf v 8 3, bitsOf v 16 8, bitsOf v 32 8, bitsOf v 48 8, len, (bs.drop 8).take len⟩

/-- The distance of a number from another in their order modulo 256. -/
def seqAhead (first next : Nat) : Nat := (next + 256 - first % 256) % 256

/-- Flits that an acknowledgement covers leave the window. -/
def Link.acked (k : Link) (ack : Nat) : Link :=
  { k with tx := k.tx.filter fun t => !(decide (1 ≤ seqAhead t.seq ack) && decide (seqAhead t.seq ack ≤ 64)) }

/-- A flit of the window sent again. -/
def Link.resend (k : Link) (seq now : Nat) : Link :=
  if k.tx.any fun t => t.seq == seq then
    let k := (k.tx.filter fun t => t.seq == seq).foldl Link.emitTx k
    { k with tx := mapWhere (fun t => t.seq == seq) (fun t => { t with sentAt := now }) k.tx, retx := (k.retx + 1) % 2 ^ 32,
             lastData := now }
  else k

/-- The next expected number advanced over what has arrived; held flits are delivered in order. -/
def Link.advance (k : Link) : Nat → Link
  | 0 => k
  | fuel + 1 =>
    if k.rxSeen.contains k.rxNext then
      let now := k.rxHeld.filter fun f => f.seq == k.rxNext
      ({ k with rxNext := (k.rxNext + 1) % 256, rxSeen := k.rxSeen.filter (· != k.rxNext),
                rxHeld := k.rxHeld.filter fun f => f.seq != k.rxNext,
                asked := k.asked.filter (· != k.rxNext),
                inbox := k.inbox ++ now.map fun f => (f.chan, f.payload) } : Link).advance fuel
    else k

/-- The missing numbers before one. -/
def Link.gaps (k : Link) (seq : Nat) : List Nat :=
  ((List.range (seqAhead k.rxNext seq)).map fun i => (k.rxNext + i) % 256).filter fun n => !k.rxSeen.contains n

/-- A data flit accepted once, within 64 of the next expected number: each gap before it is asked for by a negative acknowledgement; an
unordered channel delivers it at once. -/
def Link.accept (k : Link) (f : Flit) (now : Nat) : Link :=
  if seqAhead k.rxNext f.seq ≥ 64 ∨ k.rxSeen.contains f.seq then k
  else
    let new := (k.gaps f.seq).filter fun n => !k.asked.contains n
    let k := new.foldl (fun (k : Link) n => k.emit 3 0 n none) k
    let k := { k with lastData := now, asked := k.asked ++ new, rxSeen := k.rxSeen ++ [f.seq] }
    let k := if k.ordered f.chan then { k with rxHeld := k.rxHeld ++ [⟨f.seq, f.chan, f.payload⟩] }
             else { k with inbox := k.inbox ++ [(f.chan, f.payload)] }
    k.advance 64

/-- A bad flit counted. -/
def Link.countBad (k : Link) (now : Nat) : Link :=
  { k with bad := (k.bad + 1) % 2 ^ 32, badTimes := now :: k.badTimes.filter fun t => decide (now ≤ t + 1000) }

/-- What a link does with a parsed flit of its peer's incarnation. A data flit is acknowledged by the next flit sent, or where none is
by a flit of its own (R372; DESIGN CHOICE, log entry 18). -/
def Link.take (k : Link) (f : Flit) (now : Nat) : Link :=
  let k := k.acked f.ack
  let k := match f.type with
    | 1 => k.accept f now
    | 3 => k.resend f.seq now
    | _ => k
  let p := k.pump now 64
  if f.type = 1 && p.tx.length == k.tx.length then p.emit 2 0 0 none else p

/-- A received flit: corrected, checked, counted and taken, or dropped (R370 to R372). -/
def Link.receive (k : Link) (bs : List Byte) (now : Nat) : Link :=
  match fecFlit bs with
  | none => k.countBad now
  | some c =>
    if crc32c (c.take 240) ≠ fromBytes ((c.drop 240).take 4) then k.countBad now
    else
      let k := if c = bs then k else { k with fecc := (k.fecc + 1) % 2 ^ 64 }
      match Flit.parse c with
      | none => k
      | some f => if f.inc = k.pinc then k.take f now else k

/-- FLIT_RECEIVE (R370 to R372): a flit reaches a link that is UP; in every other state it is dropped. -/
def execFlitReceive (port v : Nat) (s : State) : Host.Outcome State Fault Refusal :=
  .next (s.updLink port fun k => if k.st = .up then k.receive (toBytes v 256) s.hubCycle else k)

/-- RETRANSMIT_TIMEOUT (R372): a flit that no acknowledgement has covered within 2 µs is sent again. -/
def execRetransmitTimeout (port seq : Nat) (s : State) : Host.Outcome State Fault Refusal :=
  .next (s.updLink port fun k =>
    if k.st = .up && k.tx.any (fun t => t.seq == seq && decide (t.sentAt + 2000 ≤ s.hubCycle)) then k.resend seq s.hubCycle else k)

end Sys2Proof.Machine
end

