-- ==== Sys2Proof/Machine/Service.lean ====
section
/-! DEFINITION. The driver's page service (R355 to R357) and the checkpoint engine (R367, R368). -/

namespace Sys2Proof.Machine
open Sys2Proof

/-! ### Posting (R355) -/

/-- The address of an entry of the page-fault ring. -/
def Context.faultAt (c : Context) (i : Nat) : Nat := c.pfbase + 256 + 64 * (i % 2 ^ c.log2p)

/-- A page fault that waits for the ring: its context and core, address, detail and kind of access. -/
structure PageAsk where
  ctx : Nat
  core : Nat
  addr : Nat
  detail : Nat
  kind : Nat
  async : Bool
deriving DecidableEq, Repr

/-- What a requester asks, if it waits to post. -/
def State.pageAsk (s : State) (who : Requester) : Option PageAsk :=
  match who with
  | .lane u ci l =>
    match s.block? u, s.thread? u ci l with
    | some b, some t => (match t.st with
      | .parked (.pagePost f k _) => if b.onCore then some ⟨b.ctx, b.core, f.eaddr, f.pageDetail, k, false⟩ else none
      | _ => none)
    | _, _ => none
  | .copy id =>
    match s.copies.find? fun c => c.id == id with
    | some c => (match c.st with | .held (.post d a k) => some ⟨c.ctx, c.core, a, d, k, true⟩ | _ => none)
    | none => none
  | .tile id =>
    match s.tileCmd? id with
    | some (b, k) => (match k.hold with
      | some (.post d a t) => if b.onCore then some ⟨b.ctx, b.core, a, d, t, true⟩ else none
      | _ => none)
    | none => none

/-- A requester put on an entry. -/
def State.putOnEntry (s : State) (who : Requester) (num : Nat) (a : PageAsk) : State :=
  match who with
  | .lane u ci l => s.updThread u ci l fun t => match t.st with
    | .parked (.pagePost f _ g) => { t with st := .parked (.page f num g) }
    | _ => t
  | .copy id => s.updCopy id fun c => { c with st := .held (.entry num a.detail a.addr a.kind) }
  | .tile id => match s.tileCmd? id with
    | some (b, _) => s.updCmd b.uid id fun k => { k with hold := some (.entry num a.detail a.addr a.kind) }
    | none => s

/-- The expert that a page carries, for detail 0x02 (R355). -/
def State.expertAt (s : State) (ctx va : Nat) : Nat :=
  match s.ctxs[ctx]? with
  | none => 0
  | some c => match walkTables s.mem s.hubid c.root va with | .ok l => l.exid | .error _ => 0

/-- PAGE_FAULT_POST (R355): a PAGE fault joins the entry of its page, or posts one where the ring has room. -/
def execPageFaultPost (who : Requester) (s : State) : Host.Outcome State Fault Refusal :=
  match s.pageAsk who with
  | none => .next s
  | some a =>
    match s.ctxs[a.ctx]? with
    | none => .next s
    | some c =>
      let page := a.addr / 8192
      let same : PfEntry → Bool := fun e => e.ctx == a.ctx && e.vpage == page && e.detail == a.detail && !e.answered
      match s.faults.find? same with
      | some e =>
        let n := min (e.joined + 1) (2 ^ 32 - 1)
        let s : State := { s with faults := mapWhere (fun x => x.ctx == e.ctx && x.num == e.num) (fun x => { x with joined := n }) s.faults }
        .next ((s.agentWrite a.ctx (c.faultAt e.num + 24) (toBytes n 4)).putOnEntry who e.num a)
      | none =>
        if c.pfTail - c.pfHead ≥ 2 ^ c.log2p then .next s
        else
          let i := c.pfTail
          let exid := if a.detail = 2 then s.expertAt a.ctx a.addr else 0
          let bytes := toBytes i 4 ++ toBytes 0 4 ++ toBytes (page * 8192 % 2 ^ 53) 8 ++ toBytes a.detail 1 ++
            toBytes (a.kind % 4 + 4 * ofBool a.async) 1 ++ toBytes a.core 2 ++ toBytes exid 4 ++ toBytes 1 4 ++ toBytes 0 36
          let s := (s.agentWrite a.ctx (c.faultAt i) bytes).agentWrite a.ctx c.pfbase (toBytes (i + 1) 4)
          let entry : PfEntry := ⟨a.ctx, i, page, a.detail, 1, false, false⟩
          let s := s.updCtx a.ctx fun c => { c with pfTail := i + 1 }
          .next (({ s with faults := s.faults ++ [entry] } : State).putOnEntry who i a)

/-! ### Answers (R355) -/

/-- The lanes of a context parked on an entry by sub-crew (R329, R331): block, crew and PC, with their faults. -/
def State.pageLanes (s : State) (ctx num : Nat) : List (Nat × Nat × Nat × List (Nat × LaneFault)) :=
  (s.blocks.filter fun b => b.ctx == ctx).flatMap fun b => b.body.crews.zipIdx.flatMap fun c =>
    let ls := c.1.threads.zipIdx.filterMap fun t => match t.1.st with
      | .parked (.page f e g) => if e = num then some ((g, t.1.pc.toNat), t.2, f) else none
      | _ => none
    ((ls.map fun p => p.1).eraseDups).map fun k => (b.uid, c.2, k.2, (ls.filter fun p => p.1 == k).map fun p => p.2)

/-- The copies and the tile commands held on an entry. -/
def State.pageCopies (s : State) (ctx num : Nat) : List Copy :=
  s.copies.filter fun c => c.ctx == ctx && (match c.st with | .held (.entry n _ _ _) => n == num | _ => false)
def State.pageCmds (s : State) (ctx num : Nat) : List (Nat × Nat) :=
  (s.blocks.filter fun b => b.ctx == ctx).flatMap fun b => b.cmds.filterMap fun k =>
    match k.hold with | some (.entry n _ _ _) => if n = num then some (b.uid, k.id) else none | _ => none

/-- Every requester of an entry replays. -/
def State.pageServed (s : State) (ctx num : Nat) : State :=
  let s := (s.pageLanes ctx num).foldl (fun (s : State) g => g.2.2.2.foldl (fun (s : State) l =>
    s.updThread g.1 g.2.1 l.1 fun t => { t.loseLatches with st := .ready }) s) s
  let s := (s.pageCopies ctx num).foldl (fun (s : State) c =>
    let s := s.runCopy c.id
    match s.copies.find? fun k => k.id == c.id with
    | some k => if k.op = 0xC8 ∧ k.landed then s.finishCopy k else s
    | none => s) s
  (s.pageCmds ctx num).foldl (fun (s : State) k =>
    match s.block? k.1 with
    | none => s
    | some b => (s.updCmd k.1 k.2 fun k => { k with hold := none }).tileKick b.core) s

/-- Every requester of an entry is refused. -/
def State.pageRefused (s : State) (ctx num : Nat) : State :=
  let s := (s.pageLanes ctx num).foldl (fun (s : State) g => s.takeFaults g.1 g.2.1 g.2.2.1 g.2.2.1 g.2.2.2 false false) s
  let s := (s.pageCopies ctx num).foldl (fun (s : State) c =>
    match s.block? c.uid, c.st with
    | some b, .held (.entry _ d a k) => s.failCopy b c ⟨6, d, a, k, 0⟩
    | _, _ => s) s
  (s.pageCmds ctx num).foldl (fun (s : State) k =>
    match s.block? k.1, s.tileCmd? k.2 with
    | some b, some (_, cmd) => s.failCmd b { cmd with hold := none } 3
    | _, _ => s) s

/-- HEAD advanced over the answered entries in order. -/
def State.passFaults (s : State) (ctx : Nat) : State :=
  let done := (s.faults.filter fun e => e.ctx == ctx).takeWhile (·.answered)
  if done.isEmpty then s
  else
    let s := { s with faults := s.faults.filter fun e => !done.contains e }
    let s := s.updCtx ctx fun c => { c with pfHead := c.pfHead + done.length }
    match s.ctxs[ctx]? with
    | none => s
    | some c => s.agentWrite ctx (c.pfbase + 128) (toBytes c.pfHead 4)

/-- The driver's answer to an entry read, with an acquire at scope sys (R355), and applied. -/
def State.answerFault (s : State) (ctx num : Nat) : State :=
  match s.ctxs[ctx]?, s.faults.find? fun e => e.ctx == ctx && e.num == num && !e.answered with
  | some c, some _ =>
    match s.hubAcquire (ctxReader ctx) ctx (c.faultAt num + 4) 4 true none with
    | (s, .wait) => s
    | (s, .bad _) => s.endBring hubDie (ctxReader ctx)
    | (s, .got st) =>
      let s := s.endBring hubDie (ctxReader ctx)
      if st ≠ 1 ∧ st ≠ 2 then s
      else
        let same : PfEntry → Bool := fun e => e.ctx == ctx && e.num == num
        let s : State := { s with faults := mapWhere same (fun e => { e with answered := true }) s.faults }
        (if st = 1 then s.pageServed ctx num else s.pageRefused ctx num).passFaults ctx
  | _, _ => s

/-- Whether the page-fault ring lies in non-coherent host memory. -/
def State.faultsApart (s : State) (ctx : Nat) : Bool :=
  match s.ctxs[ctx]? with
  | none => false
  | some c => match s.agentXlate ctx c.pfbase .read false false with | .ok p => p.2.type == 4 | .error _ => false

/-- PAGE_FAULT_REPLY (R355): the hub reads STATUS; the requesters replay, or their faults are refused. In non-coherent host
memory it reads STATUS once CPFDOOR has named the entry. -/
def execPageFaultReply (ctx num : Nat) (s : State) : Host.Outcome State Fault Refusal :=
  let rung := s.faults.any fun e => e.ctx == ctx && e.num == num && e.rung
  .next (if s.faultsApart ctx && !rung then s else s.answerFault ctx num)

/-- CPFDOOR (R352, R355): the driver names an entry whose STATUS it has made visible; a dead host's doorbells are dropped (R380). -/
def execCpfdoor (ctx num : Nat) (s : State) : Host.Outcome State Fault Refusal :=
  if !s.awake || s.agentDead hostAgent then .next s else
  let same : PfEntry → Bool := fun e => e.ctx == ctx && e.num == num
  .next (({ s with faults := mapWhere same (fun e => { e with rung := true }) s.faults } : State).answerFault ctx num)

/-! ### The checkpoint (R367, R368) -/

/-- Whether a command may start a checkpoint. -/
def Checkpoint.idle_ (k : Checkpoint) : Bool := k.state != .cutting && k.state != .streaming

/-- A checkpoint begins to cut. -/
def Checkpoint.begin_ (k : Checkpoint) (full : Bool) : Checkpoint :=
  { k with state := .cutting, full, pages := 0, cause := 0, todo := [], sent := [], trailer := false }

/-- FULL (R367). -/
def execFull (s : State) : Host.Outcome State Fault Refusal :=
  if !s.awake then .next s else
  .next (if s.ckpt.idle_ then s.updCkpt fun k => k.begin_ true else s)

/-- DIRTY (R367): refused while the last checkpoint is FAILED. -/
def execDirty (s : State) : Host.Outcome State Fault Refusal :=
  if !s.awake then .next s else
  .next (if !s.ckpt.idle_ then s
    else if s.ckpt.state = .failed then s.updCkpt fun k => { k with cause := 2 }
    else s.updCkpt fun k => k.begin_ false)

/-- ABORT (R367, R368): the current checkpoint fails. -/
def execAbort (s : State) : Host.Outcome State Fault Refusal :=
  if !s.awake then .next s else
  .next (if s.ckpt.idle_ then s else s.failCheckpoint 3)

/-- The leaves below a table in ascending virtual address (R348, R368), those of non-coherent host pages left out (R354). -/
def leavesFrom (m : List Host.Cell) (hubid ctx : Nat) : Nat → Nat → Nat → Nat → List KPage
  | 0, _, _, _ => []
  | fuel + 1, level, table, va =>
    (List.range 1024).flatMap fun i =>
      let addr := table + 8 * i
      let e := readNat m (memKey hubid addr) 8
      let v := va + i * 2 ^ levelShift level
      if !bitAt e 0 then []
      else if bitAt e 1 then (if leafEntryOk hubid e level && bitsOf e 2 3 != 4 then [⟨ctx, v, level, addr⟩] else [])
      else if tableEntryOk hubid e level then leavesFrom m hubid ctx fuel (level + 1) (bitsOf e 13 39 * 2 ^ 13) v
      else []

/-- The contexts that a checkpoint includes. -/
def State.included (s : State) : List (Nat × Context) := (s.ctxs.zipIdx.map fun p => (p.2, p.1)).filter fun p => bitAt s.ckpt.ctxs p.1

/-- Whether a block has nothing left that the cut waits for. -/
def State.cutReady (s : State) (b : Block) : Bool :=
  b.late.isEmpty && !b.unfinished && !(s.copies.any fun c => c.uid == b.uid) && !(b.cmds.any fun k => k.op == 0xD6) &&
  !(s.reqs.any fun r => match r.owner with | some o => o.1 == b.uid | none => false)

/-- CHECKPOINT_CUT_DONE (R368, step 1). -/
def execCheckpointCutDone (s : State) : Host.Outcome State Fault Refusal :=
  let mine := s.blocks.filter fun b => bitAt s.ckpt.ctxs b.ctx && b.onCore
  if s.ckpt.state ≠ .cutting || !mine.all s.cutReady then .next s
  else
    let cores := ((mine.map (·.core)) ++ (s.l1.filter fun l => bitAt s.ckpt.ctxs l.ctx && l.dirty).map (·.core)).eraseDups
    let down := (cores.flatMap fun k => s.publishDown k true false).eraseDups
    if !down.isEmpty then .next (s.wakeSpokes down) else
    let s := cores.foldl State.publishAll s
    let s := s.included.foldl (fun (s : State) p => s.dropTranslations p.1 0 (2 ^ 53)) s
    let todo := s.included.flatMap fun p =>
      if p.2.state = .free then [] else leavesFrom s.mem s.hubid p.1 4 0 p.2.root 0
    .next (s.updCkpt fun k => { k with state := .streaming, seq := (k.seq + 1) % 2 ^ 32, todo })

/-- The trailer of an image: SEQ and PAGES (R368, step 4; their places: DESIGN CHOICE, log entry 23). -/
def Checkpoint.trailerBytes (k : Checkpoint) : List Byte := toBytes k.seq 4 ++ toBytes k.pages 4

/-- CHECKPOINT_STREAM_DONE (R368, steps 2 to 5): every page left is examined and sent; with all of them written, the trailer; with
the trailer written, DONE. Or the destination has failed (`ok` false, or an agent that is fenced). -/
def execCheckpointStreamDone (ok : Bool) (s : State) : Host.Outcome State Fault Refusal :=
  if s.ckpt.state ≠ .streaming then .next s
  else if !ok || s.agentDead s.ckpt.agent then .next (s.failCheckpoint 1)
  else
    let s := s.ckpt.todo.foldl (fun (s : State) p => s.examine p p.level) s
    let s := s.updCkpt fun k => { k with todo := [] }
    if s.reqs.any fun r => r.op == checkpointOp then .next s
    else if !s.ckpt.trailer then .next ((s.updCkpt fun k => { k with trailer := true }).sendImage (8256 * s.ckpt.pages) s.ckpt.trailerBytes)
    else .next (s.updCkpt fun k => { k with state := .done, sent := [], trailer := false })

end Sys2Proof.Machine
end

