-- ==== Sys2Proof/Machine/Link.lean ====
section
/-! DEFINITION. The link (R369 to R385): the states of ports and spoke links, heartbeats and agents, fence, strike and
unfence, and the requests of the host and of peers to this device as their home. -/

namespace Sys2Proof.Machine
open Sys2Proof

/-! ### Ports (R376, R377) -/

/-- A link enters a state now. -/
def Link.enter (k : Link) (st : LinkState) (now : Nat) : Link := { k with st, since := now }

/-- A link enters TRAINING with its attempts before it; "waking" is answered no more. -/
def Link.train (k : Link) (now : Nat) : Link := { k.enter .training now with attempts := 0, told := [] }

/-- A link leaves UP for a state that is not SLEEP. -/
def Link.leaveUp (k : Link) (now : Nat) : Link := if k.st = .up then { k with outSince := some now } else k

/-- A link enters FENCED: flits are dropped in both directions and its windows emptied. -/
def Link.fence (k : Link) (now : Nat) : Link :=
  { (k.leaveUp now).enter .fenced now with txNext := 0, tx := [], backlog := [], rxNext := 0, rxSeen := [], rxHeld := [], asked := [],
                                           inbox := [], told := [] }

/-- The fields of PCTL but EN (R376). -/
def Link.setCtl (k : Link) (v : Nat) : Link := { k with slp := bitAt v 30, lmask := bitsOf v 8 4, ord := bitsOf v 4 4 }

/-- The port starts to train, if it may leave DOWN (R376, R388). -/
def Link.start (k : Link) (may : Bool) (now : Nat) : Link :=
  if k.st = .down && k.en && may then { k.train now with lost := 0 } else k

/-- PORT_ENABLE (R376, R377): PCTL written with EN set; ignored unless the port is DOWN or FENCED. -/
def execPortEnable (port v : Nat) (s : State) : Host.Outcome State Fault Refusal :=
  if !s.awake || decide (port ≥ 36) then .next s
  else .next (s.updLink port fun k =>
    if k.st = .down ∨ k.st = .fenced then ({ k.setCtl v with en := true } : Link).start s.hubidSet s.hubCycle else k)

/-- PORT_DISABLE (R376, R377): PCTL written with EN clear; its other fields count only where the port is DOWN or FENCED. -/
def execPortDisable (port v : Nat) (s : State) : Host.Outcome State Fault Refusal :=
  if !s.awake || decide (port ≥ 36) then .next s
  else .next (s.updLink port fun k =>
    let c := if k.st = .down ∨ k.st = .fenced then k.setCtl v else k
    { (c.leaveUp s.hubCycle).enter .down s.hubCycle with en := false })

/-- Whether a number of lanes is one that a port may run on (R369). -/
def lanesOk (m : Nat) : Bool := [1, 2, 4].contains (popcount m 4)

/-- The lanes that a port runs on, of those that have trained: all of them, or where these are three, two of them by a free choice
(R369, R377). -/
def State.lanesUsed (s : State) (m : Nat) : Nat × State :=
  if lanesOk m then (m, s)
  else
    let (k, s) := s.choose 2
    ((((List.range 4).filter fun i => bitAt m i).map fun i => m - 2 ^ i).getD k 0, s)

/-- The agent at the far end of a link (R369). -/
def farAgent (port peer : Nat) : Nat := if port < 36 then peer else if port < 44 then dieAgent (port - 36) else hostAgent

/-- A link UP: LANES, PEER and PINC recorded, and unacknowledged flits sent again. -/
def Link.goUp (k : Link) (lanes peer pinc now : Nat) : Link :=
  let again := k.tx.foldl Link.emitTx k
  ({ again.enter .up now with lanes, peer, pinc, outSince := none, suspect := false, badTimes := [], lastData := now, told := []
                              tx := k.tx.map fun t => { t with sentAt := now }, retx := (k.retx + k.tx.length) % 2 ^ 32 } : Link).pump now 64

/-- A peer's incarnation learned in training: where it has changed, its windows at this home are empty (R375). -/
def State.learnInc (s : State) (peer pinc : Nat) : State :=
  let r := s.agent peer
  if r.pinc = some pinc then s
  else
    let s := s.setAgent peer { r with pinc := some pinc }
    if r.pinc.isNone then s else { s with homeWins := s.homeWins.filter fun w => w.1 != peer }

/-- PORT_TRAINED (R377): lanes of LMASK that are not lost train. A spoke link leads to its die, the host link to the host; a link that has
trained to a fenced agent is FENCED. A change of the peer's incarnation empties its windows at this home (R375). -/
def execPortTrained (port lanes peer pinc : Nat) (s : State) : Host.Outcome State Fault Refusal :=
  match s.links[port]? with
  | none => .next s
  | some k =>
    let m := lanes % 16 &&& k.lmask &&& (15 - k.lost % 16)
    if k.st ≠ .training || m == 0 then .next s
    else
      let peer := if port < 36 then peer % 4096 else k.peer
      let (m, s) := s.lanesUsed m
      let s := s.updLink port fun k => k.goUp m peer (pinc % 256) s.hubCycle
      let s := if s.agentDead (farAgent port peer) then s.updLink port fun k => k.fence s.hubCycle else s
      .next (if port < 36 then s.learnInc peer (pinc % 256) else s)

/-- TRAINING_TIMEOUT (R377): an attempt of 10 µs has failed; after three the port is DOWN. -/
def execTrainingTimeout (port : Nat) (s : State) : Host.Outcome State Fault Refusal :=
  .next (s.updLink port fun k =>
    if k.st ≠ .training ∨ s.hubCycle < k.since + 10000 then k
    else if k.attempts < 2 then { k with attempts := k.attempts + 1, since := s.hubCycle }
    else { k.enter .down s.hubCycle with en := false })

/-- PORT_IDLE (R377): SLP, and 10 µs without a data flit in either direction. -/
def execPortIdle (port : Nat) (s : State) : Host.Outcome State Fault Refusal :=
  .next (s.updLink port fun k =>
    if k.st = .up && k.slp && decide (k.lastData + 10000 ≤ s.hubCycle) then k.enter .sleep s.hubCycle else k)

/-- Whether 16 bad flits have been received within 1 µs (R377). -/
def Link.manyBad (k : Link) (now : Nat) : Bool := decide (16 ≤ (k.badTimes.filter fun t => decide (now ≤ t + 1000)).length)

/-- PORT_ERRORS (R377): 16 bad flits within 1 µs, or lanes lost. -/
def execPortErrors (port lost : Nat) (s : State) : Host.Outcome State Fault Refusal :=
  .next (s.updLink port fun k =>
    let gone := lost % 16 &&& k.lanes
    if k.st = .up && (k.manyBad s.hubCycle || gone != 0) then { (k.leaveUp s.hubCycle).train s.hubCycle with lost := k.lost ||| gone } else k)

/-- PORT_WAKE (R377): a flit to send, or the peer wakes the link. -/
def execPortWake (port : Nat) (s : State) : Host.Outcome State Fault Refusal :=
  .next (s.updLink port fun k => if k.st = .sleep then k.enter .waking s.hubCycle else k)

/-- WAKE_READY (R377): within 40 µs. -/
def execWakeReady (port : Nat) (s : State) : Host.Outcome State Fault Refusal :=
  .next (s.updLink port fun k =>
    if k.st = .waking && decide (s.hubCycle ≤ k.since + 40000) then ({ k.enter .up s.hubCycle with lastData := s.hubCycle, told := [] } : Link).pump s.hubCycle 64
    else k)

/-- WAKE_TIMEOUT (R377): 40 µs elapse. -/
def execWakeTimeout (port : Nat) (s : State) : Host.Outcome State Fault Refusal :=
  .next (s.updLink port fun k => if k.st = .waking && decide (k.since + 40000 ≤ s.hubCycle) then k.train s.hubCycle else k)

/-- SPOKE_SUSPECT (R377): a spoke link out of UP for more than 40 µs makes its die suspect. -/
def execSpokeSuspect (d : Nat) (s : State) : Host.Outcome State Fault Refusal :=
  if d ≥ 8 then .next s
  else .next (s.updLink (36 + d) fun k => match k.outSince with
    | some t => if k.st ≠ .up ∧ t + 40000 < s.hubCycle then { k with suspect := true } else k
    | none => k)

/-- HUBID (R376): the first write sets the number and SET; enabled ports may then leave DOWN. -/
def execHubid (v : Nat) (s : State) : Host.Outcome State Fault Refusal :=
  if !s.awake || s.hubidSet then .next s
  else
    let n := v % 4096
    .next { s with hubid := n, hubidSet := true, agents := s.agents.filter fun a => a.1 != n,
                   links := s.links.map fun k => k.start true s.hubCycle }

/-! ### Heartbeats (R378, R379) -/

/-- HEARTBEAT_SEND (R378, R383): every 100 µs, until a memory die is dead. -/
def execHeartbeatSend (s : State) : Host.Outcome State Fault Refusal :=
  .next (if s.beatStop || decide (s.hubCycle < s.beatSent + 100000) then s else { s with beatSent := s.hubCycle })

/-- Whether a number names an agent's row: peers but the device itself, the host, the dies (R379). -/
def State.agentKnown (s : State) (a : Nat) : Bool := decide (a < 4105) && !(s.hubidSet && a == s.hubid)

/-- HEARTBEAT (R378, R379): an ABSENT agent is LIVE; a LIVE agent's silence starts anew. -/
def execHeartbeat (agent : Nat) (s : State) : Host.Outcome State Fault Refusal :=
  let r := s.agent agent
  if !s.agentKnown agent || (r.state != .absent && r.state != .live) then .next s
  else .next (s.setAgent agent { r with state := .live, lastBeat := s.hubCycle })

/-! ### Fencing (R379, R380, R383) -/

/-- The lines, buffers and translations of a die's cores dropped: they are lost with it. -/
def State.dropDieCaches (s : State) (d : Nat) : State :=
  { s with l1 := s.l1.filter fun l => dieOf l.core != d
           ib := s.ib.filter fun l => dieOf l.core != d
           tlb := s.tlb.filter fun e => match e.at_ with | .core c => dieOf c != d | .die k => k != d
           walks := s.walks.filterMap fun w =>
             -- a walk that cores of another die have joined goes on for them
             match w.waiters.filter fun c => dieOf c != d with
             | [] => if w.die = d then none else some w
             | c :: cs => some { w with waiters := c :: cs, die := if w.die = d then dieOf c else w.die } }

/-- A compute die is dead (R383): its packets of unfinished launches go to the next live die (R315), its blocks are killed, its director
stops. -/
def State.loseComputeDie (s : State) (d : Nat) : State :=
  let heir := s.liveDie d
  let all := match s.dies[d]? with | some k => k.serving.toList ++ k.mailbox | none => []
  let own := all.filter fun p => (s.pktLaunch (fromBytes p)).isSome
  let back := s.held.map fun p => if p.1 = d then (heir, p.2) else p
  let s : State := { s with held := back ++ own.map fun p => (heir, p) }
  let s := s.updDie d fun k => { k with mailbox := [] }
  let s := s.idleDirector d
  let moved := mapWhere (fun (b : Block) => b.die == d && b.state == .placing) (fun b => { b with die := heir }) s.blocks
  let s : State := { s with blocks := moved }
  let here := s.blocks.filter fun b => b.die == d && b.onCore && !b.isDirector
  (here.foldl (fun (s : State) b => s.killBlock b.uid) s).dropDieCaches d

/-- A memory die is dead (R383): the device sends no heartbeat any more and fences every fabric port. The lines of its two stacks that
no die holds are served no more: the die's row is what `State.hostFault` reads (R8). -/
def State.loseMemoryDie (s : State) : State :=
  { s with beatStop := true
           links := s.links.zipIdx.map fun k => if k.2 < 36 ∧ k.1.st ≠ .down then k.1.fence s.hubCycle else k.1 }

/-- Bytes of a line that a holder outside the dies, or nobody any more, knows: free values. -/
def State.forgetLine (s : State) (line : Nat) : State :=
  { s with mem := writeBytes s.mem (line * 128) ((List.range 128).map (Config.outsideByte s.choices)), choices := s.choices + 1 }

/-- The host is dead (R383): coherent host lines are dropped without write-back; what a die held in M is lost. -/
def State.loseHost (s : State) : State :=
  let lost := (s.l2.filter fun l => hostLine l.line && l.st == .m).map (·.line)
  let s := lost.foldl State.forgetLine s
  { s with l1 := s.l1.filter fun l => !hostLine l.pline, l2 := s.l2.filter fun l => !hostLine l.line
           intents := s.intents.filter fun i => !hostLine i.line, recs := s.recs.filter fun r => !hostLine r.line, hostCache := [] }

/-- An agent enters FENCING (R379, R380, R383). -/
def State.beginFence (s : State) (a : Nat) : State :=
  let s := s.setAgent a { s.agent a with state := .fencing, since := s.hubCycle }
  let s := (s.failRequestsTo a).goOn
  if a = hostAgent then s.loseHost
  else if a < 4096 then s
  else if a < dieAgent 4 then s.loseComputeDie (a - dieAgent 0)
  else s.loseMemoryDie

/-- DECLARE (R378, R379): 400 µs without a heartbeat. -/
def execDeclare (agent : Nat) (s : State) : Host.Outcome State Fault Refusal :=
  let r := s.agent agent
  .next (if r.state = .live ∧ r.lastBeat + 400000 ≤ s.hubCycle then s.beginFence agent else s)

/-- FENCE_COMMAND (R379, R390): from the fabric manager, or the firmware. -/
def execFenceCommand (agent : Nat) (s : State) : Host.Outcome State Fault Refusal :=
  .next (if s.awake && s.agentKnown agent && (s.agent agent).state == .live then s.beginFence agent else s)

/-! ### The strike (R381) -/

/-- Whether another live peer shares an agent's bit of the coarse vector. -/
def State.coarseShared (s : State) (a : Nat) : Bool :=
  s.agents.any fun p => p.1 != a && decide (p.1 < 4096) && p.1 % 64 == a % 64 && p.2.state == .live

/-- An agent removed from a directory entry's sharers and owner. -/
def DirEntry.strike (d : DirEntry) (a : Nat) (keepCoarse : Bool) : DirEntry :=
  { d with host := d.host && a != hostAgent
           peers := d.peers.filter (· != a)
           coarse := if keepCoarse || decide (a ≥ 4096) then d.coarse else d.coarse &&& ~~~ (BitVec.twoPow 64 (a % 64))
           owner := d.owner.filter (· != a) }

/-- The strike of an agent on every line and structure that names it. -/
def State.strike (s : State) (a : Nat) : State :=
  let owned := (s.dir.filter fun d => d.owner == some a).map (·.line)
  let mine : Nat → Bool := fun die => dieAgent die == a
  let dirty := (s.l2.filter fun l => mine l.die && l.st == .m).map (·.line)
  let keep := s.coarseShared a
  { s with
    poison := (s.poison ++ owned ++ dirty).eraseDups
    dir := (s.dir.map fun d => d.strike a keep).filter fun d => !d.isEmpty
    l2 := s.l2.filter fun l => !mine l.die
    recs := s.recs.filter fun r => r.agent != a
    intents := s.intents.filter fun i => match i.home with | some h => h != a | none => !mine (dieOf i.core)
    homeWins := s.homeWins.filter fun w => w.1 != a }

/-- A function of every link that leads to an agent. -/
def State.updLinksTo (s : State) (a : Nat) (f : Link → Link) : State :=
  { s with links := s.links.zipIdx.map fun k => if k.1.leadsTo k.2 a then f k.1 else k.1 }

/-- AGENT_FENCED (R379, R381): every link to the agent is FENCED, within 5 µs, and the strike runs. -/
def execAgentFenced (agent : Nat) (s : State) : Host.Outcome State Fault Refusal :=
  let r := s.agent agent
  if r.state ≠ .fencing then .next s
  else
    let s := s.updLinksTo agent fun k => if k.st = .down then k else k.fence s.hubCycle
    .next ((s.strike agent).setAgent agent { r with state := .striking, since := s.hubCycle })

/-- STRIKE_COMPLETE (R379, R382): within 30 ms; votes for the agent count from here. -/
def execStrikeComplete (agent : Nat) (s : State) : Host.Outcome State Fault Refusal :=
  let r := s.agent agent
  .next (if r.state = .striking then s.setAgent agent { r with state := .fenced, votes := [] } else s)

/-! ### Unfencing (R382) -/

/-- The bytes of a vote that its signature covers: the agent as UNFENCE names it, and its incarnation. No rule gives the form;
DESIGN CHOICE (log entry 31). -/
def voteBytes (agent inc : Nat) : List Byte := toBytes agent 2 ++ toBytes inc 1

/-- UNFENCE_VOTE (R382): a vote of a quorum peer for a FENCED agent and its incarnation, if its signature verifies. -/
def execUnfenceVote (agent peer inc signature : Nat) (s : State) : Host.Outcome State Fault Refusal :=
  let r := s.agent agent
  if r.state = .fenced ∧ r.inc = inc ∧ peer < Config.quorum ∧ !r.votes.contains peer ∧
      Config.voteVerifies (Config.quorumKey peer) (digest (voteBytes agent inc)) signature then
    .next (s.setAgent agent { r with votes := r.votes ++ [peer] })
  else .next s

/-- The agent that a write to UNFENCE names. -/
def unfenceName (v : Nat) : Option Nat :=
  if v ≥ 2 ^ 14 ∨ (bitAt v 12 ∧ bitAt v 13) then none
  else if bitAt v 13 then (if v % 2 ^ 12 = 0 then some hostAgent else none)
  else if bitAt v 12 then (if bitsOf v 3 9 = 0 then some (dieAgent (v % 8)) else none)
  else some (v % 4096)

/-- A firmware access that hardware drops (R390). -/
def State.denied (s : State) : State := { s with mgmt := { s.mgmt with deny := (s.mgmt.deny + 1) % 2 ^ 16 } }

/-- UNFENCE (R382, R390): accepted from the host with a quorum's votes; the agent is LIVE with its next incarnation. -/
def execUnfence (v : Nat) (firmware : Bool) (s : State) : Host.Outcome State Fault Refusal :=
  if firmware then .next s.denied
  else match unfenceName v with
    | none => .next s
    | some a =>
      let r := s.agent a
      if !s.awake || r.state != .fenced || decide (r.votes.length < Config.quorum / 2 + 1) then .next s
      else
        let s := s.updLinksTo a fun k => if k.st = .fenced then k.train s.hubCycle else k
        .next (s.setAgent a { r with state := .live, inc := (r.inc + 1) % 256, lastBeat := s.hubCycle, votes := [] })

/-! ### Snoops by holders outside the dies (R211, R212) -/

/-- A directory entry changed; one that names nobody is not listed. -/
def State.updDir (s : State) (line : Nat) (f : DirEntry → DirEntry) : State :=
  let d := f (match s.dir.find? fun d => d.line == line with | some d => d | none => ⟨line, false, [], 0, none⟩)
  { s with dir := (s.dir.filter fun d => d.line != line) ++ (if d.isEmpty then [] else [d]) }

/-- An outside agent becomes the only holder of a line (R212): other holders outside are snooped, the bytes are its own from now on, and
the records that other agents have left on it go with it. -/
def State.outsideOwn (s : State) (line who : Nat) : State :=
  let s := s.snoopOut line true
  ({ s with l2 := s.l2.filter fun l => l.line != line || s.dieFenced l.die
            recs := s.recs.filter fun r => !(r.line == line && r.home.isSome)
            intents := s.intents.filter fun i => !(i.line == line && i.home.isSome) } : State).forgetLine line
    |>.updDir line fun _ => ⟨line, false, [], 0, some who⟩

/-- An outside agent that may hold lines of this device: a live one that is no die of it. -/
def State.outsider (s : State) (who : Nat) : Bool := s.agentKnown who && decide (who ≤ hostAgent) && (s.agent who).state == .live

/-- The publications that an access from outside asks for before it is served (R216), with the records of an owner outside; whether it
must wait, for a peer's core or for a spoke link (R218, R377). -/
def State.publishFor (s : State) (line : Nat) : State × Bool :=
  match s.hubPublish 0 line with
  | (s, .wait) => (s, true)
  | (s, _) => (s, false)

/-- An access from outside to a line: the spoke links that it crosses woken and its publications made; whether it must wait (R216,
R377). -/
def State.reachFor (s : State) (own : Bool) (line : Nat) : State × Bool :=
  let down := s.spokesDown hubDie line own
  if down.isEmpty then s.publishFor line else (s.wakeSpokes down, true)

/-- The same for several lines. -/
def State.reachLines (s : State) (own : Bool) (lines : List Nat) : State × Bool :=
  lines.foldl (fun (a : State × Bool) k =>
    let r := a.1.reachFor own k
    (r.1, a.2 || r.2)) (s, false)

/-- The answer to a snoop: to a peer on channel 3 (R373). -/
def State.answerSnoop (s : State) (who line : Nat) (waking : Bool) : State :=
  if who < hostAgent then s.sendMsg who 3 line (.snooped line waking) else s

/-- The answer "waking" to a snoop, given once (R377). -/
def State.tellWaking (s : State) (die line who : Nat) : State :=
  if (match s.links[36 + die]? with | some k => k.told.contains (who, line) | none => true) then s
  else (s.updLink (36 + die) fun k => { k with told := k.told ++ [(who, line)] }).answerSnoop who line true

/-- The frame of a snoop of a line that a die holds, or the hub under a number above the dies' (R212): while the die's spoke link sleeps or
wakes, it wakes and the answer is "waking" (R377); a release record of the line is published first (R216). -/
def State.snoop (s : State) (die line who : Nat) (e : Instr) (here : State → Bool) (act : State → State) : State :=
  if !s.outsider who || !s.hears who || !here s then s
  else match (if die < 8 then (match s.links[36 + die]? with | some k => k.st | none => .down) else .up) with
    | LinkState.up =>
      let r := s.publishFor line
      if r.2 then r.1.comeAgain e else if !here r.1 then r.1 else (act r.1).answerSnoop who line false
    | .sleep => ((s.wakeSpokes [die]).tellWaking die line who).comeAgain e
    | .waking => (s.tellWaking die line who).comeAgain e
    | .training => s.comeAgain e
    | _ => s

/-- The entry of a line's outside holders is its home's: for a line that this device does not home it keeps none. A line of host memory
is then shared in the hub's device cache too (R385). -/
def State.shareOut (s : State) (line who : Nat) : State :=
  if hostLine line then { s with hostCache := mapWhere (fun h => h.1 == line) (fun h => (h.1, .s)) s.hostCache }
  else if peerLine line then s
  else s.updDir line fun d => d.demote.share who

/-- A line that an outside agent takes: it owns a line of this device's memory; another's line is held here no more. -/
def State.takeOut (s : State) (line who : Nat) : State :=
  if hostLine line then { s with l2 := s.l2.filter fun l => l.line != line, hostCache := s.hostCache.filter fun h => h.1 != line }
  else if peerLine line then
    { s with l2 := s.l2.filter fun l => l.line != line, mem := writeBytes s.mem (line * 128) (List.replicate 128 0) }
  else s.outsideOwn line who

/-- Whether a die holds a line in a state that a snoop names, or under a number above the dies' the hub does: its own copies, and its
device cache (R385). -/
def State.snooped (s : State) (die line : Nat) (p : L2State → Bool) : Bool :=
  (s.l2.any fun l => l.die == die && l.line == line && p l.st) || (decide (8 ≤ die) && s.hostCache.any fun h => h.1 == line && p h.2)

/-- SNOOP_READ (R212): an outside agent reads a line that a die holds in E or M; M data of a peer's line goes back to it. -/
def execSnoopRead (die line who : Nat) (s : State) : Host.Outcome State Fault Refusal :=
  .next (s.snoop die line who (.snoopRead die line who) (fun s => s.snooped die line (· != .s)) fun s =>
    (s.demoteHolders line).shareOut line who)

/-- SNOOP_INVALIDATE (R212): an outside agent takes a line that a die holds in S or E; it owns it once no die holds it. -/
def execSnoopInvalidate (die line who : Nat) (s : State) : Host.Outcome State Fault Refusal :=
  .next (s.snoop die line who (.snoopInvalidate die line who) (fun s => s.snooped die line (· != .m)) fun s =>
    let s : State := { s with l2 := s.l2.filter fun l => !(l.line == line && (l.die == die || decide (8 ≤ l.die))) }
    if s.l2.any fun l => l.line == line then s else s.takeOut line who)

/-- SNOOP_OWN (R212): an outside agent takes a line that a die holds in M. -/
def execSnoopOwn (die line who : Nat) (s : State) : Host.Outcome State Fault Refusal :=
  .next (s.snoop die line who (.snoopOwn die line who) (fun s => s.snooped die line (· == .m)) fun s => s.takeOut line who)

/-! ### The host's accesses (R216, R385, R390) -/

/-- The lines of some bytes, published before, read by an outside agent: it is a sharer, and holders in E or M move to S. -/
def State.outsideRead (s : State) (key n who : Nat) : State :=
  (linesOf key n).foldl (fun (s : State) k => ((s.snoopOut k false).demoteHolders k).shareOut k who) s

/-- The last GiB of device memory, the firmware's window (R390). -/
def firmwareWindow (off n : Nat) : Bool := decide (0x7FC0000000 ≤ off) && decide (off + n ≤ 2 ^ 39)

/-- Traffic of the command processor to a peer (R390): only to the agents of the policy list in OTP, and at 1 Gb/s, which is a bit in a
hub cycle; what lies beyond is dropped and counted. What counts as traffic is an access's bytes (DESIGN CHOICE, log entry 95). -/
def State.egress (s : State) (peer pa n : Nat) (op : HostOp) (v : Nat) : State :=
  if !Config.policyAllows peer || decide (s.hubCycle < s.mgmt.egressFree) then s.denied
  else
    let s : State := { s with mgmt := { s.mgmt with egressFree := s.hubCycle + 8 * n } }
    if s.agentDead peer then s
    else match op with
      | .read => s.postReq none none 0 0 0 0 0 noFields [reqElem (.peer peer) 0 pa n .read []]
      | .write => s.postReq none none 0 0 0 0 0 noFields [reqElem (.peer peer) 0 pa n .write (toBytes v n)]
      | .atomic _ _ => s

/-- The type of a number of some bytes (R238). -/
def numberType (n : Nat) : Nat := match n with | 4 => 9 | 8 => 11 | 16 => 2 | _ => 0

/-- What the host or the firmware does to bytes at hand. Atomic operations are the host's alone (R385). -/
def State.hostActs (s : State) (pa n : Nat) (op : HostOp) (v : Nat) (firmware : Bool) : State :=
  let key := memKey s.hubid pa
  match op with
  | .read => if firmware then s else s.outsideRead key n hostAgent
  | .write => s.homeWrite pa (toBytes v n)
  | .atomic fn d =>
    if !firmware && pa % n == 0 && [4, 8, 16].contains n && decide (fn < 8) then
      s.homeWrite pa (toBytes (rmwValue fn (numberType n) (readNat s.mem key n) (v % 2 ^ (8 * n)) (d % 2 ^ (8 * n))).1 n)
    else s

/-- HOST_MEMORY_ACCESS (R216, R385): the host reads, writes or changes device memory, or its own coherent memory, after publication and
by links that are UP. An access of the firmware to memory stays in its window (R390). The answer goes to the host. A line of a dead memory
die is not served (R383). -/
def execHostMemoryAccess (pa n : Nat) (op : HostOp) (v : Nat) (firmware : Bool) (s : State) : Host.Outcome State Fault Refusal :=
  match targetOf s.hubid pa with
  | .peer a _ => .next (if firmware && s.awake then s.egress a pa n op v else s)
  | t =>
    let off := match t with | .own o => o | _ => 2 ^ 39
    if !s.awake || (!firmware && !s.hears hostAgent) then .next s
    else if firmware && !firmwareWindow off n then .next s.denied
    else
      let key := memKey s.hubid pa
      match s.reachLines (op != .read) (linesOf key n) with
      | (s, true) => .next (s.comeAgain (.hostMemoryAccess pa n op v firmware))
      | (s, false) => .next (if (s.hostFault 0 key).isSome then s else s.hostActs pa n op v firmware)

/-! ### Peers' requests (R374, R375) -/

/-- The window of a requester: what it has applied last, newest first. -/
def State.homeWin (s : State) (a : Nat) : List (Nat × HomeStatus × Nat) := match s.homeWins.find? fun w => w.1 == a with | some w => w.2 | none => []

/-- Whether a peer's access meets an unpublished intent of a core that is not the peer's (R221). -/
def State.homeClash (s : State) (agent off n : Nat) : Bool :=
  (({ s with intents := s.intents.filter fun i => i.home != some agent } : State).conflict? hubCore (lineOf off)
    (lineMask (lineOf off) off n)).isSome

/-- The line of a request (R373): where it names none, that of its element or 0. -/
def homeLine : HomeOp → Nat
  | .read off _ => lineOf off
  | .write off _ => lineOf off
  | .atomic off _ _ _ _ _ => lineOf off
  | .own line => line
  | .stage _ elem _ _ _ _ => lineOf elem
  | .publish _ _ => 0

/-- Whether a request reaches a line, whose release records are published first (R216). -/
def homeReaches : HomeOp → Bool
  | .publish _ _ => false
  | .stage _ _ _ _ _ _ => false
  | _ => true

/-- Bytes that a peer has written are noticed by it no more (R213). -/
def State.peerWrote (s : State) (agent off n : Nat) : State :=
  let mask := lineMask (lineOf off) off n
  let left := mapWhere (fun (i : Intent) => i.line == lineOf off && i.home == some agent) (fun i => { i with mask := i.mask &&& ~~~ mask }) s.intents
  { s with intents := left.filter fun i => i.mask != 0 }

/-- The release record of a peer's atomic that releases (R215). -/
def State.peerReleases (s : State) (agent line : Nat) (rel : Option (Nat × Nat)) : State :=
  match rel with
  | none => s
  | some (core, epoch) =>
    let rest := s.recs.filter fun r => !(r.line == line && ((r.core == core && r.home == some agent) || r.published))
    { s with recs := rest ++ [⟨line, core, some agent, 64, epoch, false⟩] }

/-- A request applied at this home: the state after it, its status and its result. A conflict, or poison under a read, is reported to the
requester and nothing is applied; a line that is taken arrives marked. -/
def State.applyHome (s : State) (agent : Nat) (op : HomeOp) : State × HomeStatus × Nat :=
  let pa (off : Nat) : Nat := s.hubid * 2 ^ 39 + off
  match op with
  | .read off n =>
    if s.homeClash agent off n then (s, .mme, 0)
    else if s.poison.contains (lineOf off) then (s, .poisoned, 0)
    else (s.outsideRead off n agent, .done, readNat s.mem off n)
  | .write off data =>
    if s.homeClash agent off data.length then (s, .mme, 0)
    else ((s.homeWrite (pa off) data).peerWrote agent off data.length, .done, 0)
  | .atomic off fn ty b d rel =>
    let n := memBytes ty
    if s.homeClash agent off n then (s, .mme, 0)
    else if s.poison.contains (lineOf off) then (s, .poisoned, 0)
    else
      let old := readNat s.mem off n
      ((s.homeWrite (pa off) (toBytes (rmwValue fn ty old b d).1 n)).peerReleases agent (lineOf off) rel, .done, old)
  | .publish core epoch =>
    match s.cores[core]? with
    | some c => (if epoch ≤ c.epoch then s.publishUpTo core epoch else s, .done, 0)
    | none => (s, .done, 0)
  | .stage ctx elem fn ty src val => ({ s with stage := (foldStage s.stage ⟨ctx, elem, fn, ty, src, val⟩).1 }, .done, 0)
  | .own line => (s.outsideOwn line agent, if s.poison.contains line then .poisoned else .done, 0)

/-- Whether a request carries a sequence number (R374). -/
def homeNumbered : HomeOp → Bool
  | .read _ _ => false
  | .own _ => false
  | _ => true

/-- Whether a request lies in this device's memory, within one line where it is an access (R347). -/
def homeOk : HomeOp → Bool
  | .read off n => decide (off + n ≤ 2 ^ 39) && decide (0 < n) && decide (lineOf off = lineOf (off + n - 1))
  | .write off data => decide (off + data.length ≤ 2 ^ 39) && decide (0 < data.length) && decide (lineOf off = lineOf (off + data.length - 1))
  | .atomic off _ ty _ _ _ => off % memBytes ty == 0 && decide (off < 2 ^ 39)
  | .own line => decide (line < 2 ^ 32)
  | _ => true

/-- The spoke links not UP that a request crosses (R6, R377): those of its line, or of the core that is to publish. -/
def State.homeDown (s : State) (op : HomeOp) : List Nat :=
  match op with
  | .publish core _ => s.publishDown core true false ++ s.downSpokes.filter (· == dieOf core)
  | .stage _ _ _ _ _ _ => []
  | .read off _ => s.spokesDown hubDie (lineOf off) false
  | op => s.spokesDown hubDie (homeLine op) true

/-- A peer's request not applied before: the answer "waking" where a link that it needs sleeps (R374, R377), the publications that it
triggers, or its effect; a line of a dead memory die is not served (R383). -/
def State.serveHome (s : State) (agent seq : Nat) (op : HomeOp) : State × Option (HomeStatus × Nat) :=
  let again (s : State) : State × Option (HomeStatus × Nat) := (s.comeAgain (.homeRequest agent seq op), none)
  let down := s.homeDown op
  if !down.isEmpty then
    let asleep := down.any fun d => match s.links[36 + d]? with | some k => k.st == .sleep | none => false
    let s := s.wakeSpokes down
    again (if asleep then s.sendMsg agent 1 (homeLine op) (.response agent seq .waking 0) else s)
  else
    let r := if homeReaches op then s.publishFor (homeLine op) else (s, false)
    if r.2 then again r.1
    else if homeReaches op && (r.1.hostFault 0 (homeLine op * 128)).isSome then (r.1, none)
    else
      let a := r.1.applyHome agent op
      (a.1, some a.2)

/-- HOME_REQUEST (R374, R375, R380, R387): a peer's request is applied at most once: one whose number is in the window gets its stored
result again, one below the window is dropped. -/
def execHomeRequest (agent seq : Nat) (op : HomeOp) (s : State) : Host.Outcome State Fault Refusal :=
  if agent ≥ 4096 || !s.outsider agent || !s.hears agent || !(homeOk op) then .next s
  else
    let reply (s : State) (r : HomeStatus × Nat) : State := s.sendMsg agent 1 (homeLine op) (.response agent seq r.1 r.2)
    let win := s.homeWin agent
    let top := win.foldl (fun m p => max m p.1) 0
    match win.find? fun p => homeNumbered op && p.1 == seq with
    | some p => .next (reply s p.2)
    | none =>
      if homeNumbered op && !win.isEmpty && decide (seq + 64 ≤ top) then .next s
      else match s.serveHome agent seq op with
        | (s, none) => .next s
        | (s, some r) =>
          if !(homeNumbered op) then .next (reply s r)
          else
            let new := max top seq
            let kept := ((seq, r) :: win).filter fun (p : Nat × HomeStatus × Nat) => decide (new < p.1 + 64)
            .next (reply { s with homeWins := putKey s.homeWins agent kept } r)

end Sys2Proof.Machine
end

