-- ==== Sys2Proof/Machine/Manage.lean ====
section
/-! DEFINITION. Firmware, attestation, power, soft errors and registers (R4, R386 to R394). -/

namespace Sys2Proof.Machine
open Sys2Proof

/-! ### Boot (R386, R387) -/

/-- Whether an image passes the steps of the boot ROM (R386): its signature verifies under the vendor key, and its version is new
enough. -/
def Firmware.accepts (f : Firmware) (img : FwImage) : Bool :=
  hssVerify Config.vendorKey img.signature img.bytes && decide (f.minVersion ≤ img.version % 2 ^ 32)

/-- The ROM jumps to an image that has passed. -/
def Firmware.start (f : Firmware) (img : FwImage) : Firmware :=
  { f with started := true, measurement := digest img.bytes, version := img.version % 2 ^ 32 }

/-- The ROM tries again in 10 s. -/
def Firmware.retry (f : Firmware) (now : Nat) : Firmware := { f with retryAt := now + 10000000000 }

/-- BOOT (R386, R387): the ROM reads the image of the flash, once after reset. An image that fails leads to the recovery server at
once. -/
def execBoot (img : FwImage) (s : State) : Host.Outcome State Fault Refusal :=
  if s.fw.tried then .next s
  else
    let f := { s.fw with tried := true, flash := some img, retryAt := s.hubCycle }
    .next { s with fw := if f.accepts img then f.start img else f }

/-- RECOVERY_RETRY (R387): an image of the recovery server; on success it is written to flash. -/
def execRecoveryRetry (img : FwImage) (s : State) : Host.Outcome State Fault Refusal :=
  let f := s.fw
  if !f.tried || f.started || decide (s.hubCycle < f.retryAt) then .next s
  else .next { s with fw := if f.accepts img then { f.start img with flash := some img } else f.retry s.hubCycle }

/-- MINIMUM_VERSION_RAISE (R387): by a running image, never lowered. -/
def execMinimumVersionRaise (v : Nat) (s : State) : Host.Outcome State Fault Refusal :=
  .next (if s.fw.started then { s with fw := { s.fw with minVersion := max s.fw.minVersion (v % 2 ^ 32) } } else s)

/-! ### Attestation and debug access (R389, R394) -/

/-- A new request replaces one in progress and clears DONE. -/
def Mgmt.ask (m : Mgmt) (nonce : Nat) : Mgmt := { m with pending := some (nonce % 2 ^ 256), done := false }

/-- ATTREQ (R389, R394): the host writes the nonce's last byte; a dead host's writes are dropped (R380). -/
def execAttreq (nonce : Nat) (s : State) : Host.Outcome State Fault Refusal :=
  .next (if s.awake && !s.agentDead hostAgent then { s with mgmt := s.mgmt.ask nonce } else s)

/-- MANAGEMENT_ATTESTATION_REQUEST (R389): a nonce over the management Ethernet port. -/
def execManagementAttestationRequest (nonce : Nat) (s : State) : Host.Outcome State Fault Refusal :=
  .next (if s.awake then { s with mgmt := s.mgmt.ask nonce } else s)

/-- The signed bytes of a report (R389): bytes 0 to 127. -/
def State.reportBody (s : State) (nonce : Nat) : List Byte :=
  toBytes nonce 32 ++ sha256 Config.romBytes ++ toBytes s.fw.measurement 32 ++ toBytes s.fw.version 4 ++
  toBytes s.fw.minVersion 4 ++ toBytes Config.serial 8 ++ toBytes (ofBool (s.mgmt.debug || Config.debugFuse)) 4 ++ toBytes 0 12

/-- ATTESTATION_DONE (R389, R394): the report of the request in progress is readable. -/
def execAttestationDone (s : State) : Host.Outcome State Fault Refusal :=
  match s.mgmt.pending with
  | none => .next s
  | some nonce =>
    let body := s.reportBody nonce
    .next { s with mgmt := { s.mgmt with pending := none, done := true,
                                         report := body ++ signature body ++ publicKey } }

/-- DEBUG_CHALLENGE (R394): a debug agent asks for extended debug access, with a challenge signed under the vendor key; where the fuse is
set, no signature is needed. -/
def execDebugChallenge (challenge : Nat) (signature : List Byte) (s : State) : Host.Outcome State Fault Refusal :=
  .next (if Config.debugFuse || hssVerify Config.vendorKey signature (toBytes challenge 32) then
    { s with mgmt := { s.mgmt with debug := true } } else s)

/-- A debug agent with extended access halts a crew, or lets it run again (R394). -/
def execHaltCrew (uid crew : Nat) (s : State) : Host.Outcome State Fault Refusal :=
  let k := (uid, crew)
  let halted := if s.mgmt.halted.contains k then s.mgmt.halted.filter (· != k) else s.mgmt.halted ++ [k]
  .next (if s.mgmt.debug then { s with mgmt := { s.mgmt with halted } } else s)

/-! ### Power (R391, R392) -/

/-- PWRLIM as written: below 300 it is 300, above CAP it is CAP. -/
def clampLimit (v : Nat) : Nat := max 300 (min (v % 2 ^ 16) powerCap)

/-- PWRLIM (R390, R392). -/
def execPwrlim (v : Nat) (s : State) : Host.Outcome State Fault Refusal :=
  .next (if s.awake then { s with power := { s.power with limit := clampLimit v } } else s)

/-- The clock at a sample (R391): lowered where the last sample asked for it, else raised where the draw is 5 % or more below LIMIT. -/
def Power.step (p : Power) (draw : Nat) : Nat :=
  if p.lower then max 250 (p.freq - 25)
  else if 100 * draw ≤ 95 * p.limit then min 1250 (p.freq + 25)
  else p.freq

/-- POWER_SAMPLE (R391, R392): every 10 µs the limiter samples the draw. -/
def execPowerSample (draw : Nat) (s : State) : Host.Outcome State Fault Refusal :=
  if s.hubCycle < s.power.sampledAt + 10000 then .next s
  else
    let p := s.power
    let d := draw % 2 ^ 16
    let freq := p.step d
    .next { s with power := { p with power := d, freq, capped := freq == 250 && decide (p.limit < d), lower := decide (p.limit < d),
                                     sampledAt := s.hubCycle } }

/-! ### The scrubber (R393) -/

/-- A line marked uncorrectable. -/
def State.markBad (s : State) (p : ScrubAt) : State :=
  match p with
  | .l1 core ctx vline =>
    { s with l1 := mapWhere (fun l => l.core == core && l.ctx == ctx && l.vline == vline) (fun l => { l with bad := true }) s.l1 }
  | .register uid crew lane code =>
    if (s.crew? uid crew).isSome then { s with badRegs := (s.badRegs ++ [(uid, crew, if code < 0x110 then lane else 32, code)]).eraseDups } else s
  | .memory line => { s with poison := (s.poison ++ [line]).eraseDups }
  | .scratch uid line => s.updBlock uid fun b => { b with body := { b.body with bad := (b.body.bad ++ [line]).eraseDups } }

/-- SCRUB (R393): the scrubber reads a line; a repair changes no data. -/
def execScrub (place : ScrubAt) (found : ScrubRes) (s : State) : Host.Outcome State Fault Refusal :=
  .next (match found with
    | .clean => s
    | .correctable => { s with mgmt := { s.mgmt with ce := (s.mgmt.ce + 1) % 2 ^ 32 } }
    | .uncorrectable => { s.markBad place with mgmt := { s.mgmt with ue := (s.mgmt.ue + 1) % 2 ^ 16 } })

/-! ### Registers without an event of their own (R4) -/

/-- A register of a context slot by its offset (R324, R352): those that the host writes. -/
def Context.writeReg (c : Context) (off v : Nat) : Context :=
  match off with
  | 0x10 => { c with root := bitsOf v 13 39 * 2 ^ 13 }
  | 0x18 => { c with tvec := bitsOf v 0 53 }
  | 0x20 => { c with tmask := bitsOf v 0 19 }
  | 0x28 => { c with sbase := bitsOf v 0 53 }
  | 0x30 => { c with ssize := bitsOf v 0 48 }
  | 0x38 => { c with rslot := bitsOf v 0 32 }
  | 0x40 => { c with dbase := bitsOf v 32 16, dcount := bitsOf v 0 17 }
  | 0x48 => { c with seed := bitsOf v 0 64 }
  | 0x50 => { c with resetus := bitsOf v 32 32, drainus := bitsOf v 0 32 }
  | 0x58 => { c with lbase := bitsOf v 0 53 }
  | 0x60 => { c with log2n := bitsOf v 0 5 }
  | 0x68 => { c with hbase := bitsOf v 0 53 }
  | 0x70 => { c with log2h := bitsOf v 0 5 }
  | 0x80 => { c with pfbase := bitsOf v 0 53 }
  | 0x88 => { c with log2p := bitsOf v 0 5 }
  | 0x98 => { c with xbase := bitsOf v 0 53 }
  | 0xA0 => { c with nexp := bitsOf v 0 25 }
  | _ => c

/-- Whether the registers of a slot may be written (R324). -/
def Context.writable (c : Context) : Bool := c.state == .free || c.state == .ready || c.state == .saved

/-- A register of a queue by its offset (R298): ignored while EN is set; QCFG with EN clear is no binding. -/
def Queue.writeReg (q : Queue) (off v : Nat) : Queue :=
  if q.en then q
  else match off with
    | 0x00 => if bitAt v 31 then q else q.setCfg v
    | 0x08 => { q with cbase := bitsOf v 0 53 }
    | _ => q

/-- A register of the checkpoint engine by its offset (R367). -/
def Checkpoint.writeReg (k : Checkpoint) (off v : Nat) : Checkpoint :=
  match off with
  | 0x08 => { k with ctxs := bitsOf v 0 64 }
  | 0x10 => { k with agent := bitsOf v 0 12 }
  | 0x18 => { k with base := bitsOf v 0 64 }
  | _ => k

/-- PCTL without a change of EN (R376): only while the port is DOWN or FENCED. -/
def Link.writeCtl (k : Link) (v : Nat) : Link :=
  if (k.st = .down ∨ k.st = .fenced) ∧ k.en = bitAt v 31 then k.setCtl v else k

/-- The agent of a row by its offset from 0x60_0000 (R379). -/
def agentOfRow (off : Nat) : Option Nat :=
  if off < 0x10000 then some (off / 16)
  else if off < 0x10080 then some (dieAgent ((off - 0x10000) / 16))
  else if off < 0x10090 then some hostAgent
  else none

/-- AROUTE of an agent (R379). -/
def State.writeRoute (s : State) (off v : Nat) : State :=
  match agentOfRow off with
  | none => s
  | some a => if off % 16 = 8 ∧ s.agentKnown a then s.setAgent a { s.agent a with route := bitsOf v 0 36 } else s

/-- A write to BAR0 that no event of its own stands for (R4): RW fields take the value, everything else ignores it. -/
def State.writeReg (s : State) (offset v : Nat) : State :=
  if 0x100000 ≤ offset ∧ offset < 0x108000 then
    let n := (offset - 0x100000) / 32
    s.putQueue n ((s.queue n).writeReg (offset % 32) v)
  else if 0x200000 ≤ offset ∧ offset < 0x204000 then
    s.updCtx ((offset - 0x200000) / 256) fun c => if c.writable then c.writeReg (offset % 256) v else c
  else if 0x300000 ≤ offset ∧ offset < 0x300030 then { s with ckpt := s.ckpt.writeReg (offset - 0x300000) v }
  else if 0x500000 ≤ offset ∧ offset < 0x500900 then
    if offset % 64 = 0 then s.updLink ((offset - 0x500000) / 64) fun k => k.writeCtl v else s
  else if 0x600000 ≤ offset ∧ offset < 0x610090 then s.writeRoute (offset - 0x600000) v
  else s

/-- REGISTER_WRITE (R4, R298, R324, R352, R367, R376, R379, R387): a write by the host or by the firmware; a dead host's are dropped
(R380). -/
def execRegisterWrite (offset value : Nat) (firmware : Bool) (s : State) : Host.Outcome State Fault Refusal :=
  .next (if !s.awake || (!firmware && s.agentDead hostAgent) then s else if firmware && offset == 0x6F0000 then s.denied else s.writeReg offset value)

end Sys2Proof.Machine
end

