-- ==== Sys2Proof/Machine/Registers.lean ====
section
/-! DEFINITION. What a read of a BAR0 register returns (R4): the current value of RW, RO and W1C fields, 0 for WO ones, and 0 in
reserved bits. A read changes nothing. -/

namespace Sys2Proof.Machine
open Sys2Proof

/-! ### The codes of the STATE fields -/

/-- STATE of QSTAT (R298). -/
def QState.code : QState → Nat
  | .unbound => 0
  | .empty => 1
  | .waiting => 2
  | .ready => 3
  | .error => 4

/-- STATE of CSTAT (R324). -/
def CtxState.code : CtxState → Nat
  | .free => 0
  | .ready => 1
  | .running => 2
  | .draining => 3
  | .saved => 4
  | .faulted => 5
  | .reset => 6

/-- STATE of KSTAT (R367). -/
def KState.code : KState → Nat
  | .idle => 0
  | .cutting => 1
  | .streaming => 2
  | .done => 3
  | .failed => 4

/-- STATE of PSTAT (R376). -/
def LinkState.code : LinkState → Nat
  | .down => 0
  | .training => 1
  | .up => 2
  | .sleep => 3
  | .waking => 4
  | .fenced => 5

/-- STATE of ASTAT (R379). -/
def AState.code : AState → Nat
  | .absent => 0
  | .live => 1
  | .fencing => 2
  | .striking => 3
  | .fenced => 4

/-! ### The registers of each unit

Each answers the register that begins at an offset, none where none does. -/

/-- A queue's registers (R298): QTAIL is WO. -/
def Queue.readReg (q : Queue) (off : Nat) : Option Nat :=
  match off with
  | 0x00 => some q.cfg
  | 0x08 => some q.cbase
  | 0x10 => some 0
  | 0x18 => some (q.head % 2 ^ 32 * 2 ^ 32 + q.st.code * 2 ^ 29 + q.cause * 2 ^ 24)
  | _ => none

/-- A context slot's registers (R324, R352): CCMD, CHDOOR, CPFDOOR, CEXCMD and CTLBINV are WO. -/
def Context.readReg (c : Context) (off : Nat) : Option Nat :=
  match off with
  | 0x00 => some 0
  | 0x08 => some (c.logcnt % 2 ^ 32 * 2 ^ 32 + c.lastcls * 2 ^ 24 + c.state.code)
  | 0x10 => some c.root
  | 0x18 => some c.tvec
  | 0x20 => some c.tmask
  | 0x28 => some c.sbase
  | 0x30 => some c.ssize
  | 0x38 => some c.rslot
  | 0x40 => some (c.dbase * 2 ^ 32 + c.dcount)
  | 0x48 => some c.seed
  | 0x50 => some (c.resetus * 2 ^ 32 + c.drainus)
  | 0x58 => some c.lbase
  | 0x60 => some c.log2n
  | 0x68 => some c.hbase
  | 0x70 => some c.log2h
  | 0x78 => some 0
  | 0x80 => some c.pfbase
  | 0x88 => some c.log2p
  | 0x90 => some 0
  | 0x98 => some c.xbase
  | 0xA0 => some c.nexp
  | 0xA8 => some 0
  | 0xB0 => some 0
  | 0xB8 => some c.ctlbseq
  | _ => none

/-- The checkpoint engine's registers (R367): KCMD is WO. -/
def Checkpoint.readReg (k : Checkpoint) (off : Nat) : Option Nat :=
  match off with
  | 0x00 => some 0
  | 0x08 => some k.ctxs
  | 0x10 => some k.agent
  | 0x18 => some k.base
  | 0x20 => some (k.pages * 2 ^ 32 + k.cause * 2 ^ 3 + k.state.code)
  | 0x28 => some k.seq
  | _ => none

/-- A fabric port's registers (R376). -/
def Link.readReg (k : Link) (off : Nat) : Option Nat :=
  match off with
  | 0x00 => some (ofBool k.en * 2 ^ 31 + ofBool k.slp * 2 ^ 30 + k.lmask * 2 ^ 8 + k.ord * 2 ^ 4)
  | 0x08 => some (k.peer * 2 ^ 52 + k.pinc * 2 ^ 44 + k.st.code * 2 ^ 4 + k.lanes)
  | 0x10 => some k.fecc
  | 0x18 => some (k.retx * 2 ^ 32 + k.bad)
  | _ => none

/-- An agent's row (R379). -/
def Agent.readReg (a : Agent) (off : Nat) : Option Nat :=
  match off with
  | 0x0 => some (a.inc * 2 ^ 8 + a.state.code)
  | 0x8 => some a.route
  | _ => none

/-- The row at an offset from 0x60_0000: that of the device's own number is unused (R379). -/
def State.readAgent (s : State) (off : Nat) : Option Nat :=
  (agentOfRow off).bind fun a => (if s.agentKnown a then s.agent a else Agent.reset).readReg (off % 16)

/-- HUBID (R376). -/
def State.readHubid (s : State) : Nat := s.hubid + ofBool s.hubidSet * 2 ^ 12

/-- The power and management registers at an offset from 0x70_0000 (R392 to R394): ATTREQ is WO. The report reads as zeros until
DONE (DESIGN CHOICE, log entry 82). -/
def State.readMgmt (s : State) (off : Nat) : Option Nat :=
  if off = 0x00 then some s.power.limit
  else if off = 0x08 then some powerCap
  else if off = 0x10 then some (s.power.power * 2 ^ 32 + ofBool s.power.capped * 2 ^ 12 + s.power.freq)
  else if off = 0x40 then some (s.mgmt.deny * 2 ^ 48 + s.mgmt.ue * 2 ^ 32 + s.mgmt.ce)
  else if 0x80 ≤ off ∧ off < 0xA0 ∧ off % 8 = 0 then some 0
  else if off = 0xA0 then some (ofBool s.mgmt.done)
  else if 0x100 ≤ off ∧ off < 0x200 ∧ off % 8 = 0 then
    some (if s.mgmt.done then fromBytes ((s.mgmt.report.drop (off - 0x100)).take 8) else 0)
  else none

/-- What a read of BAR0 returns: the register that begins at an offset, none where no rule puts one (R4). -/
def State.readReg (s : State) (offset : Nat) : Option Nat :=
  if 0x100000 ≤ offset ∧ offset < 0x108000 then (s.queue ((offset - 0x100000) / 32)).readReg (offset % 32)
  else if 0x200000 ≤ offset ∧ offset < 0x204000 then (s.ctxs[(offset - 0x200000) / 256]?).bind fun c => c.readReg (offset % 256)
  else if 0x300000 ≤ offset ∧ offset < 0x300030 then s.ckpt.readReg (offset - 0x300000)
  else if 0x400000 ≤ offset ∧ offset < 0x440000 then (if offset % 4 = 0 then some (s.daily ((offset - 0x400000) / 4)).toNat else none)
  else if 0x500000 ≤ offset ∧ offset < 0x500900 then (s.links[(offset - 0x500000) / 64]?).bind fun k => k.readReg (offset % 64)
  else if offset = 0x5F0000 then some s.readHubid
  else if 0x600000 ≤ offset ∧ offset < 0x610090 then s.readAgent (offset - 0x600000)
  else if offset = 0x6F0000 then some 0
  else if 0x700000 ≤ offset ∧ offset < 0x700200 then s.readMgmt (offset - 0x700000)
  else none

end Sys2Proof.Machine
end

