-- ==== Sys2Proof/Machine/Moves.lean ====
section
/-! DEFINITION. What may come about between instructions: the moves that a state allows, which a free choice orders,
the instruction fetch, and the start of an instruction's issue. -/

namespace Sys2Proof.Machine
open Sys2Proof

/-- The refusal of the decoder as the instruction's own fault: ILL in every lane of the bundle (R66). -/
def raiseIll (detail : Nat) (s : State) : Host.Outcome State Fault Refusal :=
  runInstr 0 4 (fun _ => detail) ⟨7, false, 0, 0, 0, 0, 0, 0, false, 0, false, false, .none⟩ s [] fun x => .done x.s0 []

/-- The bundles of a picked crew, the one with the lower lane first, as they read their instructions: both in this cycle, so that what
the first does to the buffer does not reach the second (R107, R111). -/
def State.pickedIssues (s : State) (p : Pickable) : State × List Issue :=
  let ls := sortBy (fun ls : List Nat => ls.headD 32) p.ready
  (s.markPicked p.uid p.ci ls, ls.map (s.readIssue p.uid p.ci))

/-- The core clock in MHz (R10, R391). -/
def State.freq (s : State) : Nat := s.power.freq

/-! ### What may come next -/

/-- An event of the device's own units, as its meaning. -/
abbrev Move := State → Host.Outcome State Fault Refusal

/-- Whether an event would change the state: only then does it occur. -/
def State.does (s : State) (f : Move) : Bool :=
  match f s with | .next t => decide (t ≠ s) | _ => false

/-- Whether a time has come. -/
def State.past (s : State) (t : Nat) : Bool := decide (t ≤ s.hubCycle)

/-- Events of contexts and launches whose time has come (R296, R304, R312, R318, R341). -/
def State.dueKernel (s : State) : List Move :=
  (s.ctxs.zipIdx.flatMap fun c =>
    ((c.1.pkgs.filter fun p => p.ending.isSome).map fun p => execClapperCountdownElapse c.2 p.id) ++
    (if (c.1.drainEnd.map s.past).getD false then [execDrainDeadline c.2] else []) ++
    (if (c.1.resetEnd.map s.past).getD false then [execResetDeadline c.2] else [])) ++
  (if s.past ((s.periods + 1) * budgetPeriod) then [execBudgetPeriod] else []) ++
  ((s.launches.filter s.deadlinePassed).map fun l => execLaunchDeadline l.tag) ++
  ((s.dies.zipIdx.filter fun d => d.1.called.isSome).map fun d => execDirectorWatchdog d.2)

/-- Events of crews whose time has come: the flush of gathered increments and the timer (R338, R363). -/
def State.dueCrews (s : State) : List Move :=
  (s.blocks.filter fun b => b.state == .resident).flatMap fun b => b.body.crews.zipIdx.flatMap fun c =>
    (if c.1.dailyAge.isSome then [execDailyFlush b.uid c.2] else []) ++
    (if c.1.tmr ≠ 0 ∨ c.1.fired.isSome ∨ !c.1.owed.isEmpty then [execCrewTimerFire b.uid c.2] else [])

/-- Events of the link whose time has come (R372, R374, R377 to R379, R384). -/
def State.dueLinks (s : State) : List Move :=
  (s.reqs.flatMap fun r => (r.elems.zipIdx.filter fun e => e.1.sent && e.1.answer.isNone && s.past (e.1.since + requestTimeout)).map
    fun e => execRequestTimeout r.id e.2) ++
  (s.links.zipIdx.flatMap fun k =>
    ((k.1.tx.filter fun t => s.past (t.sentAt + 2000)).map fun t => execRetransmitTimeout k.2 t.seq) ++
    (if k.1.st = .up && k.1.manyBad s.hubCycle then [execPortErrors k.2 0] else []) ++
    (if k.1.st = .training && s.past (k.1.since + 10000) then [execTrainingTimeout k.2] else []) ++
    (if k.1.st = .up && k.1.slp && s.past (k.1.lastData + 10000) then [execPortIdle k.2] else []) ++
    (if k.1.st = .waking && s.past (k.1.since + 40000) then [execWakeTimeout k.2] else []) ++
    (if 36 ≤ k.2 && k.1.outSince.isSome && !k.1.suspect then [execSpokeSuspect (k.2 - 36)] else [])) ++
  (if s.past (s.beatSent + 100000) then [execHeartbeatSend] else []) ++
  ((s.agents.filter fun a => a.2.state == .live && s.past (a.2.lastBeat + 400000)).map fun a => execDeclare a.1) ++
  ((s.agents.filter fun a => a.2.state == .fencing && s.past (a.2.since + 5000)).map fun a => execAgentFenced a.1) ++
  ((s.agents.filter fun a => a.2.state == .striking && s.past (a.2.since + 30000000)).map fun a => execStrikeComplete a.1)

/-- The limiter's sample, every 10 µs (R391): the module's draw is a free value where no event gives it. -/
def State.duePower (s : State) : List Move :=
  if s.past (s.power.sampledAt + 10000) then
    [fun s => execPowerSample (Config.choose s.choices 65535) { s with choices := s.choices + 1 }] else []

/-- The events whose time has come: they occur before anything else. -/
def State.due (s : State) : List Move := (s.dueKernel ++ s.dueCrews ++ s.dueLinks).filter s.does ++ s.duePower

/-- What the units of a block and of its core may do next. -/
def Block.moves (b : Block) : List Move :=
  (if b.state = .retiring then [execBlockRetire b.uid] else []) ++
  (if b.body.reel.sweep.isEmpty then [] else [execReelSweep b.uid]) ++
  ((b.body.casts.filter fun m => m.sent.isSome && !m.counted).map fun m => execCastArrival b.uid m.key) ++
  ((b.body.pkgs.filter fun m => m.sent.isSome && !m.counted).map fun m => execClapperRootArrival b.uid m.key) ++
  (if b.cmds.isEmpty then [] else [execArrayPick b.core]) ++
  (b.cmds.flatMap fun k =>
    (if k.waiting.isSome then [execTileAllocate k.id] else []) ++
    [execTileCommandComplete k.id])

/-- What the units of a core may do next. -/
def State.coreMoves (s : State) : List Move :=
  s.cores.zipIdx.flatMap fun c =>
    (if c.1.pendingCarve.isSome then [execCarveApply c.2] else []) ++
    (if c.1.array.isSome then [execImageLoaded c.2, execKStepEnd c.2] else [])

/-- What copies and retakes may do next. -/
def State.copyMoves (s : State) : List Move :=
  (s.copies.flatMap fun c => [execCopyStart c.id, execCopyFinish c.id,
    execFlagRaise c.id]) ++
  ((s.retakes.filter fun r => r.res.isNone).map fun r => execRetakeRequestDone r.id)

/-- What the queues, launches and directors may do next. -/
def State.kernelMoves (s : State) : List Move :=
  (s.queues.flatMap fun q => [execTailReread q.1, execWaitWordChange q.1]) ++
  (if s.queues.isEmpty then [] else [execArbiterPick]) ++
  (s.launches.flatMap fun l =>
    (if l.state = .splitting then [execLaunchSplit l.tag, execTakeOpened l.tag] else []) ++
    (if l.complete then [execLaunchComplete l.tag] else [])) ++
  ((s.slates.map (·.launch)).eraseDups.map fun t => execSlateRelease t) ++
  (((s.held.map (·.1)).eraseDups).map fun d => execMailboxPost d) ++
  ((s.dies.zipIdx.filter fun d => !d.1.mailbox.isEmpty || d.1.serving.isSome || s.blocks.any fun b => b.die == d.2 && b.state == .placing).map
    fun d => execBlockAdmit d.2)

/-- What waits to post in a page-fault ring. -/
def State.pageWaits (s : State) : List Requester :=
  (s.blocks.flatMap fun b =>
    (b.body.crews.zipIdx.flatMap fun c => (c.1.threads.zipIdx.filter fun t => match t.1.st with
      | .parked (.pagePost _ _ _) => true
      | _ => false).map fun t => Requester.lane b.uid c.2 t.2) ++
    ((b.cmds.filter fun k => k.hold.isSome).map fun k => Requester.tile k.id)) ++
  ((s.copies.filter fun c => match c.st with | .held _ => true | _ => false).map fun c => Requester.copy c.id)

/-- What the hub may do next for contexts and pages. -/
def State.contextMoves (s : State) : List Move :=
  (s.ctxs.zipIdx.flatMap fun c => match c.1.state with
    | .draining => [execDrained c.2, execSaveStepComplete c.2] ++ (if c.1.hbase = 0 then [] else [execHostCallPost c.2])
    | .reset => [execResetComplete c.2]
    | .running => if c.1.hbase = 0 then [] else [execHostCallPost c.2]
    | _ => []) ++
  (s.calls.map fun e => execHostCallReply e.ctx e.num) ++
  (s.pageWaits.map fun w => execPageFaultPost w) ++
  (s.faults.map fun e => execPageFaultReply e.ctx e.num) ++
  ((s.walks.filter fun w => !w.done).map fun w => execTlbWalkComplete w.id) ++
  (if s.invals.isEmpty then [] else [execTlbInvalidateComplete]) ++
  (if s.experts.any fun e => e.st == .fetching false then [execExpertFetchStart] else []) ++
  ((s.experts.filter fun e => e.st == .fetching true).map fun e => execExpertLand e.ctx e.id true) ++
  (match s.ckpt.state with
    | .cutting => [execCheckpointCutDone]
    | .streaming => [execCheckpointStreamDone true]
    | _ => [])

/-- What the link and the management may do next. -/
def State.linkMoves (s : State) : List Move :=
  (s.links.zipIdx.flatMap fun k => match k.1.st with
    | .sleep => if k.1.backlog.isEmpty then [] else [execPortWake k.2]
    | .waking => [execWakeReady k.2]
    | _ => []) ++
  (s.agents.flatMap fun a => match a.2.state with
    | .fencing => [execAgentFenced a.1]
    | .striking => [execStrikeComplete a.1]
    | _ => []) ++
  (if s.mgmt.pending.isSome then [execAttestationDone] else []) ++
  (if s.mgmt.debug then s.blocks.flatMap fun b => (List.range b.body.crews.length).map fun i => execHaltCrew b.uid i else [])

/-- The events that the device's own units may make next, in no order; those that bring something from outside stand in the
agenda. -/
def State.candidates (s : State) : List Move :=
  ((s.blocks.flatMap Block.moves) ++ s.coreMoves ++ s.copyMoves ++ s.kernelMoves ++ s.contextMoves ++ s.linkMoves).filter s.does

/-! ### What comes from outside -/

/-- An access that comes from outside the package, by its place in the order of a hub cycle: peers by agent number, then the host
(R231). -/
def outsideRank : Instr → Option Nat
  | .homeRequest agent _ _ => some agent
  | .hostMemoryAccess _ _ _ _ _ => some hostAgent
  | _ => none

/-- An event of the agenda whose time has come, accesses from outside apart. -/
def State.duePrompt (s : State) : Option (Nat × Instr) := s.agenda.find? fun e => decide (e.1 ≤ s.hubCycle) && (outsideRank e.2).isNone

/-- The access from outside that is served next: when the cores have acted in the hub cycle (R231). -/
def State.dueOutside (s : State) : Option (Nat × Instr) :=
  if (s.clkAcc + 1000) / s.freq = 0 then none
  else leastBy (fun (e : Nat × Instr) => (outsideRank e.2).getD 0)
    (s.agenda.filter fun e => decide (e.1 ≤ s.hubCycle) && (outsideRank e.2).isSome)

/-- The state from which an event of the agenda is executed. -/
def State.takeEvent (s : State) (e : Nat × Instr) : State := { s with agenda := s.agenda.erase e, news := s.news + 1 }

/-- The event that comes next: one whose time has come, else one of those that may come or none by a free choice, which is not
consulted where there is none. -/
def State.nextMove (s : State) : Option Move × State :=
  match s.due with
  | m :: _ => (some m, s)
  | [] =>
    let cs := s.candidates
    if cs.isEmpty then (none, s)
    else
      let r := s.choose cs.length
      (cs[r.1]?, r.2)

/-! ### The end of a cycle -/

/-- What is settled at the end of a cycle: barriers, completion records and regions of the blocks and the barriers of directors,
awaited words and packets, and the queues' states. -/
def State.settle (s : State) : State :=
  let s := s.settleAll
  let s := (s.blocks.filter (·.isDirector)).foldl (fun (s : State) b => ((s.settleRings b.uid).settleBarriers b.uid).settleMailbox b.uid) s
  let s := (s.blocks.filter fun b => b.state == .resident).foldl (fun (s : State) b => s.settleWords b.uid) s
  s.checkQueues

/-- One cycle ends and the next begins: the buffers take the lines that READY lanes lack, and outcomes of walks and requests that nobody
has taken are not kept. -/
def State.tick (s : State) : State := ((s.settle.tickClocks s.freq).fetchAll).dropEnded.dropBrought

/-- Whether a regroup is due: at the start of a cycle that some die counts as a multiple of 4. -/
def State.regroupDue (s : State) : Bool := s.turn == 0 && s.dies.any fun d => d.clock % 4 == 0

/-- The state before a word is fetched from it, with a block that is about to issue the word in all 32 lanes. -/
def fetchSheet : Sheet :=
  { Sheet.none with entry := 0x1000, gregs := 255, qregs := 8, kregs := 64, crews := 1, nx := 1, ny := 1, nz := 1,
                    reel := 1, pmode := 1, priv := 256 }

/-- The block of `State.withFetchWord`. -/
def fetchBlock : Block :=
  { uid := 0, ctx := 0, launch := 0, lin := 0, attempt := 0, state := .resident, die := 0, core := 0, rslot := 0,
    sheet := fetchSheet, isDirector := false,
    body := Body.create [{ Crew.create 0 255 64 0 0 0 0x1000 0 with bundles := [⟨List.range 32⟩] }],
    privBack := [], inside := false, snap := none, deferred := false, heldStage := [], tiles := List.replicate 16 Tile.unbound, cmds := [], late := [],
    vclock := 0, wantsArray := false }

/-- The launch of `State.withFetchWord`. -/
def fetchLaunch : Launch :=
  { tag := 0, ctx := 0, queue := 0, sheetAddr := 0, sheet := fetchSheet, state := .running, picked := 0,
    signal := none, ser := false, spawned := [0], attempts := [], retired := [], casts := [], regions := [], recorded := [] }

/-- A line that holds parcels from its start. -/
def fetchLine (ps : List Word) : IbLine :=
  { id := 0, core := 0, ctx := 0, vline := 32, data := ((ps.flatMap fun (p : Word) => toBytes p.toNat 4) ++ List.replicate 128 0).take 128,
    stale := false, lastUse := 0 }

end Sys2Proof.Machine
end

