-- ==== Sys2Proof/Machine/Dispatch.lean ====
section
/-! DEFINITION. The dispatch: one arm per constructor of Instr, one direct call of its meaning. -/

namespace Sys2Proof.Machine
open Sys2Proof

def exec (i : Instr) (s : State) : Host.Outcome State Fault Refusal :=
  match i with
  | .iadd w => Sys2Proof.Machine.execIadd w s
  | .iaddShort f => Sys2Proof.Machine.execIaddShort f s
  | .isub w => Sys2Proof.Machine.execIsub w s
  | .isubShort f => Sys2Proof.Machine.execIsubShort f s
  | .iaddc w => Sys2Proof.Machine.execIaddc w s
  | .isubb w => Sys2Proof.Machine.execIsubb w s
  | .imul w => Sys2Proof.Machine.execImul w s
  | .imulShort f => Sys2Proof.Machine.execImulShort f s
  | .imulh w => Sys2Proof.Machine.execImulh w s
  | .imad w => Sys2Proof.Machine.execImad w s
  | .idiv w => Sys2Proof.Machine.execIdiv w s
  | .irem w => Sys2Proof.Machine.execIrem w s
  | .imin w => Sys2Proof.Machine.execImin w s
  | .iminShort f => Sys2Proof.Machine.execIminShort f s
  | .imax w => Sys2Proof.Machine.execImax w s
  | .iabs w => Sys2Proof.Machine.execIabs w s
  | .ineg w => Sys2Proof.Machine.execIneg w s
  | .icmp w => Sys2Proof.Machine.execIcmp w s
  | .sel w => Sys2Proof.Machine.execSel w s
  | .andOp w => Sys2Proof.Machine.execAndOp w s
  | .andShort f => Sys2Proof.Machine.execAndShort f s
  | .orOp w => Sys2Proof.Machine.execOrOp w s
  | .xorOp w => Sys2Proof.Machine.execXorOp w s
  | .andn w => Sys2Proof.Machine.execAndn w s
  | .orn w => Sys2Proof.Machine.execOrn w s
  | .shl w => Sys2Proof.Machine.execShl w s
  | .shlShort f => Sys2Proof.Machine.execShlShort f s
  | .shr w => Sys2Proof.Machine.execShr w s
  | .sar w => Sys2Proof.Machine.execSar w s
  | .rol w => Sys2Proof.Machine.execRol w s
  | .bfx w => Sys2Proof.Machine.execBfx w s
  | .bfxs w => Sys2Proof.Machine.execBfxs w s
  | .bfi w => Sys2Proof.Machine.execBfi w s
  | .clz w => Sys2Proof.Machine.execClz w s
  | .ffs w => Sys2Proof.Machine.execFfs w s
  | .popc w => Sys2Proof.Machine.execPopc w s
  | .brev w => Sys2Proof.Machine.execBrev w s
  | .prmb w => Sys2Proof.Machine.execPrmb w s
  | .lea w => Sys2Proof.Machine.execLea w s
  | .mov w => Sys2Proof.Machine.execMov w s
  | .movShort f => Sys2Proof.Machine.execMovShort f s
  | .movl w => Sys2Proof.Machine.execMovl w s
  | .gets w => Sys2Proof.Machine.execGets w s
  | .pand w => Sys2Proof.Machine.execPand w s
  | .por w => Sys2Proof.Machine.execPor w s
  | .pxor w => Sys2Proof.Machine.execPxor w s
  | .pnot w => Sys2Proof.Machine.execPnot w s
  | .pmov w => Sys2Proof.Machine.execPmov w s
  | .nop w => Sys2Proof.Machine.execNop w s
  | .nopShort f => Sys2Proof.Machine.execNopShort f s
  | .bra w => Sys2Proof.Machine.execBra w s
  | .brx w => Sys2Proof.Machine.execBrx w s
  | .call w => Sys2Proof.Machine.execCall w s
  | .callx w => Sys2Proof.Machine.execCallx w s
  | .ret w => Sys2Proof.Machine.execRet w s
  | .jset w => Sys2Proof.Machine.execJset w s
  | .jclr w => Sys2Proof.Machine.execJclr w s
  | .wait w => Sys2Proof.Machine.execWait w s
  | .brk w => Sys2Proof.Machine.execBrk w s
  | .exit w => Sys2Proof.Machine.execExit w s
  | .yield w => Sys2Proof.Machine.execYield w s
  | .vote w => Sys2Proof.Machine.execVote w s
  | .shfl w => Sys2Proof.Machine.execShfl w s
  | .redux w => Sys2Proof.Machine.execRedux w s
  | .scanx w => Sys2Proof.Machine.execScanx w s
  | .matchLanes w => Sys2Proof.Machine.execMatchLanes w s
  | .elect w => Sys2Proof.Machine.execElect w s
  | .fadd w => Sys2Proof.Machine.execFadd w s
  | .faddShort f => Sys2Proof.Machine.execFaddShort f s
  | .fsub w => Sys2Proof.Machine.execFsub w s
  | .fmul w => Sys2Proof.Machine.execFmul w s
  | .fmulShort f => Sys2Proof.Machine.execFmulShort f s
  | .ffma w => Sys2Proof.Machine.execFfma w s
  | .fmin w => Sys2Proof.Machine.execFmin w s
  | .fminShort f => Sys2Proof.Machine.execFminShort f s
  | .fmax w => Sys2Proof.Machine.execFmax w s
  | .fcmp w => Sys2Proof.Machine.execFcmp w s
  | .fclass w => Sys2Proof.Machine.execFclass w s
  | .frnd w => Sys2Proof.Machine.execFrnd w s
  | .fexp w => Sys2Proof.Machine.execFexp w s
  | .flog w => Sys2Proof.Machine.execFlog w s
  | .frcp w => Sys2Proof.Machine.execFrcp w s
  | .frsq w => Sys2Proof.Machine.execFrsq w s
  | .fsqrt w => Sys2Proof.Machine.execFsqrt w s
  | .fdiv w => Sys2Proof.Machine.execFdiv w s
  | .fsin w => Sys2Proof.Machine.execFsin w s
  | .fcos w => Sys2Proof.Machine.execFcos w s
  | .expins w => Sys2Proof.Machine.execExpins w s
  | .expext w => Sys2Proof.Machine.execExpext w s
  | .cvt w => Sys2Proof.Machine.execCvt w s
  | .cvq w => Sys2Proof.Machine.execCvq w s
  | .cvd w => Sys2Proof.Machine.execCvd w s
  | .hadq w => Sys2Proof.Machine.execHadq w s
  | .cvrn w => Sys2Proof.Machine.execCvrn w s
  | .rand w => Sys2Proof.Machine.execRand w s
  | .rkey w => Sys2Proof.Machine.execRkey w s
  | .ragw w => Sys2Proof.Machine.execRagw w s
  | .segred w => Sys2Proof.Machine.execSegred w s
  | .rgrp w => Sys2Proof.Machine.execRgrp w s
  | .vxwalk w => Sys2Proof.Machine.execVxwalk w s
  | .front w => Sys2Proof.Machine.execFront w s
  | .qld w => Sys2Proof.Machine.execQld w s
  | .qldd w => Sys2Proof.Machine.execQldd w s
  | .qmov w => Sys2Proof.Machine.execQmov w s
  | .qadd w => Sys2Proof.Machine.execQadd w s
  | .qsub w => Sys2Proof.Machine.execQsub w s
  | .qmul w => Sys2Proof.Machine.execQmul w s
  | .qfma w => Sys2Proof.Machine.execQfma w s
  | .qdiv w => Sys2Proof.Machine.execQdiv w s
  | .qsqrt w => Sys2Proof.Machine.execQsqrt w s
  | .qneg w => Sys2Proof.Machine.execQneg w s
  | .qabs w => Sys2Proof.Machine.execQabs w s
  | .qcmp w => Sys2Proof.Machine.execQcmp w s
  | .qmid w => Sys2Proof.Machine.execQmid w s
  | .qbnd w => Sys2Proof.Machine.execQbnd w s
  | .qref w => Sys2Proof.Machine.execQref w s
  | .qcut w => Sys2Proof.Machine.execQcut w s
  | .qcutx w => Sys2Proof.Machine.execQcutx w s
  | .qfree w => Sys2Proof.Machine.execQfree w s
  | .qstat w => Sys2Proof.Machine.execQstat w s
  | .reelSweep uid => Sys2Proof.Machine.execReelSweep uid s
  | .retakeRequestDone id => Sys2Proof.Machine.execRetakeRequestDone id s
  | .ld w => Sys2Proof.Machine.execLd w s
  | .st w => Sys2Proof.Machine.execSt w s
  | .lda w => Sys2Proof.Machine.execLda w s
  | .stl w => Sys2Proof.Machine.execStl w s
  | .lds w => Sys2Proof.Machine.execLds w s
  | .sts w => Sys2Proof.Machine.execSts w s
  | .ldv w => Sys2Proof.Machine.execLdv w s
  | .stv w => Sys2Proof.Machine.execStv w s
  | .atom w => Sys2Proof.Machine.execAtom w s
  | .red w => Sys2Proof.Machine.execRed w s
  | .fence w => Sys2Proof.Machine.execFence w s
  | .wback w => Sys2Proof.Machine.execWback w s
  | .icinv w => Sys2Proof.Machine.execIcinv w s
  | .fetchb w => Sys2Proof.Machine.execFetchb w s
  | .pref w => Sys2Proof.Machine.execPref w s
  | .memoryResponse id elem ans => Sys2Proof.Machine.execMemoryResponse id elem ans s
  | .publish core epoch => Sys2Proof.Machine.execPublish core epoch s
  | .snoopRead die line who => Sys2Proof.Machine.execSnoopRead die line who s
  | .snoopInvalidate die line who => Sys2Proof.Machine.execSnoopInvalidate die line who s
  | .snoopOwn die line who => Sys2Proof.Machine.execSnoopOwn die line who s
  | .hostMemoryAccess pa n op v firmware => Sys2Proof.Machine.execHostMemoryAccess pa n op v firmware s
  | .homeRequest agent seq op => Sys2Proof.Machine.execHomeRequest agent seq op s
  | .exfetch w => Sys2Proof.Machine.execExfetch w s
  | .extest w => Sys2Proof.Machine.execExtest w s
  | .ecnt w => Sys2Proof.Machine.execEcnt w s
  | .dailyFlush uid crew => Sys2Proof.Machine.execDailyFlush uid crew s
  | .cpy w => Sys2Proof.Machine.execCpy w s
  | .cpym w => Sys2Proof.Machine.execCpym w s
  | .cpyd w => Sys2Proof.Machine.execCpyd w s
  | .cpyr w => Sys2Proof.Machine.execCpyr w s
  | .comb w => Sys2Proof.Machine.execComb w s
  | .seal w => Sys2Proof.Machine.execSeal w s
  | .bwait w => Sys2Proof.Machine.execBwait w s
  | .bpoll w => Sys2Proof.Machine.execBpoll w s
  | .flagr w => Sys2Proof.Machine.execFlagr w s
  | .flagRaise id => Sys2Proof.Machine.execFlagRaise id s
  | .copyStart id => Sys2Proof.Machine.execCopyStart id s
  | .copyFinish id => Sys2Proof.Machine.execCopyFinish id s
  | .mprec w => Sys2Proof.Machine.execMprec w s
  | .mloadb w => Sys2Proof.Machine.execMloadb w s
  | .mrun w => Sys2Proof.Machine.execMrun w s
  | .mzero w => Sys2Proof.Machine.execMzero w s
  | .mzeroFree w => Sys2Proof.Machine.execMzeroFree w s
  | .mscale w => Sys2Proof.Machine.execMscale w s
  | .mstat w => Sys2Proof.Machine.execMstat w s
  | .msave w => Sys2Proof.Machine.execMsave w s
  | .msaveStop w => Sys2Proof.Machine.execMsaveStop w s
  | .mrest w => Sys2Proof.Machine.execMrest w s
  | .tsl w => Sys2Proof.Machine.execTsl w s
  | .tss w => Sys2Proof.Machine.execTss w s
  | .twait w => Sys2Proof.Machine.execTwait w s
  | .twaitT w => Sys2Proof.Machine.execTwaitT w s
  | .mrecon w => Sys2Proof.Machine.execMrecon w s
  | .tileAllocate id => Sys2Proof.Machine.execTileAllocate id s
  | .arrayPick core => Sys2Proof.Machine.execArrayPick core s
  | .imageLoaded core => Sys2Proof.Machine.execImageLoaded core s
  | .kStepEnd core => Sys2Proof.Machine.execKStepEnd core s
  | .tileCommandComplete id => Sys2Proof.Machine.execTileCommandComplete id s
  | .cimParityError core => Sys2Proof.Machine.execCimParityError core s
  | .tileStoreError uid tile elem correctable => Sys2Proof.Machine.execTileStoreError uid tile elem correctable s
  | .rput w => Sys2Proof.Machine.execRput w s
  | .rputInit w => Sys2Proof.Machine.execRputInit w s
  | .rget w => Sys2Proof.Machine.execRget w s
  | .doneRegion w => Sys2Proof.Machine.execDoneRegion w s
  | .idemb w => Sys2Proof.Machine.execIdemb w s
  | .ideme w => Sys2Proof.Machine.execIdeme w s
  | .carve w => Sys2Proof.Machine.execCarve w s
  | .carveApply core => Sys2Proof.Machine.execCarveApply core s
  | .blockAdmit die => Sys2Proof.Machine.execBlockAdmit die s
  | .blockRetire uid => Sys2Proof.Machine.execBlockRetire uid s
  | .slateRelease tag => Sys2Proof.Machine.execSlateRelease tag s
  | .barMeet w => Sys2Proof.Machine.execBarMeet w s
  | .barPost w => Sys2Proof.Machine.execBarPost w s
  | .barAwait w => Sys2Proof.Machine.execBarAwait w s
  | .barLast w => Sys2Proof.Machine.execBarLast w s
  | .cbarMeet w => Sys2Proof.Machine.execCbarMeet w s
  | .cbarPost w => Sys2Proof.Machine.execCbarPost w s
  | .cbarAwait w => Sys2Proof.Machine.execCbarAwait w s
  | .cbarLast w => Sys2Proof.Machine.execCbarLast w s
  | .castArrival uid cast => Sys2Proof.Machine.execCastArrival uid cast s
  | .pbarMeet w => Sys2Proof.Machine.execPbarMeet w s
  | .pbarPost w => Sys2Proof.Machine.execPbarPost w s
  | .pbarAwait w => Sys2Proof.Machine.execPbarAwait w s
  | .pbarCfg w => Sys2Proof.Machine.execPbarCfg w s
  | .clapperRootArrival uid id => Sys2Proof.Machine.execClapperRootArrival uid id s
  | .clapperCountdownElapse ctx id => Sys2Proof.Machine.execClapperCountdownElapse ctx id s
  | .enq w => Sys2Proof.Machine.execEnq w s
  | .waitev w => Sys2Proof.Machine.execWaitev w s
  | .sigevAdd w => Sys2Proof.Machine.execSigevAdd w s
  | .sigevSet w => Sys2Proof.Machine.execSigevSet w s
  | .tailReread n => Sys2Proof.Machine.execTailReread n s
  | .waitWordChange n => Sys2Proof.Machine.execWaitWordChange n s
  | .arbiterPick => Sys2Proof.Machine.execArbiterPick s
  | .budgetPeriod => Sys2Proof.Machine.execBudgetPeriod s
  | .launchSplit tag => Sys2Proof.Machine.execLaunchSplit tag s
  | .takeOpened tag => Sys2Proof.Machine.execTakeOpened tag s
  | .mailboxPost die => Sys2Proof.Machine.execMailboxPost die s
  | .launchComplete tag => Sys2Proof.Machine.execLaunchComplete tag s
  | .launchDeadline tag => Sys2Proof.Machine.execLaunchDeadline tag s
  | .mboxr w => Sys2Proof.Machine.execMboxr w s
  | .spawn w => Sys2Proof.Machine.execSpawn w s
  | .fwd w => Sys2Proof.Machine.execFwd w s
  | .directorWatchdog die => Sys2Proof.Machine.execDirectorWatchdog die s
  | .trap w => Sys2Proof.Machine.execTrap w s
  | .trapAbort w => Sys2Proof.Machine.execTrapAbort w s
  | .rett w => Sys2Proof.Machine.execRett w s
  | .hcall w => Sys2Proof.Machine.execHcall w s
  | .hostCallPost ctx => Sys2Proof.Machine.execHostCallPost ctx s
  | .hostCallReply ctx num => Sys2Proof.Machine.execHostCallReply ctx num s
  | .tmrset w => Sys2Proof.Machine.execTmrset w s
  | .sysrd w => Sys2Proof.Machine.execSysrd w s
  | .syswr w => Sys2Proof.Machine.execSyswr w s
  | .bkpt w => Sys2Proof.Machine.execBkpt w s
  | .crewTimerFire uid crew => Sys2Proof.Machine.execCrewTimerFire uid crew s
  | .regroup => Sys2Proof.Machine.execRegroup s
  | .alloc ctx => Sys2Proof.Machine.execAlloc ctx s
  | .run ctx => Sys2Proof.Machine.execRun ctx s
  | .preempt ctx => Sys2Proof.Machine.execPreempt ctx s
  | .reset ctx => Sys2Proof.Machine.execReset ctx s
  | .drained ctx => Sys2Proof.Machine.execDrained ctx s
  | .drainDeadline ctx => Sys2Proof.Machine.execDrainDeadline ctx s
  | .saveStepComplete ctx => Sys2Proof.Machine.execSaveStepComplete ctx s
  | .resetDeadline ctx => Sys2Proof.Machine.execResetDeadline ctx s
  | .resetComplete ctx => Sys2Proof.Machine.execResetComplete ctx s
  | .queueBind n cfg => Sys2Proof.Machine.execQueueBind n cfg s
  | .queueUnbind n => Sys2Proof.Machine.execQueueUnbind n s
  | .qtail n v => Sys2Proof.Machine.execQtail n v s
  | .chdoor ctx num => Sys2Proof.Machine.execChdoor ctx num s
  | .cpfdoor ctx num => Sys2Proof.Machine.execCpfdoor ctx num s
  | .pageFaultPost who => Sys2Proof.Machine.execPageFaultPost who s
  | .pageFaultReply ctx num => Sys2Proof.Machine.execPageFaultReply ctx num s
  | .tlbWalkComplete id => Sys2Proof.Machine.execTlbWalkComplete id s
  | .ctlbinv ctx vpage size all => Sys2Proof.Machine.execCtlbinv ctx vpage size all s
  | .tlbInvalidateComplete => Sys2Proof.Machine.execTlbInvalidateComplete s
  | .fetch ctx exid => Sys2Proof.Machine.execFetch ctx exid s
  | .evict ctx exid => Sys2Proof.Machine.execEvict ctx exid s
  | .expertFetchStart => Sys2Proof.Machine.execExpertFetchStart s
  | .expertLand ctx exid ok => Sys2Proof.Machine.execExpertLand ctx exid ok s
  | .dailyWrite slot v => Sys2Proof.Machine.execDailyWrite slot v s
  | .full => Sys2Proof.Machine.execFull s
  | .dirty => Sys2Proof.Machine.execDirty s
  | .abort => Sys2Proof.Machine.execAbort s
  | .checkpointCutDone => Sys2Proof.Machine.execCheckpointCutDone s
  | .checkpointStreamDone ok => Sys2Proof.Machine.execCheckpointStreamDone ok s
  | .flitReceive port v => Sys2Proof.Machine.execFlitReceive port v s
  | .retransmitTimeout port seq => Sys2Proof.Machine.execRetransmitTimeout port seq s
  | .requestTimeout id elem => Sys2Proof.Machine.execRequestTimeout id elem s
  | .portEnable port v => Sys2Proof.Machine.execPortEnable port v s
  | .portDisable port v => Sys2Proof.Machine.execPortDisable port v s
  | .portTrained port lanes peer pinc => Sys2Proof.Machine.execPortTrained port lanes peer pinc s
  | .trainingTimeout port => Sys2Proof.Machine.execTrainingTimeout port s
  | .portIdle port => Sys2Proof.Machine.execPortIdle port s
  | .portErrors port lost => Sys2Proof.Machine.execPortErrors port lost s
  | .portWake port => Sys2Proof.Machine.execPortWake port s
  | .wakeReady port => Sys2Proof.Machine.execWakeReady port s
  | .wakeTimeout port => Sys2Proof.Machine.execWakeTimeout port s
  | .spokeSuspect d => Sys2Proof.Machine.execSpokeSuspect d s
  | .heartbeatSend => Sys2Proof.Machine.execHeartbeatSend s
  | .heartbeat agent => Sys2Proof.Machine.execHeartbeat agent s
  | .declare agent => Sys2Proof.Machine.execDeclare agent s
  | .fenceCommand agent => Sys2Proof.Machine.execFenceCommand agent s
  | .agentFenced agent => Sys2Proof.Machine.execAgentFenced agent s
  | .strikeComplete agent => Sys2Proof.Machine.execStrikeComplete agent s
  | .unfenceVote agent peer inc signature => Sys2Proof.Machine.execUnfenceVote agent peer inc signature s
  | .unfence v firmware => Sys2Proof.Machine.execUnfence v firmware s
  | .hubid v => Sys2Proof.Machine.execHubid v s
  | .boot img => Sys2Proof.Machine.execBoot img s
  | .recoveryRetry img => Sys2Proof.Machine.execRecoveryRetry img s
  | .attreq nonce => Sys2Proof.Machine.execAttreq nonce s
  | .attestationDone => Sys2Proof.Machine.execAttestationDone s
  | .pwrlim v => Sys2Proof.Machine.execPwrlim v s
  | .powerSample draw => Sys2Proof.Machine.execPowerSample draw s
  | .scrub place found => Sys2Proof.Machine.execScrub place found s
  | .registerWrite offset value firmware => Sys2Proof.Machine.execRegisterWrite offset value firmware s
  | .debugChallenge challenge signature => Sys2Proof.Machine.execDebugChallenge challenge signature s
  | .managementAttestationRequest nonce => Sys2Proof.Machine.execManagementAttestationRequest nonce s
  | .minimumVersionRaise v => Sys2Proof.Machine.execMinimumVersionRaise v s

end Sys2Proof.Machine
end

