-- ==== Sys2Proof/Machine/Step.lean ====
section
/-! DEFINITION. One step: an instruction issues, an event happens, or a cycle ends. -/

namespace Sys2Proof.Machine
open Sys2Proof

/-- The issue of one bundle: its instruction, or ILL where the decoder refuses its word; then the end of the crew's
cycle when no bundle of it is left. A block that the other bundle has ended issues nothing. -/
def issueBundle (s : State) (i : Issue) : Host.Outcome State Fault Refusal :=
  if (s.crew? i.uid i.crew).isNone then .next s
  else
    let s := { s with issue := some i }
    let r := match i.instr with
      | some k => exec k s
      | none => raiseIll i.ill s
    match r with
    | .next t => .next (if t.second.isNone then t.endPick i.uid i.crew else t)
    | .fault f => .fault f
    | .refused e => .refused e

/-- A slice issues the bundles of the crew it picked: the one with the lower lane first, the other in the next step. -/
def issuePick (s : State) (p : Pickable) : Host.Outcome State Fault Refusal :=
  let r := (s.recordPick p).pickedIssues p
  match r.2 with
  | [] => .next r.1
  | i :: is => issueBundle { r.1 with second := is.head? } i

/-- An instruction that issued earlier goes on in its lanes. -/
def issueAgain (s : State) (k : Nat) (i : Issue) (instr : Instr) : Host.Outcome State Fault Refusal :=
  match exec instr { s with issue := some i, turn := max s.turn (k + 1) } with
  | .next t => .next (t.endPick i.uid i.crew)
  | .fault f => .fault f
  | .refused e => .refused e

/-- One step of the machine. -/
def step (s : State) : Host.Outcome State Fault Refusal :=
  match s.second with
  | some i => issueBundle { s with second := none } i
  | none =>
    match s.duePrompt with
    | some e => exec e.2 (s.takeEvent e)
    | none => stepPosted s
where
  /-- A step with no event of the agenda due: a reduction that failed reaches its lane first. -/
  stepPosted (s : State) : Host.Outcome State Fault Refusal :=
    match s.nextPosted with
    | some r => .next (s.takePosted r)
    | none => stepInside s
  /-- A step inside the device: its units' events, the regroup, then the slices in ascending order, on which an instruction that has
  issued and can go on comes before the pick (R9). -/
  stepInside (s : State) : Host.Outcome State Fault Refusal :=
    let m := s.nextMove
    match m.1 with
    | some f => f { m.2 with news := m.2.news + 1 }
    | none =>
      let s := m.2
      if s.regroupDue then exec .regroup { s with turn := 1 }
      else match s.againNow with
        | some a => issueAgain s a.1 a.2.1 a.2.2
        | none => match s.nextPick with
          | some p => issuePick s p
          | none => match s.dueOutside with
            | some e => exec e.2 (s.takeEvent e)
            | none => .next s.tick

/-- A word stored where the next step fetches: a running context, a resident block whose 32 lanes stand as one bundle
at a line of the instruction buffer that holds the word, in a cycle whose regroup is made. -/
def State.withFetchWord (s : State) (nbits w : Nat) : State :=
  { s with
    blocks := [fetchBlock], launches := [fetchLaunch], ib := [fetchLine (tableParcels nbits w)],
    ctxs := updAt s.ctxs 0 fun c => { c with state := .running },
    agenda := [], issue := none, second := none, turn := 1 }

end Sys2Proof.Machine
end

