-- ==== Sys2Proof/Safety.lean ====
section
/-! DEFINITION. What claims about the machine are stated in: the invariant of a state, an issue that nothing stops, and the
state that an instruction leaves. -/

namespace Sys2Proof
open Sys2Proof.Machine

/-- The scratchpad of a block, and that of its entry snapshot, are in the canonical form of memory. -/
def ScratchCanonical (b : Block) : Prop :=
  Memory.wf b.body.scratch = true ∧ ∀ k, b.snap = some k → Memory.wf k.scratch = true

/-- Memory and every scratchpad are in their canonical form: addresses strictly rising, no byte listed that reads as an unlisted one. -/
def MemoryCanonical (s : State) : Prop := Memory.wf s.mem = true ∧ ∀ b ∈ s.blocks, ScratchCanonical b

/-- An outcome that is a next state. -/
def Continues (o : Host.Outcome State Machine.Fault Refusal) : Prop := ∃ s, o = .next s

namespace Machine

/-- Nothing stops an issue before its body: the encoding is legal under the launch's limits (R66), the crew's role may issue
it (R112), no source reads an invalid latch (R60) or a marked register (R393), and it is ready to issue, or has issued before and goes
on (R62, R104). -/
def Ctx.unstopped (x : Ctx) (ill : Limits → Nat) (reads : List ReadAs) : Bool :=
  ill x.limits == 0 && roleOk x.op x.c.role && (x.latchFaults reads).isEmpty && (x.goesOn || x.s0.issuable x.b x.c x.ci x.op x.w x.act)

/-- An instruction issues from a state as `x` and nothing stops it before its body. -/
def Issues (op len : Nat) (ill : Limits → Nat) (reads : List ReadAs) (w : Fields) (s : State) (x : Ctx) : Prop :=
  s.issueCtx op len w = some x ∧ x.unstopped ill reads = true

/-- `Issues` of a 64-bit or 96-bit instruction. -/
abbrev IssuesLong (op : Nat) (fn : Option Nat) (reads : List ReadAs) (w : Fields) (s : State) (x : Ctx) : Prop :=
  Issues op (fieldsLength w) (illLong op fn w) reads w s x

/-- `Issues` of a 32-bit instruction. -/
abbrev IssuesShort (op : Nat) (reads : List ReadAs) (f : ShortFields) (s : State) (x : Ctx) : Prop :=
  Issues op 4 (fun lim => illDetailShort lim op f) reads (expandShort op f) s x

/-- The state after an instruction whose body has made `s` and left the lanes with some results (the others: next). -/
def Ctx.ends (x : Ctx) (s : State) (rs : List (Nat × LaneRes)) : State := finishIssue x s x.act rs false

/-- The state after an instruction that does nothing but change registers: each active lane's effect from the values at
issue, in ascending lane order (R5, R56). -/
def Ctx.writes (x : Ctx) (e : Nat → Eff) : State :=
  x.ends (x.s0.updCrew x.uid x.ci fun c => x.act.foldl (fun c l => (e l).apply c x.clk l x.w) c) []

/-- A 64-bit or 96-bit instruction that nothing stops changes registers alone, each active lane's by `e`. -/
def Writes (op : Nat) (fn : Option Nat) (reads : List ReadAs) (i : Fields → Instr) (e : Ctx → Nat → Eff) : Prop :=
  ∀ (w : Fields) (s : State) (x : Ctx), IssuesLong op fn reads w s x → exec (i w) s = .next (x.writes (e x))

/-- The same of a 32-bit instruction. -/
def WritesShort (op : Nat) (reads : List ReadAs) (i : ShortFields → Instr) (e : Ctx → Nat → Eff) : Prop :=
  ∀ (f : ShortFields) (s : State) (x : Ctx), IssuesShort op reads f s x → exec (i f) s = .next (x.writes (e x))

/-- A 64-bit or 96-bit instruction that nothing stops, in the forms and states that `ok` describes, ends in the state that `t`
gives, its lanes with the results that `t` gives. -/
def Ends (op : Nat) (fn : Option Nat) (reads : List ReadAs) (i : Fields → Instr) (ok : Ctx → Prop)
    (t : Ctx → State × List (Nat × LaneRes)) : Prop :=
  ∀ (w : Fields) (s : State) (x : Ctx), IssuesLong op fn reads w s x → ok x →
    exec (i w) s = .next (x.ends (t x).1 (t x).2)

/-- The same of a 32-bit instruction. -/
def EndsShort (op : Nat) (reads : List ReadAs) (i : ShortFields → Instr) (ok : Ctx → Prop)
    (t : Ctx → State × List (Nat × LaneRes)) : Prop :=
  ∀ (f : ShortFields) (s : State) (x : Ctx), IssuesShort op reads f s x → ok x →
    exec (i f) s = .next (x.ends (t x).1 (t x).2)

/-- A 64-bit or 96-bit instruction that nothing stops ends in the state that its body makes, where that body does not hold the
bundle and every lane goes on. -/
def Runs (op : Nat) (fn : Option Nat) (reads : List ReadAs) (i : Fields → Instr) (ok : Ctx → Prop)
    (body : Ctx → BodyRes) : Prop :=
  ∀ (w : Fields) (s : State) (x : Ctx) (t : State) (rs : List (Nat × LaneRes)), IssuesLong op fn reads w s x → ok x →
    body x = .done t rs → (∀ r ∈ rs, r.2 = .next) → exec (i w) s = .next (x.ends t rs)

/-- The checks of a sweep pass in every lane and iteration that is still to run: its segments are aligned, inside the scratchpad, on no
uncorrectable line and under no copy's range (R65, R235, R256, R393). -/
def Ctx.segsOk (x : Ctx) (op : SweepOp) (cnt : Nat) (sd sa sb : BitVec 6) : Prop :=
  (∀ l ∈ x.act, ∀ i < cnt, (x.t l).sweepI ≤ i →
    let d := sweepAddr x l x.w.d sd i
    let a := sweepAddr x l x.w.a sa i
    let b := sweepAddr x l x.w.b sb i
    d % 32 = 0 ∧ d + op.sizeD ≤ x.b.sheet.scratch ∧ a % 32 = 0 ∧ a + op.sizeA ≤ x.b.sheet.scratch ∧
      (op.sizeB = 0 ∨ b % 32 = 0 ∧ b + op.sizeB ≤ x.b.sheet.scratch)) ∧
  (∀ a n write, x.s0.rangeWait x.uid a n write = none) ∧ (x.s0.blockOr x.b).body.bad = []

/-- One iteration of a sweep (R64): every lane that it is still to run for reads the scratchpad as the iteration finds it; then they write
their segments, in ascending order, with their flags and the state of their streams. -/
def Ctx.sweepStep (x : Ctx) (op : SweepOp) (sd sa sb : BitVec 6) (s : State) (i : Nat) : State :=
  (x.act.filter fun l => decide ((x.t l).sweepI ≤ i)).foldl (fun (t : State) l =>
    let d := sweepAddr x l x.w.d sd i
    let count := match s.thread? x.uid x.ci l with | some t => t.rand.toNat | none => 0
    let r := op.run l count (s.scratchRead x.uid (sweepAddr x l x.w.a sa i) op.sizeA)
      (s.scratchRead x.uid (sweepAddr x l x.w.b sb i) op.sizeB) (s.scratchRead x.uid d op.sizeD)
    (t.scratchWrite x.uid d r.1).updCrew x.uid x.ci fun c =>
      (c.updThread l fun t => { t with rand := BitVec.ofNat 48 r.2.2 }).setFlags r.2.1) s

/-- A sweep whose checks pass leaves the state after CNT iterations, from 0 on, or from where a lane resumes (R63 to R65). -/
def SweepRuns (op : Nat) (reads : List ReadAs) (i : Fields → Instr) (ok : Ctx → Prop) (f : Ctx → SweepOp) : Prop :=
  ∀ (w : Fields) (s : State) (x : Ctx) (cnt : BitVec 12) (sd sa sb : BitVec 6), IssuesLong op none reads w s x →
    w.ext = .sweep cnt sd sa sb → ok x → x.segsOk (f x) cnt.toNat sd sa sb →
    exec (i w) s = .next (x.ends ((List.range cnt.toNat).foldl (x.sweepStep (f x) sd sa sb) x.s0) [])

/-- A value result in D of a width. -/
def Ctx.result (x : Ctx) (width v : Nat) : Eff := { val := some (x.w.d, width, v) }

/-- The width of R83's type code in MOD[2:0], in bits of the whole operand. -/
def Ctx.width (x : Ctx) : Nat := typeWidth (x.mod % 8)

/-- The element-wise result of R86: `f` of the elements of A, B and C, clamped under .sat and wrapped. -/
def Ctx.elementwise (x : Ctx) (f : Int → Int → Int → Int) (l : Nat) : Eff :=
  x.result x.width (mapElems (x.mod % 8) (bitAt x.mod 3) f (x.ty l x.w.a (x.mod % 8)) (x.ty l x.w.b (x.mod % 8))
    (x.ty l x.w.c (x.mod % 8)))

/-- A source of R88 and R90 as the number its type reads. -/
def Ctx.int (x : Ctx) (l : Nat) (code : BitVec 9) : Int := elemInt (x.mod % 8) (x.ty l code (x.mod % 8))

/-- The width of R83's raw type in MOD. -/
def Ctx.wide (x : Ctx) : Nat := typeWidth x.mod

/-- `f` of the element width and of each element of A, in its place (R96). -/
def Ctx.counted (x : Ctx) (l : Nat) (f : Nat → Nat → Nat) : Eff :=
  let n := elemWidth (x.mod % 8)
  x.result x.width (packElems n ((List.range (x.width / n)).map fun e => f n (elemAt (x.a l x.width) n e)))

/-- The predicate sources of R100 after MOD's inversion. -/
def Ctx.predA (x : Ctx) (l : Nat) : Bool := (x.t l).pred x.w.a.toNat != bitAt x.mod 0
def Ctx.predB (x : Ctx) (l : Nat) : Bool := (x.t l).pred x.w.b.toNat != bitAt x.mod 1

/-- The body's result where each active lane's registers change by `e`. -/
def Ctx.lanesSet (x : Ctx) (e : Nat → Eff) : State × List (Nat × LaneRes) :=
  (x.s0.updCrew x.uid x.ci fun c => x.act.foldl (fun c l => (e l).apply c x.clk l x.w) c, [])

/-- A float operation on the elements of A, B and C (R130, R131): one FP32 or two FP16, each rounded once, under .sr with a
draw of the lane's stream. -/
def Ctx.floats (x : Ctx) (f : FloatFmt) (rm : Nat) (g : ElemFn) : State × List (Nat × LaneRes) :=
  x.lanesSet fun l =>
    let d := drawModes rm (x.key l) (32 / f.bits) (x.count l)
    let r := packedOp f g d.1 (x.a l 32) (x.bv l 32) (x.cv l 32)
    { x.result 32 r.1 with flags := r.2 ||| d.2.2, rand := some d.2.1 }

/-- The effect of a lane that does not fault. -/
def Eff.ofLane (e : Except LaneFault Eff) : Eff := match e with | .ok v => v | .error _ => {}

/-- The body's result where the active lanes act on the state one after another, in ascending order (R236). -/
def Ctx.lanesRun (x : Ctx) (act : Ctx → State → Nat → State × LaneRes) : State × List (Nat × LaneRes) :=
  x.act.foldl (fun a l => ((act x a.1 l).1, a.2 ++ [(l, (act x a.1 l).2)])) (x.s0, [])

/-- A lane completes its instruction. -/
def Completes (r : LaneRes) : Prop := r = .next ∨ (∃ pc, r = .jump pc) ∨ r = .exit

/-- The elements of every active lane lie in this device's memory, and no lower lane's store waits for an answer from outside. -/
def Ctx.inDevice (x : Ctx) (es : Nat → List Elem) : Prop :=
  (∀ l ∈ x.act, ∀ e ∈ es l, ∃ key, placeOf x.s0.hubid e.pa e.leaf.type = .home key) ∧ x.storesWait x.s0 = false

/-- The addresses that the active lanes name. -/
def Ctx.vas (x : Ctx) (elems : Ctx → Nat → Except LaneFault (List (Nat × Nat))) : List Nat :=
  x.act.flatMap fun l => match elems x l with | .ok es => es.map (·.1) | .error _ => []

/-- Nothing outside the core can stop an access of it: no line is uncorrectable, no other core has unpublished notices or copies under
way, nothing is published or held outside the device, no agent is fenced and no spoke link is down (R216, R221, R235, R373, R380). -/
def Quiet (s : State) (core : Nat) : Prop :=
  s.poison = [] ∧ (∀ k ∈ s.l1, k.bad = false) ∧ (∀ i ∈ s.intents, i.core = core) ∧ (∀ c ∈ s.copies, c.core = core) ∧ (∀ a, s.agentDead a = false) ∧
  (∀ r ∈ s.recs, r.home = none) ∧ (∀ d ∈ s.dir, d.owner = none) ∧ s.downSpokes = []

/-- A memory instruction whose every active lane names elements with a translation at hand, where nothing outside the core stops it:
each active lane acts in ascending order, and each completes the instruction, or has sent its access to the home outside the device
that is to answer it. -/
def Accesses (op : Nat) (reads : List ReadAs) (i : Fields → Instr) (ok : Ctx → (Nat → List Elem) → Prop) (acc : Access)
    (elems : Ctx → Nat → Except LaneFault (List (Nat × Nat))) (lane : Ctx → State → Nat → List Elem → State × LaneRes) : Prop :=
  ∀ (w : Fields) (s : State) (x : Ctx) (es : Nat → List Elem), IssuesLong op none reads w s x → ok x es → Quiet x.s0 x.b.core →
    (∀ l ∈ x.act, x.plan acc (elems x l) = .ready (es l)) →
    (∀ r ∈ (x.lanesRun fun x s l => lane x s l (es l)).2, Completes r.2 ∨ r.2 = .out) ∧
    (x.inDevice es → ∀ r ∈ (x.lanesRun fun x s l => lane x s l (es l)).2, Completes r.2) ∧
    exec (i w) s = .next (x.ends ((x.lanesRun fun x s l => lane x s l (es l)).1.seeWalks x.b.core x.b.ctx (x.vas elems))
      (x.lanesRun fun x s l => lane x s l (es l)).2)

/-- A place that takes an atomic at once: this device's memory, a line of the host's that the device holds for its one lane, at scope sys
a peer, or a host page where PCI Express carries it (R229, R232). -/
def AtomicPlace (x : Ctx) (e : Elem) : Prop :=
  match placeOf x.s0.hubid e.pa e.leaf.type with
  | .home _ => True
  | .peer a => if a = hostAgent then x.act.length = 1 ∧ x.s0.outHeld (lineOf (memKey x.s0.hubid e.pa)) (decide (2 < x.atomScope)) = true
    else x.atomScope = 5
  | .hostIo => pcieAtomic x.op x.fn x.mod x.atomScope = true

/-- Every active lane goes on after the instruction. -/
def Ctx.allNext (x : Ctx) : List (Nat × LaneRes) := x.act.map fun l => (l, .next)

/-- A scratchpad access of every active lane at `sa` of `n` bytes is aligned, inside the block's scratchpad, on no poisoned line,
on no range that a copy holds and on no byte that a late access of its crew has still to reach (R235, R256). -/
def Ctx.scratchOk (x : Ctx) (sa : Nat → Nat) (n : Nat) (write : Bool) : Prop :=
  ∀ l ∈ x.act, sa l % n = 0 ∧ sa l + n ≤ x.b.sheet.scratch ∧ x.s0.rangeWait x.uid (sa l) n write = none ∧
    x.s0.lateClash x.uid x.ci (sa l) n = false ∧ ∀ b, x.s0.block? x.uid = some b → b.body.bad = []

/-- A lane completes its instruction or comes to the wait that the instruction itself asks for; it neither faults nor tries
again. -/
def GoesOn (r : LaneRes) : Prop := r = .next ∨ (∃ pc, r = .jump pc) ∨ r = .exit ∨ ∃ w, r = .wait w

/-- A 64-bit or 96-bit instruction whose active lanes act one after another; in the forms and states that `ok` describes each of
them goes on. -/
def Acts (op : Nat) (fn : Option Nat) (reads : List ReadAs) (i : Fields → Instr) (ok : Ctx → Prop)
    (lane : Ctx → State → Nat → State × LaneRes) : Prop :=
  ∀ (w : Fields) (s : State) (x : Ctx), IssuesLong op fn reads w s x → ok x →
    (∀ r ∈ (x.lanesRun lane).2, GoesOn r.2) ∧ exec (i w) s = .next (x.ends (x.lanesRun lane).1 (x.lanesRun lane).2)

/-- The active lanes arrive at the block barrier that A names with one count, and none of them has arrived at it (R284, R287). -/
def Ctx.barOk (x : Ctx) : Prop :=
  x.act.Nodup ∧ ∃ k ≤ 1024, (∀ l ∈ x.act, x.bv l 32 = k ∧ hasArr (x.b.bar x.w.a.toNat).arrs x.ci l = false) ∧
    ((x.b.bar x.w.a.toNat).arrs = [] ∨ (x.b.bar x.w.a.toNat).count = k)

/-- None of the active lanes has arrived at a cast or package barrier (R290), and no spoke link that their fence crosses is down (R377). -/
def Ctx.meetOk (x : Ctx) (pkg : Bool) (key : Nat) : Prop :=
  x.s0.downSpokes = [] ∧ x.act.Nodup ∧ ∀ l ∈ x.act, hasArr (meetOf (x.b.body.meets pkg) key).arrs x.ci l = false

/-- The group that the active lanes of `rput` or `rget` form (R272). -/
def Ctx.ringGroup (x : Ctx) (put : Bool) : RingWait :=
  ⟨x.s0.nextId, (if put then x.w.d else x.w.a).toNat, put, x.ci, x.pc, x.len, x.w, x.act.map fun l =>
    (l, (if put then x.a l (8 * ringBytes (x.mod % 4)) else 0),
      (if put && x.mod.testBit 2 then x.s0.carries x.uid x.ci l (x.t l) else []))⟩

/-- The state at issue with one more identifier used. -/
def Ctx.afterFresh (x : Ctx) : State := { x.s0 with nextId := x.s0.nextId + 1 }

/-- The state in which a group's put or get is tested: the waiting groups of lower slices have acted (R272). -/
def Ctx.ringState (x : Ctx) (put : Bool) : State := x.afterFresh.settleBelow x.uid (x.b.ringKey (x.ringGroup put))

/-- What the ring answers to the group at that point. -/
def Ctx.ringAnswer (x : Ctx) (put : Bool) : RingTest := ((x.ringState put).blockOr x.b).ringTest (x.ringGroup put)

/-- A node appended for a lane to a reel whose window has room, and the lane's D written with it (R163). -/
def Ctx.appendNode (x : Ctx) (s : State) (l op : Nat) (kids : List Nat) (payload nfl : Nat) (q : Nat → QReg) : State :=
  let r := s.reelOf x.uid
  (s.setReel x.uid (r.add r.freeHandle op kids payload nfl)).setq x.uid x.ci l x.w.d.toNat (q r.freeHandle)

/-- The reel of the block has a node and a slot of the window for every active lane (R160). -/
def Ctx.reelRoom (x : Ctx) : Prop :=
  (x.s0.reelOf x.uid).nodes.length + x.act.length ≤ x.b.sheet.reelCap ∧
  (x.s0.reelOf x.uid).inWindow.length + x.act.length ≤ x.b.sheet.window

/-- The body's result where each active lane appends a node, in ascending order. -/
def Ctx.appends (x : Ctx) (f : State → Nat → State) : State × List (Nat × LaneRes) := (x.act.foldl f x.s0, [])

/-- Tracked arithmetic with `n` operands (R157, R162, R167): the enclosure of the result from those of the operands, NAN and
UND inherited, and a node of the operands' handles. `own` holds the flags that the operation itself adds. -/
def Ctx.trackedOp (x : Ctx) (op n own : Nat) (f : Iv → Iv → Iv → Iv × Bool) : State × List (Nat × LaneRes) :=
  x.appends fun s l =>
    let qs := ([x.w.a, x.w.b, x.w.c].take n).map (x.q l)
    let iv : Nat → Iv := fun i => match qs[i]? with | some q => q.iv | none => (.fin ⟨0, 1⟩, .fin ⟨0, 1⟩)
    let r := f (iv 0) (iv 1) (iv 2)
    let nan := qs.any (·.nan)
    let kids := qs.map fun q => q.handle.toNat
    let nfl := kids.foldl (fun a h => a ||| (s.reelOf x.uid).nfl h) 0 ||| own ||| (if r.2 then nflUND else 0)
    x.appendNode s l op kids 0 nfl fun h =>
      mkQ (r.1.1.bits false) (r.1.2.bits true) h nan (!nan && (qs.any (·.und) || r.2)) false

/-- A request for the retake engine of every lane in some list (R171). -/
def Ctx.parks (x : Ctx) (lanes : List (Nat × Nat)) : State × List (Nat × LaneRes) := x.request x.s0 lanes

/-- The body's result where one command enters its block's order, followed by what its issue does at once (R184 to R186). -/
def Ctx.command (x : Ctx) (k : TileCmd) (after : State → State) : State × List (Nat × LaneRes) :=
  ((after (x.s0.issueCmd x.uid k).1).tileKick x.b.core, [])

/-- The tile that D names. -/
def Ctx.dtile (x : Ctx) : Tile := x.b.tile x.w.d.toNat

/-- What a lane of `waitev` does once its address has a translation (R307). -/
def waitLane (x : Ctx) (s : State) (l : Nat) (es : List Elem) : State × LaneRes :=
  match es with
  | [e] =>
    match s.readWord (s.blockOr x.b) (laneReader x.uid x.ci l) e.va e.pa e.leaf.type (x.bv l 32) with
    | (s, .fault f) => (s, .fault f)
    | (s, .met) => (s, .next)
    | (s, .unmet) => (s, .wait (.word e.va (x.bv l 32)))
  | _ => (s, .next)

/-- D of each active lane written with one value. -/
def Ctx.writesD (x : Ctx) (s : State) (v : Nat) : State :=
  s.updCrew x.uid x.ci fun c => x.act.foldl (fun c l => wrvOf c x.clk l x.w x.w.d 32 v false) c

/-- One fault in each active lane. -/
def Ctx.faults (x : Ctx) (f : Nat → LaneFault) : List (Nat × LaneRes) := x.act.map fun l => (l, .fault (f l))

/-- What a lane that a fault was delivered to holds (R331). -/
def Delivered (t : Thread) (tvec : Nat) (f : LaneFault) (mask epc : Nat) : Prop :=
  t.ecause = BitVec.ofNat 32 (f.cls * 2 ^ 24 + f.detail * 2 ^ 16) ∧ t.eaddr = BitVec.ofNat 64 f.eaddr ∧
  t.einfo = BitVec.ofNat 64 f.einfo ∧ t.emask = BitVec.ofNat 128 f.emask ∧ t.elanes = BitVec.ofNat 32 mask ∧
  t.epc = BitVec.ofNat 64 epc ∧ t.hmode = true ∧ t.pc = BitVec.ofNat 64 tvec ∧ t.st = .ready

/-- A context may take a class in its handler in every one of some lanes of a crew (R327). -/
def Takes (s : State) (uid ci : Nat) (ls : List Nat) (b : Block) (k : Context) (cls : Nat) : Prop :=
  s.block? uid = some b ∧ s.ctxs[b.ctx]? = some k ∧ k.delivers cls = true ∧
    ∀ l ∈ ls, ∃ t, s.thread? uid ci l = some t ∧ t.hmode = false

/-- A step on one link: the link at a port becomes `f` of what it was, and nothing else changes. -/
def LinkStep (i : Instr) (port : Nat) (s : State) (f : Link → Link) : Prop :=
  exec i s = .next { s with links := updAt s.links port f }

/-- The 64-bit and 96-bit instructions that write D, and nothing else but the latches: opcode, function code, sources, width of D. -/
def valueInstrs : List (Nat × Option Nat × List ReadAs × (Ctx → Nat) × (Fields → Instr)) :=
  [(0x01, none, readsAB, Ctx.width, .iadd), (0x02, none, readsAB, Ctx.width, .isub), (0x05, none, readsAB, Ctx.width, .imul),
   (0x06, none, readsAB, Ctx.width, .imulh), (0x07, none, readsABC, Ctx.width, .imad), (0x0A, some 0, readsAB, Ctx.width, .imin),
   (0x0A, some 1, readsAB, Ctx.width, .imax), (0x0B, some 0, readsA, Ctx.width, .iabs), (0x0B, some 1, readsA, Ctx.width, .ineg)] ++
  [(0x0D, none, readsAB, fun x => if x.fn = 1 then 64 else 32, .sel), (0x0E, some 0, readsAB, Ctx.wide, .andOp),
   (0x0E, some 1, readsAB, Ctx.wide, .orOp), (0x0E, some 2, readsAB, Ctx.wide, .xorOp), (0x0E, some 3, readsAB, Ctx.wide, .andn),
   (0x0E, some 4, readsAB, Ctx.wide, .orn), (0x0F, some 0, readsAB, Ctx.wide, .shl), (0x0F, some 1, readsAB, Ctx.wide, .shr),
   (0x0F, some 2, readsAB, Ctx.wide, .sar), (0x0F, some 3, readsAB, Ctx.wide, .rol)] ++
  [(0x10, some 0, readsAB, fun _ => 32, .bfx), (0x10, some 1, readsAB, fun _ => 32, .bfxs), (0x11, none, readsABC, fun _ => 32, .bfi),
   (0x12, some 0, readsA, Ctx.width, .clz), (0x12, some 1, readsA, Ctx.width, .ffs), (0x12, some 2, readsA, Ctx.width, .popc),
   (0x12, some 3, readsA, Ctx.width, .brev), (0x13, none, readsABC, fun _ => 32, .prmb),
   (0x14, none, readsAB, fun x => if x.fn.testBit 1 then 32 else 64, .lea), (0x15, none, readsA, fun x => 32 * 2 ^ x.mod, .mov),
   (0x16, none, readsAB, fun _ => 64, .movl)] ++
  [(0x17, none, [], fun x => specialWidth x.w.a.toNat, .gets), (0xF4, none, [], fun x => specialWidth x.w.a.toNat, .sysrd),
   (0x8C, none, [], fun _ => 32, .qmid), (0x8D, none, [], fun _ => 64, .qbnd), (0xD5, none, [], fun _ => 32, .mstat)]

/-- Nothing of the machine changes but one crew of one block, with the marks on its registers that a write clears, and no issue stands
open. -/
def OnlyCrew (s t : State) (uid ci : Nat) : Prop :=
  t = { s with blocks := t.blocks, issue := none, badRegs := t.badRegs } ∧ (∀ r ∈ t.badRegs, r ∈ s.badRegs) ∧
  (∀ r ∈ s.badRegs, ¬(r.1 = uid ∧ r.2.1 = ci) → r ∈ t.badRegs) ∧ (∀ u, u ≠ uid → t.block? u = s.block? u) ∧
  ∀ b, s.block? uid = some b → ∃ b', t.block? uid = some b' ∧ b' = { b with body := { b.body with crews := b'.body.crews } } ∧
    ∀ i, i ≠ ci → b'.body.crews[i]? = b.body.crews[i]?

/-- What no register instruction changes in a thread: tracked registers, counters, the return stack, the records of exceptions and
handler mode, outstanding accesses. -/
def ThreadKeeps (h h' : Thread) : Prop :=
  h'.q = h.q ∧ h'.batch = h.batch ∧ h'.depth = h.depth ∧ h'.ecause = h.ecause ∧ h'.epc = h.epc ∧ h'.eaddr = h.eaddr ∧
  h'.einfo = h.einfo ∧ h'.emask = h.emask ∧ h'.elanes = h.elanes ∧ h'.hmode = h.hmode ∧ h'.reqs = h.reqs

/-- What no register instruction changes in a crew: masks, role and place, the faulting lanes, the timer, gathered increments. -/
def CrewKeeps (c c' : Crew) : Prop :=
  c'.j = c.j ∧ c'.role = c.role ∧ c'.slice = c.slice ∧ c'.slot = c.slot ∧ c'.fmask = c.fmask ∧ c'.tmr = c.tmr ∧
  c'.dailies = c.dailies ∧ c'.live = c.live ∧ c'.threads.length = c.threads.length

/-- The registers of a thread and of its crew are not written but for the `n` 32-bit registers from code `d` on. -/
def RegsBut (d n : Nat) (c c' : Crew) (h h' : Thread) : Prop :=
  (∀ r, ¬(d ≤ r ∧ r < d + n) → h'.g[r]? = h.g[r]?) ∧ (∀ r, ¬(d ≤ 0x100 + r ∧ 0x100 + r < d + n) → h'.o[r]? = h.o[r]?) ∧
  (d < 0x108 → c'.k = c.k) ∧ (∀ r, 0x110 ≤ d → ¬(d ≤ 0x110 + r ∧ 0x110 + r < d + n) → c'.k[r]? = c.k[r]?)

end Machine
end Sys2Proof
end

