-- ==== Sys2Proof/Certificates/Slice0/Obligations.lean ====
section
/-! DEFINITION. The statements about the machine, for the provers. -/

open Sys2Proof Sys2Proof.Machine

/-- R86, R87: the element-wise integer instructions write f of the elements of A, B and C, clamped under .sat and wrapped
otherwise, in D of each active lane, in the long and in the short forms. -/
def Obligations.IntegerArithmetic : Prop :=
  Writes 0x01 none readsAB .iadd (fun x => x.elementwise fun a b _ => a + b) ∧
  Writes 0x02 none readsAB .isub (fun x => x.elementwise fun a b _ => a - b) ∧
  Writes 0x05 none readsAB .imul (fun x => x.elementwise fun a b _ => a * b) ∧
  Writes 0x06 none readsAB .imulh (fun x => x.elementwise fun a b _ => a * b / 2 ^ elemWidth (x.mod % 8)) ∧
  Writes 0x07 none readsABC .imad (fun x => x.elementwise fun a b c => a * b + c) ∧
  Writes 0x0A (some 0) readsAB .imin (fun x => x.elementwise fun a b _ => min a b) ∧
  Writes 0x0A (some 1) readsAB .imax (fun x => x.elementwise fun a b _ => max a b) ∧
  Writes 0x0B (some 0) readsA .iabs (fun x => x.elementwise fun a _ _ => (a.natAbs : Int)) ∧
  Writes 0x0B (some 1) readsA .ineg (fun x => x.elementwise fun a _ _ => -a) ∧
  WritesShort 0x01 readsAB .iaddShort (fun x => x.elementwise fun a b _ => a + b) ∧
  WritesShort 0x02 readsAB .isubShort (fun x => x.elementwise fun a b _ => a - b) ∧
  WritesShort 0x05 readsAB .imulShort (fun x => x.elementwise fun a b _ => a * b) ∧
  WritesShort 0x0A readsAB .iminShort (fun x => x.elementwise fun a b _ => min a b)

/-- R88 to R91: division with its zero divisor, carry chains, comparison and selection. -/
def Obligations.DivisionCarryCompareSelect : Prop :=
  Writes 0x08 none readsAB .idiv (fun x l =>
    if x.int l x.w.b = 0 then { x.result x.width 0 with flags := fDZ }
    else x.result x.width (wrapInt ((x.int l x.w.a).tdiv (x.int l x.w.b)) (elemWidth (x.mod % 8)))) ∧
  Writes 0x09 none readsAB .irem (fun x l =>
    if x.int l x.w.b = 0 then { x.result x.width (wrapInt (x.int l x.w.a) (elemWidth (x.mod % 8))) with flags := fDZ }
    else x.result x.width
      (wrapInt (x.int l x.w.a - (x.int l x.w.a).tdiv (x.int l x.w.b) * x.int l x.w.b) (elemWidth (x.mod % 8)))) ∧
  Writes 0x03 none readsAB .iaddc (fun x l =>
    let n := if x.fn = 1 then 64 else 32
    let sum := x.a l n + x.bv l n + ofBool ((x.t l).pred (x.mod % 8))
    { x.result n (sum % 2 ^ n) with preds := [(x.mod % 8, decide (2 ^ n ≤ sum))] }) ∧
  Writes 0x04 none readsAB .isubb (fun x l =>
    let n := if x.fn = 1 then 64 else 32
    let diff : Int := (x.a l n : Int) - x.bv l n - ofBool ((x.t l).pred (x.mod % 8))
    { x.result n (wrapInt diff n) with preds := [(x.mod % 8, decide (diff < 0))] }) ∧
  Writes 0x0C none readsAB .icmp (fun x l =>
    let a := elemInt x.mod (x.ty l x.w.a x.mod)
    let b := elemInt x.mod (x.ty l x.w.b x.mod)
    { preds := [(x.w.d.toNat, match x.fn with
        | 0 => decide (a = b)
        | 1 => decide (a ≠ b)
        | 2 => decide (a < b)
        | 3 => decide (a ≤ b)
        | 4 => decide (a > b)
        | _ => decide (a ≥ b))] }) ∧
  Writes 0x0D none readsAB .sel (fun x l =>
    let n := if x.fn = 1 then 64 else 32
    x.result n (if (x.t l).pred (x.mod % 8) then x.a l n else x.bv l n))

/-- R92, R93: the logic and the shift groups over 32 or 64 bits. -/
def Obligations.LogicAndShifts : Prop :=
  Writes 0x0E (some 0) readsAB .andOp (fun x l => x.result x.wide (x.a l x.wide &&& x.bv l x.wide)) ∧
  Writes 0x0E (some 1) readsAB .orOp (fun x l => x.result x.wide (x.a l x.wide ||| x.bv l x.wide)) ∧
  Writes 0x0E (some 2) readsAB .xorOp (fun x l => x.result x.wide (x.a l x.wide ^^^ x.bv l x.wide)) ∧
  Writes 0x0E (some 3) readsAB .andn (fun x l => x.result x.wide (x.a l x.wide &&& (2 ^ x.wide - 1 - x.bv l x.wide % 2 ^ x.wide))) ∧
  Writes 0x0E (some 4) readsAB .orn (fun x l => x.result x.wide (x.a l x.wide ||| (2 ^ x.wide - 1 - x.bv l x.wide % 2 ^ x.wide))) ∧
  Writes 0x0F (some 0) readsAB .shl (fun x l => x.result x.wide (x.a l x.wide * 2 ^ (x.bv l 32 % x.wide) % 2 ^ x.wide)) ∧
  Writes 0x0F (some 1) readsAB .shr (fun x l => x.result x.wide (x.a l x.wide / 2 ^ (x.bv l 32 % x.wide))) ∧
  Writes 0x0F (some 2) readsAB .sar (fun x l =>
    x.result x.wide (wrapInt (sext (x.a l x.wide) x.wide / 2 ^ (x.bv l 32 % x.wide)) x.wide)) ∧
  Writes 0x0F (some 3) readsAB .rol (fun x l =>
    let k := x.bv l 32 % x.wide
    x.result x.wide ((x.a l x.wide * 2 ^ k + x.a l x.wide / 2 ^ (x.wide - k)) % 2 ^ x.wide)) ∧
  WritesShort 0x0E readsAB .andShort (fun x l => x.result x.wide (x.a l x.wide &&& x.bv l x.wide)) ∧
  WritesShort 0x0F readsAB .shlShort (fun x l => x.result x.wide (x.a l x.wide * 2 ^ (x.bv l 32 % x.wide) % 2 ^ x.wide))

/-- R94 to R98: bit fields, bit counts, byte permutes and addresses. -/
def Obligations.FieldsCountsAddresses : Prop :=
  Writes 0x10 (some 0) readsAB .bfx (fun x l =>
    let o := x.bv l 32 % 256
    let k := x.bv l 32 / 256 % 256
    x.result 32 (if k = 0 ∨ 32 ≤ o then 0 else x.a l 32 / 2 ^ o % 2 ^ (min (o + k) 32 - o))) ∧
  Writes 0x10 (some 1) readsAB .bfxs (fun x l =>
    let o := x.bv l 32 % 256
    let k := x.bv l 32 / 256 % 256
    x.result 32 (if k = 0 then 0 else if 32 ≤ o then (if (x.a l 32).testBit 31 then 0xFFFFFFFF else 0)
      else wrapInt (sext (x.a l 32 / 2 ^ o) (min (o + k) 32 - o)) 32)) ∧
  Writes 0x11 none readsABC .bfi (fun x l =>
    let o := x.cv l 32 % 256
    let k := x.cv l 32 / 256 % 256
    x.result 32 (if k = 0 ∨ 32 ≤ o then x.a l 32 else setBits (x.a l 32) o (min (o + k) 32 - o) (x.bv l 32))) ∧
  Writes 0x12 (some 0) readsA .clz (fun x l => x.counted l fun n v => if v = 0 then n else n - 1 - Nat.log2 v) ∧
  Writes 0x12 (some 1) readsA .ffs (fun x l => x.counted l fun n v => ((List.range n).find? fun i => v.testBit i).getD n) ∧
  Writes 0x12 (some 2) readsA .popc (fun x l => x.counted l fun n v => ((List.range n).filter fun i => v.testBit i).length) ∧
  Writes 0x12 (some 3) readsA .brev (fun x l => x.counted l fun n v =>
    (List.range n).foldl (fun a i => a + (if v.testBit i then 1 else 0) * 2 ^ (n - 1 - i)) 0) ∧
  Writes 0x13 none readsABC .prmb (fun x l => x.result 32 (packElems 8 ((List.range 4).map fun k =>
    let nib := x.cv l 32 / 2 ^ (4 * k) % 16
    let byte := (x.a l 32 + x.bv l 32 * 2 ^ 32) / 2 ^ (8 * (nib % 8)) % 256
    if 8 ≤ nib then (if 128 ≤ byte then 255 else 0) else byte))) ∧
  Writes 0x14 none readsAB .lea (fun x l =>
    let n := if x.fn.testBit 1 then 32 else 64
    let i : Int := if x.fn.testBit 0 then (x.bv l 32 : Int) else sext (x.bv l 32) 32
    x.result n (wrapInt ((x.a l n : Int) + i * 2 ^ x.mod) n))

/-- R99, R100, R82, R336: moves, the predicate group, and the reads of special and system registers. -/
def Obligations.MovesPredicatesSpecials : Prop :=
  Writes 0x15 none readsA .mov (fun x l => x.result (32 * 2 ^ x.mod) (x.a l (32 * 2 ^ x.mod))) ∧
  WritesShort 0x15 readsA .movShort (fun x l => x.result (32 * 2 ^ x.mod) (x.a l (32 * 2 ^ x.mod))) ∧
  Writes 0x16 none readsAB .movl (fun x l => x.result 64 (x.a l 32 + x.bv l 32 * 2 ^ 32)) ∧
  Writes 0x18 (some 0) [] .pand (fun x l => { preds := [(x.w.d.toNat, x.predA l && x.predB l)] }) ∧
  Writes 0x18 (some 1) [] .por (fun x l => { preds := [(x.w.d.toNat, x.predA l || x.predB l)] }) ∧
  Writes 0x18 (some 2) [] .pxor (fun x l => { preds := [(x.w.d.toNat, x.predA l != x.predB l)] }) ∧
  Writes 0x18 (some 3) [] .pnot (fun x l => { preds := [(x.w.d.toNat, !x.predA l)] }) ∧
  Writes 0x18 (some 4) [] .pmov (fun x l => { preds := [(x.w.d.toNat, x.predA l)] }) ∧
  Writes 0x17 none [] .gets (fun x l => x.result (specialWidth x.w.a.toNat) (readSpecial x l x.w.a.toNat)) ∧
  Writes 0xF4 none [] .sysrd (fun x l => x.result (specialWidth x.w.a.toNat) (readSpecial x l x.w.a.toNat))

/-- R121 to R125, R46: votes, shuffles, folds over the active lanes, matches and elections. -/
def Obligations.CrossLane : Prop :=
  Writes 0x2C none [] .vote (fun x _ =>
    let yes := x.act.filter fun k => x.predA k
    match x.fn with
    | 0 => { preds := [(x.w.d.toNat, laneMask yes == laneMask x.act)] }
    | 1 => { preds := [(x.w.d.toNat, laneMask yes != 0)] }
    | 2 => { preds := [(x.w.d.toNat, laneMask yes == 0 || laneMask yes == laneMask x.act)] }
    | 3 => x.result 32 (laneMask yes)
    | _ => x.result 32 (popcount (laneMask yes) 32)) ∧
  Writes 0x2D none readsAB .shfl (fun x l =>
    let b := x.bv l 32
    let z := 32 / 2 ^ min (b / 256 % 8) 5
    let src : Option Nat := match x.fn with
      | 0 => some (l / z * z + b % 32 % z)
      | 1 => if b % 256 ≤ l then some (l - b % 256) else none
      | 2 => some (l + b % 256)
      | _ => some (l ^^^ (b % 32 % z))
    let ok := match src with
      | some k => decide (l / z = k / z) && x.act.contains k
      | none => false
    let n := if x.mod.testBit 3 then 64 else 32
    { x.result n (x.a (if ok then src.getD l else l) n) with preds := [(x.mod % 8, ok)] }) ∧
  Writes 0x2E none readsA .redux (fun x _ =>
    let r := foldVals x.fn x.mod (x.act.map fun k => x.foldA x.mod k)
    { x.result (foldWidth x.fn x.mod) r.1 with flags := r.2 }) ∧
  Writes 0x2F none readsA .scanx (fun x l =>
    let lanes := x.act.filter fun k => if x.mod.testBit 3 then decide (k < l) else decide (k ≤ l)
    let r := foldVals x.fn (x.mod % 8) (lanes.map fun k => x.foldA (x.mod % 8) k)
    { x.result (foldWidth x.fn (x.mod % 8)) r.1 with flags := r.2 }) ∧
  Writes 0x30 none readsA .matchLanes (fun x l =>
    let n := typeWidth (x.mod % 2)
    let same := x.act.filter fun k => x.a k n == x.a l n
    x.result 32 (if x.fn = 0 then laneMask same else if same = x.act then laneMask x.act else 0)) ∧
  Writes 0x31 none [] .elect (fun x l =>
    { preds := [(x.w.d.toNat, if x.fn = 0 then l == x.act.headD 0 else l == x.act.getLastD 0)] })

/-- R114, R109, R116 to R119: what a lane does at a branch, a rejoin mask, `brk`, `exit` and `yield`. -/
def Obligations.ControlTransfer : Prop :=
  Ends 0x20 none [] .nop (fun _ => True) (fun x => (x.s0, x.act.map fun l => (l, .next))) ∧
  EndsShort 0x20 [] .nopShort (fun _ => True) (fun x => (x.s0, x.act.map fun l => (l, .next))) ∧
  Ends 0x21 none readsA .bra (fun x => ∀ l ∈ x.act, x.relTarget l % 4 = 0)
    (fun x => (x.s0, x.act.map fun l => (l, .jump (wrapInt ((x.pc : Int) + sext (x.a l 32) 32) 64)))) ∧
  Ends 0x22 none readsA .brx (fun x => ∀ l ∈ x.act, x.a l 64 % 4 = 0)
    (fun x => (x.s0, x.act.map fun l => (l, .jump (x.a l 64)))) ∧
  Ends 0x26 none [] .jset (fun x => x.act ≠ [])
    (fun x => (x.s0.updCrew x.uid x.ci fun c => c.setMask x.w.d.toNat (laneMask x.act), [])) ∧
  Ends 0x27 none [] .jclr (fun x => x.act ≠ [])
    (fun x => (x.s0.updCrew x.uid x.ci fun c => c.clearMask x.w.d.toNat, [])) ∧
  Ends 0x28 none [] .wait (fun _ => True)
    (fun x => (x.s0, x.act.map fun l => (l, .wait (.mask x.w.d.toNat)))) ∧
  Ends 0x29 none readsA .brk (fun x => x.act ≠ [] ∧ ∀ l ∈ x.act, x.relTarget l % 4 = 0)
    (fun x => (x.s0.updCrew x.uid x.ci fun c => c.removeFromMasks x.w.d.toNat (laneMask x.act),
      x.act.map fun l => (l, .jump (wrapInt ((x.pc : Int) + sext (x.a l 32) 32) 64)))) ∧
  Ends 0x2A none [] .exit (fun _ => True) (fun x => (x.s0, x.act.map fun l => (l, .exit))) ∧
  Ends 0x2B none [] .yield (fun _ => True)
    (fun x => (x.s0.updCrew x.uid x.ci fun c =>
      { x.act.foldl (fun c l => c.updThread l fun t => { t with yielded := true }) c with skipCycle := some (x.clk + 1) }, []))

/-- R131, R132, R138, R139: the element-wise floats in the register form, for FP32 and for the two FP16 elements, in the long
and in the short forms. -/
def Obligations.FloatArithmetic : Prop :=
  Ends 0x40 none readsAB .fadd (fun x => x.isSweep = false)
    (fun x => x.floats (fnFmt x.fn) x.rm fun f rm a b _ => fAdd f rm (f.decode a) (f.decode b)) ∧
  Ends 0x41 none readsAB .fsub (fun x => x.isSweep = false)
    (fun x => x.floats (fnFmt x.fn) x.rm fun f rm a b _ => fAdd f rm (f.decode a) (f.decode b).neg) ∧
  Ends 0x42 none readsAB .fmul (fun x => x.isSweep = false)
    (fun x => x.floats (fnFmt x.fn) x.rm fun f rm a b _ => fMul f rm (f.decode a) (f.decode b)) ∧
  Ends 0x43 none readsABC .ffma (fun x => x.isSweep = false) (fun x => x.floats (fnFmt x.fn) x.rm elemFma) ∧
  Ends 0x44 none readsAB .fmin (fun x => x.isSweep = false)
    (fun x => x.floats (fnFmt x.fn) x.rm fun f _ a b _ => fMinMax f false a b) ∧
  Ends 0x45 none readsAB .fmax (fun x => x.isSweep = false)
    (fun x => x.floats (fnFmt x.fn) x.rm fun f _ a b _ => fMinMax f true a b) ∧
  Ends 0x4D none readsA .fsqrt (fun x => x.isSweep = false)
    (fun x => x.floats fp32 x.rm fun f rm a _ _ => fSqrt f rm (f.decode a)) ∧
  Ends 0x4E none readsAB .fdiv (fun _ => True)
    (fun x => x.floats fp32 x.rm fun f rm a b _ => fDiv f rm (f.decode a) (f.decode b)) ∧
  EndsShort 0x40 readsAB .faddShort (fun _ => True)
    (fun x => x.floats (fnFmt x.fn) x.rm fun f rm a b _ => fAdd f rm (f.decode a) (f.decode b)) ∧
  EndsShort 0x42 readsAB .fmulShort (fun _ => True)
    (fun x => x.floats (fnFmt x.fn) x.rm fun f rm a b _ => fMul f rm (f.decode a) (f.decode b)) ∧
  EndsShort 0x44 readsAB .fminShort (fun _ => True)
    (fun x => x.floats (fnFmt x.fn) x.rm fun f _ a b _ => fMinMax f false a b)

/-- R133 to R137, R138: comparison, classification, rounding to integral, exponents, and the functions in the register form. -/
def Obligations.FloatFunctions : Prop :=
  Writes 0x46 none readsAB .fcmp (fun x l =>
    let a := fp32.decode (x.a l 32)
    let b := fp32.decode (x.bv l 32)
    let un := a.isNan || b.isNan
    { preds := [(x.w.d.toNat, match x.fn with
        | 0 => !un && fvCompare a b == 0
        | 1 => un || fvCompare a b != 0
        | 2 => !un && decide (fvCompare a b < 0)
        | 3 => !un && decide (fvCompare a b ≤ 0)
        | 4 => !un && decide (fvCompare a b > 0)
        | 5 => !un && decide (fvCompare a b ≥ 0)
        | 6 => un
        | _ => !un)], flags := if a.isSnan || b.isSnan then fNV else 0 }) ∧
  Writes 0x47 none readsAB .fclass (fun x l =>
    { preds := [(x.w.d.toNat, (x.bv l 32).testBit (classBit (x.a l 32)))] }) ∧
  Ends 0x48 none readsA .frnd (fun _ => True) (fun x => x.floats fp32 x.rm frndElem) ∧
  Ends 0x49 none readsA .fexp (fun x => x.isSweep = false) (fun x => x.floats fp32 0 fun _ _ a _ _ => fnExp a) ∧
  Ends 0x4A none readsA .flog (fun x => x.isSweep = false) (fun x => x.floats fp32 0 fun _ _ a _ _ => fnLog a) ∧
  Ends 0x4B none readsA .frcp (fun x => x.isSweep = false) (fun x => x.floats fp32 0 fun _ _ a _ _ => fnRcp a) ∧
  Ends 0x4C none readsA .frsq (fun x => x.isSweep = false) (fun x => x.floats fp32 0 fun _ _ a _ _ => fnRsq a) ∧
  Ends 0x4F none readsA .fsin (fun x => x.isSweep = false) (fun x => x.floats fp32 0 fun _ _ a _ _ => fnSin a) ∧
  Ends 0x50 none readsA .fcos (fun x => x.isSweep = false) (fun x => x.floats fp32 0 fun _ _ a _ _ => fnCos a) ∧
  Ends 0x51 none readsAB .expins (fun _ => True) (fun x => x.floats fp32 x.rm expinsElem) ∧
  Ends 0x52 none readsA .expext (fun _ => True) (fun x => x.floats fp32 0 (expextElem (x.fn == 1)))

/-- R141 to R149, R151, R152: conversions, block and residue encodings, random streams, segment folds and groups, in the
register form. -/
def Obligations.ConversionsAndStreams : Prop :=
  Ends 0x53 none readsA .cvt (fun x => x.isSweep = false) (fun x => x.lanesSet fun l =>
    let st := x.w.b.toNat
    let d := drawModes x.rm (x.key l) 1 (x.count l)
    let r := cvtElem x.fn st (d.1.headD .rne) (if st = 4 then x.rdS l x.w.a 64 else x.a l (cvtWidth st))
    { x.result (cvtWidth x.fn) r.1 with flags := r.2 ||| d.2.2, rand := some d.2.1 }) ∧
  (∀ (w : Fields) (s : State) (x : Ctx), x.isSweep = false →
    IssuesLong 0x54 none [⟨0, 1⟩, ⟨2, 64 / shapeCount w.b.toNat⟩] w s x →
    exec (.cvq w) s = .next (x.writes fun l => Eff.ofLane (cvqEff x l))) ∧
  (∀ (w : Fields) (s : State) (x : Ctx), x.isSweep = false →
    IssuesLong 0x55 none ([⟨0, 1⟩, ⟨0, 64 / shapeCount w.b.toNat⟩] ++ (if w.b.toNat = 3 then [⟨2, 32⟩] else [])) w s x →
    exec (.cvd w) s = .next (x.writes fun l => Eff.ofLane (cvdEff x l))) ∧
  Writes 0x56 none [⟨0, 1⟩, ⟨1, 32⟩, ⟨2, 32⟩] .hadq (fun x l => Eff.ofLane (hadqEff x l)) ∧
  Writes 0x57 none readsAB .cvrn (fun x l => Eff.ofLane (cvrnEff x l)) ∧
  Writes 0x58 none [] .rand (fun x l =>
    let d := drawWord (x.key l) (x.count l)
    { x.result (if x.fn = 1 then 64 else 32) (match x.fn with
        | 0 => d.1 % 2 ^ 32
        | 1 => d.1
        | _ => (roundQ fp32 .rne false ⟨bitsOf d.1 8 24, 2 ^ 24⟩).1) with flags := d.2.2, rand := some d.2.1 }) ∧
  Writes 0x59 none readsAB .rkey (fun x l => x.result 64 (kmix (x.a l 64) (x.bv l 64))) ∧
  Writes 0x5B none [⟨0, 1⟩, ⟨1, 32⟩] .segred (fun x l =>
    let m := x.mod % 8
    let mask := x.bv x.low 32
    let starts := x.act.filter fun k => mask.testBit k || k == x.low
    let first := (starts.filter fun k => decide (k ≤ l)).getLastD x.low
    let after := (starts.find? fun k => decide (l < k)).getD 32
    let lanes := x.act.filter fun k => decide (first ≤ k ∧ k < after) && (!x.mod.testBit 3 || decide (k ≤ l))
    let r := foldVals x.fn m (lanes.map fun k => x.foldA m k)
    { x.result (foldWidth x.fn m) r.1 with flags := r.2 }) ∧
  (∀ (w : Fields) (s : State) (x : Ctx),
    (w.fn = 0 → IssuesLong 0x5C none readsAB w s x → exec (.rgrp w) s = .next (x.writes fun l =>
      x.result 32 (x.bv l 32 + (x.act.filter fun k => decide (x.a k 32 < x.a l 32 ∨ (k < l ∧ x.a k 32 = x.a l 32))).length))) ∧
    (w.fn = 1 → IssuesLong 0x5C none readsA w s x → exec (.rgrp w) s = .next (x.writes fun l =>
      x.result 32 (x.act.filter fun k => x.a k 32 == x.a l 32).length)))

/-- R63, R64, R140: a sweep whose checks pass leaves the scratchpad, the flags and the streams after CNT iterations, in each of which
every lane reads before any writes; the flags of an iteration are set as it completes (log entry 66). -/
def Obligations.Sweeps : Prop :=
  SweepRuns 0x40 readsAB .fadd (fun _ => True) (fun x => elemSweep (fnFmt x.fn) x.rm elemAdd true x) ∧
  SweepRuns 0x41 readsAB .fsub (fun _ => True) (fun x => elemSweep (fnFmt x.fn) x.rm elemSub true x) ∧
  SweepRuns 0x42 readsAB .fmul (fun _ => True) (fun x => elemSweep (fnFmt x.fn) x.rm elemMul true x) ∧
  SweepRuns 0x43 readsABC .ffma (fun _ => True) (fun x => elemSweep (fnFmt x.fn) x.rm elemFma true x) ∧
  SweepRuns 0x44 readsAB .fmin (fun _ => True) (fun x => elemSweep (fnFmt x.fn) x.rm elemMin true x) ∧
  SweepRuns 0x45 readsAB .fmax (fun _ => True) (fun x => elemSweep (fnFmt x.fn) x.rm elemMax true x) ∧
  SweepRuns 0x49 readsA .fexp (fun _ => True) (fun x => elemSweep fp32 0 (elemFn1 fnExp) false x) ∧
  SweepRuns 0x4B readsA .frcp (fun _ => True) (fun x => elemSweep fp32 0 (elemFn1 fnRcp) false x) ∧
  SweepRuns 0x4D readsA .fsqrt (fun _ => True) (fun x => elemSweep fp32 x.rm elemSqrt false x) ∧
  SweepRuns 0x53 readsA .cvt (fun _ => True) cvtSweep ∧
  SweepRuns 0x54 [⟨0, 1⟩, ⟨2, 1⟩] .cvq (fun _ => True) cvqSweep ∧
  SweepRuns 0x55 [⟨0, 1⟩, ⟨0, 1⟩] .cvd (fun x => x.w.b.toNat ≠ 3) cvdSweep

/-- R150, R154: the ragged-row search of every active lane, and a walk in which every lane ends with a result. -/
def Obligations.RaggedRowsAndWalks : Prop :=
  (∀ (w : Fields) (s : State) (x : Ctx) (v : Nat → Option (Nat × Nat)), IssuesLong 0x5A none readsABC w s x →
    (∀ l ∈ x.act, ragFind x l = .ok (v l)) →
    exec (.ragw w) s = .next (x.writes fun l =>
      let starts := laneMask (x.act.filter fun k => match v k with | some p => p.2 == 0 | none => false)
      { x.result (if x.fn = 0 then 64 else 32)
          (if x.fn = 0 then (match v l with | some p => p.1 + p.2 * 2 ^ 32 | none => 2 ^ 64 - 1) else starts) with
        preds := [(x.mod % 8, (v l).isSome)] })) ∧
  Runs 0x5D none readsABC .vxwalk (fun _ => True) vxwalkBody ∧
  (∀ (w : Fields) (s : State) (x : Ctx) (l d : Nat), IssuesLong 0x5D none readsABC w s x → x.act = [l] →
    (vxLane x x.s0 l).1.out = some (.result d) →
    exec (.vxwalk w) s = .next (x.ends ((((vxLane x x.s0 l).1.s.endBring (dieOf x.b.core) (laneReader x.uid x.ci l)).updCrew
      x.uid x.ci fun c => ({ x.out 64 d with flags := (vxLane x x.s0 l).2 } : Eff).apply c x.clk l x.w).seeWalks x.b.core x.b.ctx
        (vxLane x x.s0 l).1.seen) []))

/-- R155: `front` gives each active lane, in ascending order, the next index of one list with room for all of them, stores its
item there and writes the new count. -/
def Obligations.FrontAppends : Prop :=
  ∀ (w : Fields) (s : State) (x : Ctx) (base count cap : Nat), IssuesLong 0x5E none readsAB w s x → x.act ≠ [] →
    (∀ l ∈ x.act, x.a l 32 = base) → base % 32 = 0 → base + 32 + 4 * cap ≤ x.b.sheet.scratch →
    (∀ a n, x.s0.rangeWait x.uid a n true = none) → x.badScratch x.s0 base 8 = false →
    fromBytes (x.s0.scratchRead x.uid base 4) = count → fromBytes (x.s0.scratchRead x.uid (base + 4) 4) = cap →
    count + x.act.length ≤ cap →
    exec (.front w) s = .next (x.ends
      (((x.act.zipIdx).foldl (fun (t : State) p =>
          (t.scratchWrite x.uid (base + 32 + 4 * (count + p.2)) (toBytes (x.bv p.1 32) 4)).updCrew x.uid x.ci fun c =>
            ({ x.result 32 (count + p.2) with preds := [(x.mod % 8, true)] } : Eff).apply c x.clk p.1 x.w) x.s0).scratchWrite
        x.uid base (toBytes (count + x.act.length) 4)) [])

/-- R235 to R238, R281: global loads, stores, gathers, scatters and atomics, whose lanes act in ascending order once their
translations are at hand; in a deterministic launch a store goes to the block's slate. -/
def Obligations.GlobalAccesses : Prop :=
  Accesses 0xA0 readsAC .ld (fun _ _ => True) .read ldElems ldLane ∧
  Accesses 0xA1 readsABC .st (fun x _ => x.b.sheet.det = false) .write ldElems stLane ∧
  Accesses 0xA2 readsAC .lda (fun _ _ => True) .read ldaElems ldaLane ∧
  Accesses 0xA3 readsABC .stl (fun x _ => x.b.sheet.det = false) .write ldaElems stlLane ∧
  Accesses 0xA6 readsAB .ldv (fun _ _ => True) .read ldvElems ldvLane ∧
  Accesses 0xA7 readsABC .stv (fun x _ => x.b.sheet.det = false) .write ldvElems stvLane ∧
  Accesses 0xA8 readsAB .atom
    (fun x es => x.inScratch = false ∧ x.b.sheet.det = false ∧ x.b.inside = false ∧ ∀ l ∈ x.act, ∀ e ∈ es l, AtomicPlace x e) .atomic
    (fun x l => globalElems [x.a l 64] (memBytes x.mod)) atomLane ∧
  Accesses 0xA9 readsAB .red
    (fun x es => x.inScratch = false ∧ x.staged = false ∧ x.b.sheet.det = false ∧ x.b.inside = false ∧
      ∀ l ∈ x.act, ∀ e ∈ es l, AtomicPlace x e) .atomic
    (fun x l => globalElems [x.a l 64] (memBytes x.mod)) atomLane ∧
  (∀ (w : Fields) (s : State) (x : Ctx) (l : Nat) (e : Elem), IssuesLong 0xA1 none readsABC w s x → x.isPriv = false →
    x.b.sheet.det = true → x.act = [l] → x.plan .write (ldElems x l) = .ready [e] → x.s0.downSpokes = [] →
    x.s0.slateRoom (x.s0.blockOr x.b) (memKey s.hubid e.pa) e.n = true →
    exec (.st w) s = .next (x.ends (((x.s0.setDirty e.leaf).slateStore x.uid e.va (memKey s.hubid e.pa) (x.storeBytes l)).seeWalks
      x.b.core x.b.ctx [e.va]) [(l, .next)]))

/-- R213, R236: with no line of the core's L1 valid, `ld` of one lane from memory that no other core is about to publish
writes D with the bytes that memory holds, extended by type, and leaves memory as it was. -/
def Obligations.LoadReadsMemory : Prop :=
  ∀ (w : Fields) (s : State) (x : Ctx) (l : Nat) (e : Elem) (key : Nat), IssuesLong 0xA0 none readsAC w s x →
    x.isPriv = false → x.act = [l] → x.plan .read (ldElems x l) = .ready [e] → placeOf s.hubid e.pa e.leaf.type = .home key →
    (∀ k ∈ s.l1, k.core ≠ x.b.core) → x.b.body.slate = [] → s.l2Fault x.b.core e.va key e.n = none → e.va % 128 = key % 128 →
    s.downSpokes = [] → (∀ k ∈ s.l2, peerLine k.line = false) → (∀ d ∈ s.dir, d.owner = none) →
    ∃ s1 : State, s1.mem = s.mem ∧ s1.blocks = x.s0.blocks ∧
      exec (.ld w) s = .next (x.ends (s1.updCrew x.uid x.ci fun c =>
        (x.result (max 32 (8 * memBytes x.mod)) (loadValue x.mod [readBytes s.mem key e.n])).apply c x.clk l x.w)
        [(l, .next)])

/-- R213, R220: with no line of the core's L1 valid, `st` of one lane to device memory leaves memory as it was, and a load of
this core then reads the bytes it stored. -/
def Obligations.StoreIsReadBack : Prop :=
  ∀ (w : Fields) (s : State) (x : Ctx) (l : Nat) (e : Elem) (key : Nat), IssuesLong 0xA1 none readsABC w s x →
    x.isPriv = false → x.b.sheet.det = false → x.act = [l] → x.plan .write (ldElems x l) = .ready [e] →
    placeOf s.hubid e.pa e.leaf.type = .home key → (∀ k ∈ s.l1, k.core ≠ x.b.core) →
    s.storeFault x.b.core x.b.ctx e.va key e.n none = none → s.downSpokes = [] → (∀ k ∈ s.l2, peerLine k.line = false) →
    (∀ d ∈ s.dir, d.owner = none) → x.storesWait x.s0 = false →
    ∃ t : State, exec (.st w) s = .next t ∧ (s.ckpt.state ≠ .streaming → e.leaf.dirty = true → t.mem = s.mem) ∧
      (t.loadL1 x.b.core x.b.ctx e.va key e.n none).2 = .ok (x.storeBytes l)

/-- R229, R235, R236: scratchpad loads, stores and atomics inside the block's scratchpad. -/
def Obligations.ScratchAccesses : Prop :=
  Ends 0xA4 none readsAC .lds (fun x => x.scratchOk x.sa (memBytes x.mod) false)
    (fun x => ((x.lanesSet fun l => x.result (max 32 (8 * memBytes x.mod))
      (loadValue x.mod [x.s0.scratchRead x.uid (x.sa l) (memBytes x.mod)])).1, x.allNext)) ∧
  Ends 0xA5 none readsABC .sts (fun x => x.scratchOk x.sa (memBytes x.mod) true)
    (fun x => (x.act.foldl (fun (s : State) l => s.scratchWrite x.uid (x.sa l) (x.storeBytes l)) x.s0, x.allNext)) ∧
  Ends 0xA8 none readsAB .atom
    (fun x => x.inScratch = true ∧ x.scratchOk (fun l => x.a l 32) (memBytes x.mod) true)
    (fun x => (x.act.foldl (fun (s : State) l =>
      let r := x.rmw l (s.scratchRead x.uid (x.a l 32) (memBytes x.mod))
      atomResult x (s.scratchWrite x.uid (x.a l 32) r.1) l r.2.1 r.2.2) x.s0, x.allNext)) ∧
  Ends 0xA9 none readsAB .red
    (fun x => x.inScratch = true ∧ x.staged = false ∧ x.scratchOk (fun l => x.a l 32) (memBytes x.mod) true)
    (fun x => (x.act.foldl (fun (s : State) l =>
      let r := x.rmw l (s.scratchRead x.uid (x.a l 32) (memBytes x.mod))
      atomResult x (s.scratchWrite x.uid (x.a l 32) r.1) l r.2.1 r.2.2) x.s0, x.allNext))

/-- R240 to R244: fences, write-back, the two code barriers and the prefetch. -/
def Obligations.FencesAndCode : Prop :=
  Ends 0xAA none [] .fence (fun x => x.act ≠ [] ∧ x.fn < 3) (fun x => (x.s0, [])) ∧
  Ends 0xAA none [] .fence (fun x => x.act ≠ [] ∧ 3 ≤ x.fn ∧ x.s0.downSpokes = [] ∧
      (x.mod = 1 ∨ x.mod = 3 ∨ x.mod = 4 → (x.s0.fencePublish x.b.core).2.2 = .done)) (fun x =>
    let s := if x.mod = 1 ∨ x.mod = 3 ∨ x.mod = 4 then (x.s0.fencePublish x.b.core).1.updCore x.b.core fun c => { c with heard := [] }
      else x.s0
    let s := if x.mod = 2 ∨ x.mod = 3 ∨ x.mod = 4 then s.publishAll x.b.core else s
    let s := if x.mod = 1 ∨ x.mod = 3 ∨ x.mod = 4 then s.acquireL1 x.b.core else s
    (s.flushDailies x.uid x.ci, [])) ∧
  Ends 0xAB none readsAB .wback (fun x => x.s0.downSpokes = []) (fun x =>
    (x.act.foldl (fun (s : State) l =>
      (s.l1.filter fun k => k.core == x.b.core && k.ctx == x.b.ctx && k.dirty && k.priv.isNone && x.names l k.vline).foldl
        State.publishLine s) x.s0, x.allNext)) ∧
  Ends 0xAC none readsAB .icinv (fun _ => True)
    (fun x => (x.act.foldl (fun (s : State) l => s.markStale x.b.ctx (x.names l)) x.s0, x.allNext)) ∧
  Ends 0xAD none [] .fetchb (fun _ => True) (fun x => (x.act.foldl (fun (s : State) l =>
    s.updThread x.uid x.ci l fun t => { t with stale := none, lastIb := [] }) x.s0, x.allNext)) ∧
  Ends 0xAE none [] .pref (fun _ => True) (fun x => (x.s0, []))

/-- R115: a call stores the return address in the lane's return stack and goes to its target; `ret` goes back to it. -/
def Obligations.Calls : Prop :=
  (∀ (w : Fields) (s : State) (x : Ctx) (es : Nat → List Elem) (target : Ctx → Nat → Nat), x.inDevice es →
    (∀ l ∈ x.act, (x.t l).depth < 32 ∧ target x l % 4 = 0 ∧
      x.plan .write (stackElems x l (x.t l).depth) = .ready (es l)) →
    Quiet x.s0 x.b.core →
    let lane : Ctx → State → Nat → State × LaneRes := fun x s l =>
      let r := storeLane x s l (target x l) x.privOwner false (cutBytes (toBytes (x.pc + x.len) 8) (es l))
      (r.1.updThread x.uid x.ci l fun t => { t with depth := t.depth + 1 }, .jump (target x l))
    let vas := x.vas fun x l => stackElems x l (x.t l).depth
    (IssuesLong 0x23 none readsA w s x → (∀ y l, target y l = wrapInt ((y.pc : Int) + sext (y.a l 32) 32) 64) →
      exec (.call w) s = .next (x.ends ((x.lanesRun lane).1.seeWalks x.b.core x.b.ctx vas) (x.lanesRun lane).2)) ∧
    (IssuesLong 0x24 none readsA w s x → (∀ y l, target y l = y.a l 64) →
      exec (.callx w) s = .next (x.ends ((x.lanesRun lane).1.seeWalks x.b.core x.b.ctx vas) (x.lanesRun lane).2))) ∧
  (∀ (w : Fields) (s : State) (x : Ctx) (l : Nat) (e : Elem) (s1 : State) (bs : List Byte), IssuesLong 0x25 none [] w s x →
    x.act = [l] → x.b.isDirector = false → (x.t l).depth ≠ 0 → x.s0.downSpokes = [] →
    x.plan .read (stackElems x l ((x.t l).depth - 1)) = .ready [e] →
    readElem x x.s0 x.privOwner e = (s1, .ok (some bs)) → fromBytes bs % 4 = 0 →
    exec (.ret w) s = .next (x.ends ((s1.updThread x.uid x.ci l fun t => { t with depth := t.depth - 1 }).seeWalks
      x.b.core x.b.ctx (x.vas retElems)) [(l, .jump (fromBytes bs))])) ∧
  (∀ (w : Fields) (s : State) (x : Ctx), IssuesLong 0x25 none [] w s x → (∀ l ∈ x.act, (x.t l).depth = 0) →
    x.b.isDirector = false →
    exec (.ret w) s = .next (x.ends (x.s0.seeWalks x.b.core x.b.ctx []) (x.faults fun _ => protF 0x01 0)))

/-- R246 to R248, R252, R254, R257 to R259, R262: a copy instruction takes one dolly entry for each active lane; it issues only where its
core's dolly has room. A queued copy that nothing before it holds back starts, and moves up to its first piece that is not at hand (log
entries 45 and 78); a landed one finishes and leaves the dolly. -/
def Obligations.Copies : Prop :=
  Runs 0xC0 none readsA .cpy (fun _ => True) (laneBody copyLane) ∧
  Runs 0xC2 none readsA .cpyd (fun _ => True) (laneBody copyLane) ∧
  Runs 0xC3 none readsA .cpyr (fun _ => True) (laneBody copyLane) ∧
  (∀ (w : Fields) (s : State) (x : Ctx) (t : State) (rs : List (Nat × LaneRes)), IssuesLong 0xC1 none readsA w s x →
    (∀ l ∈ x.act, x.b.followPends x.c x.clk x.w l = false) →
    laneBody cpymLane x = .done t rs → (∀ r ∈ rs, r.2 = .next) →
    exec (.cpym w) s = .next (x.ends (t.tileKick x.b.core) rs)) ∧
  (∀ p ∈ ([(0xC0, .cpy), (0xC2, .cpyd), (0xC3, .cpyr)] : List (Nat × (Fields → Instr))),
    ∀ (w : Fields) (s : State) (x : Ctx) (l : Nat) (d : CopyDesc), IssuesLong p.1 none readsA w s x → x.act = [l] →
    x.scratchOk (fun k => x.a k 32) 32 false →
    checkCopy p.1 (x.a l 32) x.b.sheet.scratch (fromBytes (x.s0.scratchRead x.uid (x.a l 32) 32)) = .ok d →
    exec (p.2 w) s = .next (x.ends (x.s0.enterCopy (x.newCopy x.s0 l (x.a l 32) d)).1 [(l, .next)])) ∧
  (∀ (w : Fields) (s : State) (x : Ctx) (l : Nat) (d : CopyDesc) (k : TileCmd), IssuesLong 0xC1 none readsA w s x → x.act = [l] →
    x.b.followPends x.c x.clk x.w l = false →
    x.checkScratch (x.a l 32) 64 32 = none → x.s0.rangeWait x.uid (x.a l 32) 64 false = none →
    (x.s0.blockOr x.b).body.bad = [] →
    let v := fromBytes (x.s0.scratchRead x.uid (x.a l 32) 64)
    followBad v = none → checkCopy 0xC1 (x.a l 32) x.b.sheet.scratch v = .ok d → followCmd x (x.s0.blockOr x.b) v = .ok k →
    let r := x.s0.enterCopy (x.newCopy x.s0 l (x.a l 32) d)
    let q := r.1.issueCmd x.uid { k with copy := some r.2 }
    exec (.cpym w) s = .next (x.ends ((q.1.updCopy r.2 fun c => { c with follow := some q.2 }).tileKick x.b.core) [(l, .next)])) ∧
  Ends 0xC4 none readsAB .comb
    (fun x => ∀ l ∈ x.act, x.a l 64 % 4 = 0)
    (fun x => (x.act.foldl (fun (s : State) l =>
      (s.enterCopy { x.newCopy s l 0 (plainDesc (x.a l 64) (x.bv l 32)) with range := none, dest := [] }).1) x.s0, x.allNext)) ∧
  Ends 0xC8 none readsAB .flagr
    (fun x => x.b.sheet.det = false ∧ x.b.inside = false ∧
      ∀ l ∈ x.act, x.a l 64 % 4 = 0 ∧ x.bv l 32 ≤ 3)
    (fun x => (x.act.foldl (fun (s : State) l =>
      (s.enterCopy { x.newCopy s l 0 (plainDesc (x.a l 64) 4) with range := none, dest := [], queue := some (x.bv l 32) }).1) x.s0,
      x.allNext)) ∧
  Ends 0xC5 none [] .seal (fun _ => True) (fun x => (x.act.foldl (fun (s : State) l =>
    let n := ((x.t l).batch.toNat + 1) % 2 ^ 32
    (s.updCrew x.uid x.ci fun c => wrvOf c x.clk l x.w x.w.d 32 n false).updThread x.uid x.ci l fun t =>
      { t with batch := BitVec.ofNat 32 n }) x.s0, x.allNext)) ∧
  Ends 0xC6 none readsA .bwait (fun x => ∀ l ∈ x.act, x.s0.batchOpen x.uid x.ci l (x.t l) (x.a l 32) = false)
    (fun x => (x.s0, x.allNext)) ∧
  Writes 0xC7 none readsA .bpoll (fun x l =>
    { preds := [(x.w.d.toNat, !x.s0.batchOpen x.uid x.ci l (x.t l) (x.a l 32))] }) ∧
  (∀ (id : Nat) (s : State) (c : Copy), s.copies.find? (fun e => e.id == id) = some c →
    (c.st = .queued → c.op ≠ 0xC8 → s.copyReady c = true → exec (.copyStart id) s = .next (s.runCopy id)) ∧
    (c.st = .moving → c.landed = true →
      exec (.copyFinish id) s = .next (s.finishCopy c) ∧ ∀ e ∈ (s.finishCopy c).copies, e.id ≠ id) ∧
    (c.op = 0xC8 → c.st = .queued → s.copyReady c = true →
      ((s.runCopy id).copies.any fun e => e.id == id && e.landed) = true →
      exec (.flagRaise id) s = .next ((s.runCopy id).finishCopy c) ∧
        ∀ e ∈ ((s.runCopy id).finishCopy c).copies, e.id ≠ id))

/-- R271, R272: `rput.init` makes an empty ring; the lanes of `rput` or `rget` that find room or FULL slots act together, in
ascending order, and wait together where they do not. -/
def Obligations.StageRings : Prop :=
  Ends 0xE0 (some 1) (lowRead [0, 1]) .rputInit (fun x => x.act ≠ [] ∧
      let v := x.bv x.low 32
      1 ≤ v % 32 ∧ v % 32 ≤ 16 ∧ v / 32 % 8 = 0 ∧ v / 256 ≤ 2 ∧ x.a x.low 32 % 16 = 0 ∧
        x.a x.low 32 + 16 * (v % 32) ≤ x.b.sheet.scratch)
    (fun x => ((x.s0.updRing x.uid x.w.d.toNat fun _ =>
      ⟨x.a x.low 32, x.bv x.low 32 % 32, x.bv x.low 32 / 256, 0, 0, List.replicate (x.bv x.low 32 % 32) .empty⟩), [])) ∧
  Ends 0xE0 (some 0) readsA .rput (fun x => x.act ≠ [] ∧ x.ringAnswer true = .ready)
    (fun x => ((x.ringState true).ringAct x.uid x.clk (x.ringGroup true), [])) ∧
  Ends 0xE0 (some 0) readsA .rput (fun x => x.act ≠ [] ∧ x.ringAnswer true = .waits)
    (fun x => ((x.ringState true).updBlock x.uid fun b =>
        { b with body := { b.body with ringWaits := b.body.ringWaits ++ [x.ringGroup true] } },
      x.act.map fun l => (l, .wait (.ring x.s0.nextId)))) ∧
  Ends 0xE1 none [] .rget (fun x => x.act ≠ [] ∧ x.ringAnswer false = .ready)
    (fun x => ((x.ringState false).ringAct x.uid x.clk (x.ringGroup false), [])) ∧
  Ends 0xE1 none [] .rget (fun x => x.act ≠ [] ∧ x.ringAnswer false = .waits)
    (fun x => ((x.ringState false).updBlock x.uid fun b =>
        { b with body := { b.body with ringWaits := b.body.ringWaits ++ [x.ringGroup false] } },
      x.act.map fun l => (l, .wait (.ring x.s0.nextId))))

/-- R284, R287, R290, R294, R295: the forms of the block, cast and package barriers: every lane arrives, and goes on or waits. -/
def Obligations.BarrierForms : Prop :=
  Acts 0xE6 (some 0) readsB .barMeet Ctx.barOk (barArrive false true) ∧
  Acts 0xE6 (some 1) readsB .barPost Ctx.barOk (barArrive false false) ∧
  Acts 0xE6 (some 3) readsB .barLast Ctx.barOk (barArrive true true) ∧
  Ends 0xE6 (some 2) [] .barAwait (fun _ => True) (fun x => (x.s0, x.act.map fun l =>
    (l, if hasArr (x.b.bar x.w.a.toNat).arrs x.ci l then .wait (.bar x.w.a.toNat) else .next))) ∧
  (∀ (key : Nat) (ok : Ctx → Prop), ok = (fun x => key = x.a x.low 32 ∧ (∀ l ∈ x.act, x.a l 32 = key) ∧
      (x.s0.castFor x.b key).isSome = true) →
    Acts 0xE7 (some 0) (lowRead [0]) .cbarMeet (fun x => ok x ∧ x.meetOk false key) (meetArrive false false true key) ∧
    Acts 0xE7 (some 1) (lowRead [0]) .cbarPost (fun x => ok x ∧ x.meetOk false key) (meetArrive false false false key) ∧
    Acts 0xE7 (some 2) (lowRead [0]) .cbarAwait ok (meetAwait false key) ∧
    Acts 0xE7 (some 3) (lowRead [0]) .cbarLast (fun x => ok x ∧ x.meetOk false key) (meetArrive false true true key)) ∧
  (∀ (key : Nat) (ok : Ctx → Prop), ok = (fun x => key = x.a x.low 32 ∧ (∀ l ∈ x.act, x.a l 32 = key) ∧ key ≤ 63) →
    Acts 0xE8 (some 0) (lowRead [0]) .pbarMeet (fun x => ok x ∧ (x.s0.pkg x.b.ctx key).count ≠ 0 ∧ x.meetOk true key)
      (meetArrive true false true key) ∧
    Acts 0xE8 (some 1) (lowRead [0]) .pbarPost (fun x => ok x ∧ (x.s0.pkg x.b.ctx key).count ≠ 0 ∧ x.meetOk true key)
      (meetArrive true false false key) ∧
    Acts 0xE8 (some 2) (lowRead [0]) .pbarAwait ok (meetAwait true key)) ∧
  (∀ (w : Fields) (s : State) (x : Ctx), IssuesLong 0xE8 (some 3) (lowRead [0, 1]) w s x → x.act ≠ [] → x.a x.low 32 ≤ 63 →
    1 ≤ x.bv x.low 32 → x.bv x.low 32 ≤ 65535 → (x.s0.pkg x.b.ctx (x.a x.low 32)).arrived = [] →
    (x.s0.pkg x.b.ctx (x.a x.low 32)).next = [] → (x.s0.pkg x.b.ctx (x.a x.low 32)).ending = none →
    ∃ t : State, exec (.pbarCfg w) s = .next (x.ends t []) ∧ t.mem = s.mem ∧ t.ctxs = (x.s0.putPkg x.b.ctx
      ⟨x.a x.low 32, x.bv x.low 32, 0, [], [], none⟩).ctxs)

/-- R288, R290, R291, R295, R296: the release of a block barrier, a block's arrival counted at its cast, at the root of the clapper tree,
and the release of a package barrier when its 64 cycles are over; that its next phase is then tested at once is the model's choice (log
entry 46). -/
def Obligations.BarrierReleases : Prop :=
  (∀ (s : State) (uid n : Nat) (b : Block), s.block? uid = some b → (b.bar n).arrs ≠ [] → (b.bar n).count = 0 →
    (∀ p ∈ b.liveThreads, hasArr (b.bar n).arrs p.1 p.2 = true) → s.copiesDone ((b.bar n).arrs.flatMap (·.carried)) = true →
    ∃ b', (s.settleBar uid n).block? uid = some b' ∧ b'.bar n = { Bar.idle with exits := b.exits } ∧
      ∀ c ∈ b'.body.crews, ∀ t ∈ c.threads, t.waitsOn ≠ some (.bar n)) ∧
  (∀ (uid cast ph : Nat) (s : State) (b : Block) (h : CastHub), s.block? uid = some b →
    (meetOf b.body.casts cast).sent = some ph → (meetOf b.body.casts cast).counted = false → s.castFor b cast = some h →
    ∃ s1 : State, s1.launches = s.launches ∧ s1.mem = s.mem ∧
      exec (.castArrival uid cast) s = .next (if ph < h.g ∨ (h.arrived.any fun a => a.1 == b.lin) = true then s1
        else (s1.updCast b.launch cast fun h => { h with arrived := h.arrived ++ [(b.lin, s.hubCycle)] }).castTest b.launch cast true)) ∧
  (∀ (uid id ph : Nat) (s : State) (b : Block), s.block? uid = some b → (meetOf b.body.pkgs id).sent = some ph →
    (meetOf b.body.pkgs id).counted = false → (s.pkg b.ctx id).g ≤ ph → (b.launch, b.lin) ∉ (s.pkg b.ctx id).arrived →
    (s.pkg b.ctx id).ending = none →
    ∃ s1 : State, s1.ctxs = s.ctxs ∧ s1.mem = s.mem ∧ exec (.clapperRootArrival uid id) s = .next ((s1.putPkg b.ctx
      { s.pkg b.ctx id with arrived := (s.pkg b.ctx id).arrived ++ [(b.launch, b.lin)] }).pkgTest b.ctx id)) ∧
  (∀ (ctx id t : Nat) (s : State), (s.pkg ctx id).ending = some t → t ≤ s.coreCycle →
    exec (.clapperCountdownElapse ctx id) s = .next ((s.putPkg ctx { s.pkg ctx id with
      g := (s.pkg ctx id).g + 1, arrived := (s.pkg ctx id).next, next := [], ending := none }).pkgTest ctx id))

/-- R157, R162, R163, R166, R167, R177: where the reel has room, tracked arithmetic, `qld` and `qcut` append a node for each
active lane in ascending order and write the enclosure of the result. -/
def Obligations.TrackedArithmetic : Prop :=
  Ends 0x83 none [] .qadd Ctx.reelRoom (fun x => x.trackedOp 0x10 2 0 fun a b _ => (ivRound 0 (a.1.add b.1, a.2.add b.2), false)) ∧
  Ends 0x84 none [] .qsub Ctx.reelRoom
    (fun x => x.trackedOp 0x11 2 0 fun a b _ => (ivRound 0 (a.1.add b.2.neg, a.2.add b.1.neg), false)) ∧
  Ends 0x85 none [] .qmul Ctx.reelRoom (fun x => x.trackedOp 0x12 2 0 fun a b _ =>
    let ps := [a.1.mul b.1, a.1.mul b.2, a.2.mul b.1, a.2.mul b.2]
    (ivRound 0 (bdMin ps, bdMax ps), false)) ∧
  Ends 0x86 none [] .qfma Ctx.reelRoom (fun x => x.trackedOp 0x13 3 0 fun a b c =>
    let ps := [a.1.mul b.1, a.1.mul b.2, a.2.mul b.1, a.2.mul b.2]
    (ivRound 0 ((bdMin ps).add c.1, (bdMax ps).add c.2), false)) ∧
  Ends 0x87 none [] .qdiv Ctx.reelRoom (fun x => x.trackedOp 0x14 2 0 fun a b _ =>
    let qs := [a.1.div b.1, a.1.div b.2, a.2.div b.1, a.2.div b.2]
    if b.1.sign ≤ 0 ∧ 0 ≤ b.2.sign then ((.ninf, .pinf), b.1.sign == 0 && b.2.sign == 0)
    else if none ∈ qs then ((.ninf, .pinf), false)
    else (ivRound 0 (bdMin (qs.filterMap id), bdMax (qs.filterMap id)), false)) ∧
  Ends 0x88 none [] .qsqrt Ctx.reelRoom (fun x => x.trackedOp 0x15 1 nflNOEX fun a _ _ =>
    if a.2.sign < 0 then ((.ninf, .pinf), true) else ((a.1.sqrt 0 false, a.2.sqrt 0 true), false)) ∧
  Ends 0x89 none [] .qneg Ctx.reelRoom (fun x => x.trackedOp 0x16 1 0 fun a _ _ => ((a.2.neg, a.1.neg), false)) ∧
  Ends 0x8A none [] .qabs Ctx.reelRoom (fun x => x.trackedOp 0x17 1 0 fun a _ _ =>
    (if 0 ≤ a.1.sign then a else if a.2.sign ≤ 0 then (a.2.neg, a.1.neg) else (.fin ⟨0, 1⟩, a.1.neg.max a.2), false)) ∧
  Ends 0x80 none readsA .qld (fun x => x.reelRoom ∧ x.fn = 0) (fun x => x.appends fun s l =>
    let v := x.a l 32
    match fp32.decode v with
    | .fin _ q => x.appendNode s l 0x01 [] (if q.isZero then 0 else v) 0 fun h =>
        mkQ (if q.isZero then 0 else v) (if q.isZero then 0 else v) h false false false
    | _ => x.appendNode s l 0x01 [] v nflNAN fun h => mkQ 0 0 h true false false) ∧
  Ends 0x80 none readsA .qld (fun x => x.reelRoom ∧ x.fn ≠ 0) (fun x => x.appends fun s l =>
    let n := if x.fn ≤ 2 then 32 else 64
    let i : Int := if x.fn = 1 ∨ x.fn = 3 then sext (x.a l n) n else (x.a l n : Int)
    x.appendNode s l (if x.fn = 1 ∨ x.fn = 3 then 0x02 else 0x03) [] (wrapInt i 64) 0 fun h =>
      mkQ ((Bd.fin (Q.ofInt i)).bits false) ((Bd.fin (Q.ofInt i)).bits true) h false false false) ∧
  Ends 0x8F none [] .qcut Ctx.reelRoom (fun x => x.appends fun s l =>
    let a := x.q l x.w.a
    x.appendNode s l 0x05 [] (a.lo.toNat + a.hi.toNat * 2 ^ 32)
      (nflNOEX ||| (if a.nan then nflNAN else 0) ||| (if a.und then nflUND else 0))
      fun h => mkQ a.lo.toNat a.hi.toNat h a.nan a.und true)

/-- R168 to R171, R176, R178: moves, releases, midpoints, bounds and the state of tracked registers; a comparison whose enclosures decide
it writes its predicates; the lanes of an undecided one, and those of `qref`, `qcutx` and `qldd`, hand one request each to the retake
engine and park as one sub-crew. A `qcmp` whose destination is its validity's keeps the validity: the order is the model's choice (log
entry 69). -/
def Obligations.TrackedReadsAndRequests : Prop :=
  Ends 0x82 none [] .qmov (fun _ => True)
    (fun x => (x.act.foldl (fun (s : State) l => s.setq x.uid x.ci l x.w.d.toNat (x.q l x.w.a)) x.s0, x.allNext)) ∧
  Ends 0x91 none [] .qfree (fun _ => True)
    (fun x => (x.act.foldl (fun (s : State) l => s.setq x.uid x.ci l x.w.d.toNat QReg.zero) x.s0, x.allNext)) ∧
  Writes 0x8C none [] .qmid (fun x l =>
    let q := x.q l x.w.a
    x.result 32 (if q.nan ∨ q.und then 0x7FC00000 else match q.iv with
      | (.fin a, .fin b) => (roundQ fp32 .rne false ((a.add b).scale (-1))).1
      | (.fin _, _) => q.lo.toNat
      | (_, .fin _) => q.hi.toNat
      | _ => 0x7FC00000)) ∧
  Writes 0x8D none [] .qbnd (fun x l => x.result 64 ((x.q l x.w.a).lo.toNat + (x.q l x.w.a).hi.toNat * 2 ^ 32)) ∧
  Ends 0x92 none [] .qstat (fun _ => True) (fun x => x.lanesRun qstatLane) ∧
  (∀ (r : Nat → Bool), Ends 0x8B none [] .qcmp
    (fun x => ∀ l ∈ x.act, (x.q l x.w.a).nan = false ∧ (x.q l x.w.b).nan = false ∧ (x.q l x.w.a).und = false ∧
      (x.q l x.w.b).und = false ∧ ((x.q l x.w.a).handle = 0 ∨ (x.q l x.w.a).handle ≠ (x.q l x.w.b).handle) ∧
      testCond x.fn (x.q l x.w.a).iv (x.q l x.w.b).iv = some (r l))
    (fun x => (x.act.foldl (fun (s : State) l => s.updThread x.uid x.ci l fun t =>
      (t.setPred x.w.d.toNat (r l)).setPred (x.mod % 8) true) x.s0, []))) ∧
  Ends 0x8B none [] .qcmp
    (fun x => ∀ l ∈ x.act, (x.q l x.w.a).nan = false ∧ (x.q l x.w.b).nan = false ∧ (x.q l x.w.a).und = false ∧
      (x.q l x.w.b).und = false ∧ ((x.q l x.w.a).handle = 0 ∨ (x.q l x.w.a).handle ≠ (x.q l x.w.b).handle) ∧
      testCond x.fn (x.q l x.w.a).iv (x.q l x.w.b).iv = none)
    (fun x => x.parks (x.act.map fun l => (l, 0))) ∧
  Ends 0x8E none [] .qref (fun _ => True) (fun x => x.parks (x.act.map fun l => (l, 0))) ∧
  Ends 0x90 none [] .qcutx (fun _ => True) (fun x => x.parks (x.act.map fun l => (l, 0))) ∧
  Ends 0x81 none readsA .qldd (fun x => ∀ l ∈ x.act, x.a l 64 % 32 = 0 ∧ x.a l 64 < 2 ^ 53)
    (fun x => x.parks (x.act.map fun l => (l, x.a l 64))) ∧
  (∀ (x : Ctx) (lanes : List (Nat × Nat)), lanes ≠ [] →
    (x.parks lanes).2 = lanes.map (fun l => (l.1, .park (.refine x.s0.nextId))) ∧
    (x.parks lanes).1.mem = x.s0.mem ∧ (x.parks lanes).1.blocks = x.s0.blocks ∧
    (x.parks lanes).1.retakes.length = x.s0.retakes.length + lanes.length)

/-- R165, R171, R172: the sweep unit frees the oldest queued handle; the retake engine answers a core's oldest request, and with
the last of its sub-crew the lanes complete in ascending order. -/
def Obligations.TrackedEvents : Prop :=
  (∀ (uid : Nat) (s : State) (b : Block), s.block? uid = some b → b.onCore = true →
    exec (.reelSweep uid) s = .next (s.setReel uid b.body.reel.sweepOne)) ∧
  (∀ (r : Reel) (h : Nat) (rest : List Nat) (n : RNode), r.sweep = h :: rest → r.node? h = some n →
    r.sweepOne.node? h = none) ∧
  (∀ (id : Nat) (s : State) (r : Retake) (b : Block) (t : Thread),
    s.retakes.find? (fun r => r.id == id && r.res.isNone) = some r → s.block? r.uid = some b → s.thread? r.uid r.ci r.lane = some t →
    b.state = .resident →
    (∀ q ∈ s.retakes.takeWhile (fun q => q.id != id), q.res.isNone = true →
      ∀ c, s.block? q.uid = some c → c.core ≠ b.core ∨ c.state ≠ .resident) →
    ∀ (s0 : State) (v : RetakeRes), s.answer b r t = (s0, some v) →
    let a := s0.endBring (dieOf b.core) (cmdReader id)
    let s1 : State := { a with retakes := mapWhere (fun q => q.id == id) (fun q => { q with res := some v }) a.retakes }
    let mine := s1.retakes.filter fun q => q.group == r.group
    exec (.retakeRequestDone id) s = .next (if ∀ q ∈ mine, q.res.isSome = true then
      { s1 with retakes := s1.retakes.filter fun q => q.group != r.group }.resumeGroup b (sortBy (·.lane) mine) else s1))

/-- R182 to R190, R197 to R203: where its checks pass, a tile instruction issues one command for the bundle; `mprec` and `mscale`
write the precision register at once; the waits on a thread's moves and on a tile's commands, and the state word of a tile. -/
def Obligations.TileCommands : Prop :=
  Ends 0xD0 none (lowRead [0]) .mprec (fun x => x.act ≠ [] ∧ precOk (x.a x.low 32) = true) (fun x =>
    let f : BitVec 64 → BitVec 64 := fun r => BitVec.ofNat 64 (setBits r.toNat 0 32 (x.a x.low 32))
    (x.s0.updBlock x.uid fun b => { b with body := { b.body with prec := updAt b.body.prec x.w.d.toNat f } }, [])) ∧
  Ends 0xD4 none (lowRead [0]) .mscale
    (fun x => x.act ≠ [] ∧ -512 ≤ sext (x.a x.low 32) 32 ∧ sext (x.a x.low 32) 32 ≤ 511) (fun x =>
    let f : BitVec 64 → BitVec 64 := fun r => BitVec.ofNat 64 (setBits r.toNat 32 10 (x.a x.low 32 % 1024))
    (x.s0.updBlock x.uid fun b => { b with body := { b.body with prec := updAt b.body.prec x.w.d.toNat f } }, [])) ∧
  Ends 0xD1 none (lowRead [0]) .mloadb
    (fun x => x.act ≠ [] ∧ x.dtile.st ≠ .unbound ∧ x.a x.low 64 % 32 = 0 ∧ x.a x.low 64 < 2 ^ 53)
    (fun x => x.command (x.cmd x.b [x.w.d.toNat] (x.a x.low 64) 0 []) id) ∧
  Ends 0xD2 none (lowRead [0, 1]) .mrun
    (fun x =>
      let w := x.b.wreg x.w.d.toNat
      let ks := x.bv x.low 32
      x.act ≠ [] ∧ x.dtile.st ≠ .unbound ∧ x.a x.low 32 % 32 = 0 ∧ 1 ≤ ks ∧ ks ≤ 4096 ∧
        x.a x.low 32 + wSlot w * ks * x.dtile.m * wBlocks w ≤ x.b.sheet.scratch ∧ precOk (w.toNat % 2 ^ 32) = true ∧
        x.dtile.n ≤ wMaxN w)
    (fun x => x.command (x.cmd x.b [x.w.d.toNat] (x.a x.low 32) (x.bv x.low 32) []) id) ∧
  Ends 0xD3 (some 0) (lowRead [0]) .mzero
    (fun x => x.act ≠ [] ∧ dimsOk (x.a x.low 32 % 2 ^ 16) (x.a x.low 32 / 2 ^ 16) = true)
    (fun x => x.command
      { x.cmd x.b [x.w.d.toNat] (x.a x.low 32) 0 [] with m := x.a x.low 32 % 2 ^ 16, n := x.a x.low 32 / 2 ^ 16 }
      fun s => s.updTile x.uid x.w.d.toNat fun t =>
        { t with st := .pending, m := x.a x.low 32 % 2 ^ 16, n := x.a x.low 32 / 2 ^ 16 }) ∧
  Ends 0xD3 (some 1) [] .mzeroFree (fun x => x.act ≠ [] ∧ x.dtile.st ≠ .unbound)
    (fun x => x.command (x.cmd x.b [x.w.d.toNat] 0 0 []) fun s =>
      s.updTile x.uid x.w.d.toNat fun t => { t with st := .unbound }) ∧
  Ends 0xD6 (some 0) (lowRead [0]) .msave
    (fun x => x.act ≠ [] ∧ x.dtile.st ≠ .unbound ∧ x.a x.low 64 % 64 = 0)
    (fun x => x.command (x.cmd x.b [x.w.d.toNat] (x.a x.low 64) 0 []) id) ∧
  Ends 0xD6 (some 1) (lowRead [0]) .msaveStop
    (fun x => x.act ≠ [] ∧ x.dtile.st ≠ .unbound ∧ x.a x.low 64 % 64 = 0 ∧
      ∀ k ∈ x.b.cmds, k.stops = none ∧ ¬(k.op = 0xD2 ∧ k.dest = x.w.d.toNat))
    (fun x => x.command (x.cmd x.b [x.w.d.toNat] (x.a x.low 64) 0 []) id) ∧
  (∀ k : TileCmd, Ends 0xD6 (some 1) (lowRead [0]) .msaveStop
    (fun x => x.act ≠ [] ∧ x.dtile.st ≠ .unbound ∧ x.a x.low 64 % 64 = 0 ∧
      x.b.cmds = [k] ∧ k.op = 0xD2 ∧ k.dest = x.w.d.toNat ∧ k.stops = none ∧ k.hold = none ∧ k.id ≠ x.s0.nextId ∧
      x.s0.served x.b.core x.uid k.id = false)
    (fun x => x.command { x.cmd x.b [x.w.d.toNat] (x.a x.low 64) 0 [] with stops := some k.id } fun s => s.stopRun x.uid k)) ∧
  Ends 0xD7 none (lowRead [0]) .mrest (fun x => x.act ≠ [] ∧ x.a x.low 64 % 64 = 0)
    (fun x => x.command (x.cmd x.b [x.w.d.toNat] (x.a x.low 64) 0 []) fun s =>
      s.updTile x.uid x.w.d.toNat fun t => { t with st := .pending, m := 0, n := 0 }) ∧
  Ends 0xDB none [] .mrecon
    (fun x =>
      let ts := [x.w.a.toNat, x.w.b.toNat, x.w.c.toNat].take (x.mod + 1)
      x.act ≠ [] ∧ x.dtile.st ≠ .unbound ∧ wRN (x.b.wreg x.w.d.toNat) = false ∧
        ∀ t ∈ ts, (x.b.tile t).st ≠ .unbound ∧ wRN (x.b.wreg t) = true ∧ (x.b.tile t).m = x.dtile.m ∧ (x.b.tile t).n = x.dtile.n)
    (fun x => x.command (x.cmd x.b (x.w.d.toNat :: [x.w.a.toNat, x.w.b.toNat, x.w.c.toNat].take (x.mod + 1)) 0 0 []) id) ∧
  Ends 0xD8 none (lowRead [1]) .tsl
    (fun x => x.act ≠ [] ∧ (x.b.tile x.w.a.toNat).st ≠ .unbound ∧ x.bv x.low 32 < 2 ^ 28 ∧
      (x.fn = 2 ∨ x.bv x.low 32 / 256 % 256 = 0) ∧ ¬(x.fn = 2 ∧ wRN (x.b.wreg x.w.a.toNat) = true))
    (fun x => x.command (x.cmd x.b [x.w.a.toNat] 0 (x.bv x.low 32) (x.act.map fun l => (l, 0)))
      fun s => s.updCrew x.uid x.ci fun c => x.act.foldl (fun c l => c.pushPending (x.s0.nextId + 1) l x.w) c) ∧
  Ends 0xD9 none (eachLane [0] ++ lowRead [1]) .tss
    (fun x => x.act ≠ [] ∧ x.dtile.st ≠ .unbound ∧ x.bv x.low 32 < 2 ^ 28 ∧ x.bv x.low 32 / 256 % 256 = 0)
    (fun x => x.command (x.cmd x.b [x.w.d.toNat] 0 (x.bv x.low 32)
      (x.act.map fun l => (l, x.a l (if x.fn = 1 then 128 else 32)))) id) ∧
  Ends 0xDA (some 0) readsA .twait (fun _ => True) (fun x => (x.s0, x.act.map fun l =>
    (l, if 64 ≤ x.a l 32 ∨ x.b.movesOf x.ci l ≤ x.a l 32 then .next else .wait (.moves (x.a l 32))))) ∧
  Ends 0xDA (some 1) [] .twaitT (fun x => x.b.tileBusy x.w.a.toNat x.s0.nextId = false)
    (fun x => (x.act.foldl (fun (s : State) l => s.updThread x.uid x.ci l fun t =>
      t.setPred x.w.d.toNat ((x.b.tile x.w.a.toNat).st == .bound)) x.s0, x.allNext)) ∧
  Ends 0xDA (some 1) [] .twaitT (fun x => x.b.tileBusy x.w.a.toNat x.s0.nextId = true)
    (fun x => (x.s0, x.act.map fun l => (l, .wait (.tile x.w.a.toNat x.s0.nextId x.w.d.toNat)))) ∧
  Writes 0xD5 none [] .mstat (fun x _ =>
    let t := x.b.tile x.w.a.toNat
    let cmds := x.b.cmds.filter fun c => c.tiles.contains x.w.a.toNat
    x.result 32 ((match t.st with | .unbound => 0 | .pending => 1 | .bound => 2 | .error => 3) * 2 ^ 30 +
      (if t.ue = true ∧ t.st ≠ .unbound then 2 ^ 29 else 0) + (if t.st = .error then t.cause * 2 ^ 24 else 0) +
      min cmds.length 255 * 2 ^ 16 + (match cmds.find? fun c => c.op == 0xD2 with | some c => c.kdone | none => 0)))

/-- R185, R186, R189 to R203, R205: units granted, the array's pick, a K step, a parity error, the commands performed, and an
uncorrectable error of the tile store. That an image's rows of A are read as the step begins, once no copy holds them (log entry 74), and
what a tile-store error records (log entry 54), are the model's choices. -/
def Obligations.TileEvents : Prop :=
  (∀ (id n : Nat) (s : State) (b : Block) (k : TileCmd), s.tileCmd? id = some (b, k) → k.waiting = some n →
    s.firstWaiter b.core n = true → b.onCore = true → k.hold = none → k.op = 0xD3 → tileUnits k.m k.n ≤ s.freeUnits b.core →
    exec (.tileAllocate id) s = .next ((s.grantUnits b k k.m k.n).endCmd b.uid id)) ∧
  (∀ (core : Nat) (s : State) (c : CoreSt) (b : Block) (k : TileCmd), s.cores[core]? = some c → c.array = none →
    leastBy (fun (b : Block) => (b.vclock * 64 + b.ctx) * 2 ^ 96 + b.lin)
      ((s.tileKick core).blocks.filter fun b => b.core == core && b.onCore && !(s.tileKick core).frozen b.ctx &&
        b.cmds.any fun k => (s.tileKick core).arrayReady b k) = some b →
    b.cmds.find? (fun k => (s.tileKick core).arrayReady b k) = some k →
    exec (.arrayPick core) s = .next ((s.tileKick core).updCore core fun c =>
      { c with array := some ⟨b.uid, k.id, k.op == 0xDB, []⟩ })) ∧
  (∀ (core : Nat) (s : State) (c : CoreSt) (a : ArrayOp) (b : Block) (k : TileCmd) (i : Image) (d : Nat), s.cores[core]? = some c →
    c.array = some a → s.tileCmd? a.cmd = some (b, k) → a.running = false → k.op = 0xD2 → (b.tile k.dest).desc = some d →
    c.image = some i → i.uid = b.uid → i.tile = k.dest → i.step = k.kdone → (∀ col ∈ i.cols, col.length = wBlocks k.w0) →
    i.rn = wRN k.w0 → wWB k.w0 ≤ i.ws →
    let rows := k.stepRange k.kdone
    s.rangeWait b.uid rows.1 rows.2 false = none → b.scratchBad rows.1 rows.2 = false →
    exec (.imageLoaded core) s = .next ((s.updTile b.uid k.dest fun t => { t with ws := i.ws }).updCore core fun c =>
      { c with array := some { a with running := true, rows := s.scratchRead b.uid rows.1 rows.2 }, image := some i })) ∧
  (∀ (core : Nat) (s : State) (c : CoreSt) (a : ArrayOp) (b : Block) (k : TileCmd) (i : Image), s.cores[core]? = some c →
    c.array = some a → s.tileCmd? a.cmd = some (b, k) → a.running = true → k.op = 0xD2 → c.image = some i →
    let r := kStep k.w0 i (k.stepRows a.rows) (b.tile k.dest).acc
    let s1 := ((((s.updTile b.uid k.dest fun t => { t with acc := r.1 }).updBlock b.uid fun b =>
      { b with vclock := b.vclock + if wRN k.w0 then 75 * k.m else k.m * wWA k.w0 * wWB k.w0 }).updCmd b.uid k.id fun k =>
      { k with kdone := k.kdone + 1, flags := k.flags ||| r.2 }).freeArray core)
    exec (.kStepEnd core) s = .next (if k.ks ≤ k.kdone + 1 then s1.endCmd b.uid k.id
      else if ∃ m ∈ b.cmds, m.stops = some k.id then s1.stopRun b.uid { k with kdone := k.kdone + 1 }
      else s1.tileKick core)) ∧
  (∀ (core : Nat) (s : State) (c : CoreSt) (a : ArrayOp) (b : Block) (k : TileCmd), s.cores[core]? = some c →
    c.array = some a → s.tileCmd? a.cmd = some (b, k) → a.running = true → k.op = 0xD2 →
    exec (.cimParityError core) s = .next (s.updCore core fun c =>
      { c with array := some { a with running := false, rows := [] }, image := none })) ∧
  (∀ (id : Nat) (s : State) (b : Block) (k : TileCmd), s.tileCmd? id = some (b, k) → s.cmdReady b k = true → b.onCore = true →
    (b.skips k = true → k.op ≠ 0xD8 → exec (.tileCommandComplete id) s = .next (s.endCmd b.uid id)) ∧
    (b.skips k = false → k.op = 0xD8 → exec (.tileCommandComplete id) s = .next ((s.doSlice b k).endCmd b.uid id)) ∧
    (b.skips k = false → k.op = 0xD9 → exec (.tileCommandComplete id) s = .next ((s.doStore b k).endCmd b.uid id)) ∧
    (b.skips k = false → k.op = 0xDB → s.served b.core b.uid id = true →
      exec (.tileCommandComplete id) s = .next (((s.freeArray b.core).doRecon b k).endCmd b.uid id))) ∧
  (∀ (uid tile elem : Nat) (correctable : Bool) (s : State) (b : Block), s.block? uid = some b →
    (correctable = true → elem < (b.tile tile).acc.length → exec (.tileStoreError uid tile elem correctable) s =
      .next { s with mgmt := { s.mgmt with ce := (s.mgmt.ce + 1) % 2 ^ 32 } }) ∧
    (correctable = false → elem < (b.tile tile).acc.length →
      exec (.tileStoreError uid tile elem correctable) s =
        .next ((({ s with mgmt := { s.mgmt with ue := (s.mgmt.ue + 1) % 2 ^ 16 } } : State).updTile uid tile fun t =>
        { t with ue := true, acc := updAt t.acc elem fun a => { a with poison := true } }).logEvent b.ctx
        { cls := 8, detail := 0, async := true, core := b.core, blk := b.lin, attempt := b.attempt, tag := b.launch })))

/-- R276, R277: `done` makes the block's completion event unless a region defers it or the slate holds it; the region
instructions wait for the block; at the meeting the block is IN, and out of it again. What is compared with `CSLOT.RSLOT` (log entry 47)
and what a snapshot holds (log entry 22) are the model's choices. -/
def Obligations.BlockRegions : Prop :=
  Ends 0xE2 none [] .doneRegion (fun x => x.act ≠ [] ∧ x.s0.carries x.uid x.ci x.low (x.t x.low) = [])
    (fun x => (x.s0.makeDone x.uid, [])) ∧
  Ends 0xE2 none [] .doneRegion (fun x => x.act ≠ [] ∧ x.s0.carries x.uid x.ci x.low (x.t x.low) ≠ [])
    (fun x => (x.s0, [(x.low, .wait (.region 0))])) ∧
  Ends 0xE3 none [] .idemb (fun _ => True) (fun x => (x.s0, x.act.map fun l => (l, .wait (.region 1)))) ∧
  Ends 0xE4 none [] .ideme (fun _ => True) (fun x => (x.s0, x.act.map fun l => (l, .wait (.region 2)))) ∧
  (∀ (s : State) (uid : Nat) (b : Block), s.block? uid = some b →
    (b.inside = true → ∃ b', (s.makeDone uid).block? uid = some b' ∧ b'.deferred = true ∧ (s.makeDone uid).mem = s.mem) ∧
    (b.inside = false → b.sheet.det = true → s.makeDone uid = s) ∧
    (b.inside = false → b.sheet.det = false → s.makeDone uid = s.completionEvent b.launch b.lin (some b.core))) ∧
  (∀ (s : State) (uid : Nat) (b : Block) (c : Context), s.block? uid = some b → b.allWait (.region 1) = true → b.cmds = [] →
    (∀ k ∈ s.copies, k.uid ≠ uid) → b.inside = false → (∀ n ∈ b.body.reel.nodes, n.spilled = false) →
    s.ctxs[b.ctx]? = some c → b.sheet.saveBytes ≤ c.rslot →
    ∃ b', (s.settleRegion uid).block? uid = some b' ∧ b'.inside = true ∧ b'.snap.isSome = true ∧
      ∀ k ∈ b'.body.crews, ∀ t ∈ k.threads, t.waitsOn ≠ some (.region 1)) ∧
  (∀ (s : State) (uid : Nat) (b : Block), s.block? uid = some b → b.allWait (.region 2) = true → b.inside = true →
    b.deferred = false → ∃ b', (s.settleRegion uid).block? uid = some b' ∧ b'.inside = false ∧ b'.snap = none)

/-- R264, R265, R269, R276, R282: a core without blocks takes its carve; a RETIRING block with nothing outstanding leaves its core;
a slate is released in the order of block indices. That arrivals on their way are counted before the block leaves is the model's choice
(log entry 79). -/
def Obligations.BlockEvents : Prop :=
  (∀ (core n : Nat) (s : State) (c : CoreSt), s.cores[core]? = some c → c.pendingCarve = some n → s.residents core = [] →
    exec (.carveApply core) s = .next ((s.updCore core fun c => { c with carve := n, pendingCarve := none }).shrinkL1 core (n - c.carve))) ∧
  (∀ (uid : Nat) (s : State) (b : Block), s.block? uid = some b → b.state = .retiring → s.retireBlocked b = false →
    s.downSpokes = [] →
    let s0 := s.lastArrivals uid
    let s1 : State := if b.sheet.det then
        { s0 with slates := s0.slates ++ [⟨b.uid, b.launch, b.lin, b.die, b.ctx, b.body.slate, b.body.slateOut, b.body.slatePages⟩] }
      else s0.publishAll b.core
    let s2 := (s1.removeBlock uid).updLaunch b.launch fun l => { l with retired := l.retired ++ [b.lin] }
    let s3 := if b.sheet.det then s2 else s2.completionEvent b.launch b.lin (some b.core)
    let casts := match s3.launch? b.launch with | some l => l.casts.length | none => 0
    exec (.blockRetire uid) s = .next (((List.range casts).foldl (fun s c => s.castTest b.launch c false) s3).tileKick b.core) ∧
      s2.block? uid = none ∧ (b.sheet.det = true → s2.mem = s.mem)) ∧
  (∀ (tag : Nat) (s : State) (l : Launch) (b : SlateBuf), s.launch? tag = some l → s.downSpokes = [] →
    s.slates.find? (fun b => b.launch == tag && b.lin == l.recorded.length) = some b →
    exec (.slateRelease tag) s = .next ((({ s with slates := s.slates.filter fun k =>
      !(k.launch == tag && k.lin == l.recorded.length) } : State).writeSlate b.cells).completionEvent tag l.recorded.length none)) ∧
  (∀ (die : Nat) (s : State) (k : DieSt) (p : List Byte), s.dies[die]? = some k → s.dieFenced die = false →
    s.restoring die = none → k.called = none →
    (k.serving = none → k.mailbox.find? s.takeable = some p →
      exec (.blockAdmit die) s = .next (s.takeStock die p)) ∧
    (k.serving = some p → exec (.blockAdmit die) s = .next (s.serve die p))) ∧
  (∀ (die : Nat) (s : State) (k : DieSt) (b : Block), s.dies[die]? = some k → s.dieFenced die = false →
    s.restoring die = some b → exec (.blockAdmit die) s = .next (s.admitSaved b))

/-- R269, R316, R319 to R322: the instructions of a director, and PROT where no director issues them. -/
def Obligations.DirectorInstructions : Prop :=
  Ends 0xE5 none (lowRead [0, 1]) .carve
    (fun x => x.act ≠ [] ∧ x.b.isDirector = true ∧ x.a x.low 32 ≤ 7 ∧ x.bv x.low 32 ≤ 47) (fun x =>
    let r := x.s0.requestCarve (48 * x.b.die + x.bv x.low 32) (x.a x.low 32)
    (x.writesD r.1 (if r.2 then 1 else 0), [])) ∧
  Ends 0xE5 none (lowRead [0, 1]) .carve (fun x => x.act ≠ [] ∧ x.b.isDirector = false)
    (fun x => (x.s0, x.act.map fun l => (l, .fault (protF 0x04 0)))) ∧
  Ends 0xEC none (lowRead [0]) .mboxr (fun x => x.b.isDirector = false)
    (fun x => (x.s0, x.act.map fun l => (l, .fault (protF 0x04 0)))) ∧
  Ends 0xED none readsAB .spawn (fun x => x.b.isDirector = false)
    (fun x => (x.s0, x.act.map fun l => (l, .fault (protF 0x04 0)))) ∧
  Ends 0xEE none readsAB .fwd (fun x => x.b.isDirector = false)
    (fun x => (x.s0, x.act.map fun l => (l, .fault (protF 0x04 0)))) ∧
  (∀ p : List Byte, Ends 0xEC none (lowRead [0]) .mboxr
    (fun x => x.b.isDirector = true ∧ x.act ≠ [] ∧ x.checkScratch (x.a x.low 32) 64 64 = none ∧
      x.s0.nextPacket x.b.die = some p)
    (fun x =>
      let t := x.s0.takePacket x.b (x.a x.low 32) p
      (x.writesD t (t.mailboxLen x.b.die), []))) ∧
  Ends 0xEC none (lowRead [0]) .mboxr
    (fun x => x.b.isDirector = true ∧ x.act ≠ [] ∧ x.checkScratch (x.a x.low 32) 64 64 = none ∧ x.s0.nextPacket x.b.die = none)
    (fun x => (x.s0, x.act.map fun l => (l, .wait (.mailbox (x.a x.low 32) x.w)))) ∧
  (∀ (l : Nat) (k : Launch) (s1 : State) (sh : Sheet) (r : State × Nat), Ends 0xED none readsAB .spawn
    (fun x =>
      let v := fromBytes (x.s0.scratchRead x.uid (x.a l 32) 64)
      x.b.isDirector = true ∧ x.act = [l] ∧ x.checkScratch (x.a l 32) 64 64 = none ∧ x.s0.pktLaunch v = some k ∧
        x.s0.sheetAgain k v = (s1, some sh) ∧ s1.scratchRead x.uid (x.a l 32) 64 = x.s0.scratchRead x.uid (x.a l 32) 64 ∧
        s1.pktLaunch v = some k ∧ x.bv l 32 < sh.nblk ∧ x.bv l 32 ∉ k.spawned ∧ s1.ctxRuns k.ctx = true ∧
        s1.placeNew x.b.die k sh (x.bv l 32) (pktAttempt v) = some r)
    (fun x => (x.writesD r.1 r.2, [(l, .next)]))) ∧
  Ends 0xEE none readsAB .fwd
    (fun x => x.b.isDirector = true ∧ x.s0.downSpokes = [] ∧ ∀ l ∈ x.act, x.checkScratch (x.a l 32) 64 64 = none ∧ x.bv l 32 ≤ 3)
    (fun x => (x.act.foldl (fun (s : State) l =>
      let d := x.bv l 32
      let ok := decide (s.mailboxLen d < 64) && !s.dieFenced d
      let p := s.scratchRead x.uid (x.a l 32) 64
      (if ok then s.updDie d fun k => { k with mailbox := k.mailbox ++ [p] } else s).updThread x.uid x.ci l
        fun t => t.setPred (x.mod % 8) ok) x.s0, x.allNext))

/-- R305 to R308: device enqueue, the wait for an event word, and the two signals. -/
def Obligations.QueueInstructions : Prop :=
  (∀ (l : Nat) (s1 : State) (r : Nat × Bool), Ends 0xE9 none readsAB .enq
    (fun x => x.b.sheet.det = false ∧ x.b.inside = false ∧ x.act = [l] ∧ x.scratchOk (fun k => x.bv k 32) 64 false ∧
      x.a l 32 < 1024 ∧ (x.s0.queue (x.a l 32)).en = true ∧ (x.s0.queue (x.a l 32)).ctx = x.b.ctx ∧
      (x.s0.queue (x.a l 32)).dev = true ∧ x.s0.downSpokes = [] ∧
      let s := (x.s0.flushDailies x.uid x.ci).fenceAt x.b.core 2 5
      s.appendRecord (x.a l 32) (s.scratchRead x.uid (x.bv l 32) 64) = (s1, some r))
    (fun x => (s1.updCrew x.uid x.ci fun c =>
        (wrvOf c x.clk l x.w x.w.d 32 r.1 false).updThread l fun t => t.setPred (x.mod % 8) r.2, [(l, .next)]))) ∧
  (∀ (w : Fields) (s : State) (x : Ctx), IssuesLong 0xE9 none readsAB w s x → x.b.sheet.det = false → x.b.inside = false →
    x.scratchOk (fun k => x.bv k 32) 64 false →
    (∀ l ∈ x.act, x.a l 32 < 1024 ∧ (x.s0.queue (x.a l 32)).en = true ∧ (x.s0.queue (x.a l 32)).ctx = x.b.ctx ∧
      (x.s0.queue (x.a l 32)).dev = true) →
    (∀ r ∈ (x.lanesRun enqLane).2, GoesOn r.2 ∨ ∃ o, r.2 = .again o) ∧
    exec (.enq w) s = .next (x.ends (x.lanesRun enqLane).1 (x.lanesRun enqLane).2)) ∧
  (∀ (w : Fields) (s : State) (x : Ctx) (es : Nat → List Elem), IssuesLong 0xEA none readsAB w s x → Quiet x.s0 x.b.core →
    (∀ l ∈ x.act, x.plan .read (globalElems [x.a l 64] 4) = .ready (es l) ∧
      ∀ e ∈ es l, ∃ key, placeOf x.s0.hubid e.pa e.leaf.type = .home key) →
    let r := x.lanesRun fun x s l => waitLane x s l (es l)
    (∀ p ∈ r.2, GoesOn p.2) ∧ exec (.waitev w) s = .next (x.ends
      (r.1.seeWalks x.b.core x.b.ctx (x.vas fun x l => globalElems [x.a l 64] 4)) r.2)) ∧
  (∀ (w : Fields) (s : State) (x : Ctx) (l : Nat) (e : Elem) (t : State), IssuesLong 0xEA none readsAB w s x → x.act = [l] →
    x.plan .read (globalElems [x.a l 64] 4) = .ready [e] → x.s0.downSpokes = [] →
    x.s0.readWord (x.s0.blockOr x.b) (laneReader x.uid x.ci l) e.va e.pa e.leaf.type (x.bv l 32) = (t, .unmet) →
    exec (.waitev w) s = .next (x.ends (t.seeWalks x.b.core x.b.ctx (x.vas fun x l => globalElems [x.a l 64] 4))
      [(l, .wait (.word e.va (x.bv l 32)))])) ∧
  (∀ (w : Fields) (s : State) (x : Ctx) (es : Nat → List Elem), IssuesLong 0xEB (some 0) readsAB w s x →
    x.b.sheet.det = false → x.b.inside = false →
    (∀ l ∈ x.act, x.asRed.plan .atomic (globalElems [x.a l 64] 4) = .ready (es l) ∧ ∀ e ∈ es l, AtomicPlace x.asRed e) →
    Quiet x.s0 x.b.core →
    let r := x.asRed.lanesRun fun x s l => atomLane x s l (es l)
    (∀ p ∈ r.2, Completes p.2) ∧ exec (.sigevAdd w) s = .next (x.ends
      (r.1.seeWalks x.b.core x.b.ctx (x.vas fun x l => globalElems [x.a l 64] 4)) r.2)) ∧
  (∀ (w : Fields) (s : State) (x : Ctx) (es : Nat → List Elem), IssuesLong 0xEB (some 1) readsAB w s x →
    x.b.sheet.det = false → x.b.inside = false →
    (∀ l ∈ x.act, x.asStl.plan .write (globalElems [x.a l 64] 4) = .ready (es l)) → Quiet x.s0 x.b.core →
    let r := x.asStl.lanesRun fun x s l => stlLane x s l (es l)
    (∀ p ∈ r.2, Completes p.2 ∨ p.2 = .out) ∧ (x.inDevice es → ∀ p ∈ r.2, Completes p.2) ∧ exec (.sigevSet w) s = .next (x.ends
      (r.1.seeWalks x.b.core x.b.ctx (x.vas fun x l => globalElems [x.a l 64] 4)) r.2))

/-- R298 to R304: a queue bound, unbound and rung; TAIL and event words read again; the arbiter's pick; a budget period. That tags count the
launches from 0 on (log entry 50) and that periods count from hub cycle 0 (log entry 2) are the model's choices. -/
def Obligations.QueueEvents : Prop :=
  (∀ (n cfg t : Nat) (s t' : State), s.awake = true → n < 1024 → (s.queue n).en = false →
    let q := (s.queue n).setCfg cfg
    4 ≤ q.log2sz → q.log2sz ≤ 16 → (∀ c, s.ctxs[q.ctx]? = some c → c.state ≠ .free) → (s.ctxs[q.ctx]?).isSome = true →
    ¬(q.dev = true ∧ q.door = true) →
    let b := { q with en := true, st := .empty, cause := 0, record := none, met := false, tail := q.head, binding := true }
    let b1 := { b with head := t, tail := t, binding := false }
    s.tailOf n b = (t', .got t) → exec (.queueBind n cfg) s = .next ((t'.putQueue n b1).writeHead b1)) ∧
  (∀ (n : Nat) (s : State), s.awake = true → (∀ k ∈ s.l2, peerLine k.line = false) →
    exec (.queueUnbind n) s = .next (s.unbindQueue n) ∧ (s.unbindQueue n).mem = s.mem ∧ ((s.unbindQueue n).queue n).en = false) ∧
  (∀ (n v : Nat) (s : State), s.awake = true → n < 1024 → (s.queue n).door = true →
    exec (.qtail n v) s = .next ((s.putQueue n { s.queue n with qtail := v % 2 ^ 32 }).rereadQueue n)) ∧
  (∀ (n : Nat) (s : State), n < 1024 → s.tailLost n (s.queue n) = true → exec (.tailReread n) s = .next (s.rereadQueue n)) ∧
  (∀ (n v : Nat) (s : State), (s.queue n).record = some v → exec (.waitWordChange n) s =
    .next (if ∀ w ∈ recWaits v, s.watched (s.queue n).ctx w.1 (wordsWatch n) = true then s else s.readWords n)) ∧
  (∀ (n v : Nat) (s : State), s.checkQueues.arbiterChoice = some n → (s.checkQueues.queue n).record = some v →
    let s1 := s.checkQueues
    let q := { s1.queue n with
      head := ((s1.queue n).head + 1) % 2 ^ 32, credit := (s1.queue n).credit - 1, record := none, met := false }
    let l := Launch.picked_ s1.launches.length n q.ctx s1.hubCycle v
    exec .arbiterPick s = .next (((({ s1.unwatch (wordsWatch n) with launches := s1.launches ++ [l], lastPicks := putKey s1.lastPicks q.prio n } : State).putQueue
      n q).writeHead q).headQueue n).checkQueues) ∧
  (∀ s : State, (s.periods + 1) * 1000000 ≤ s.hubCycle →
    exec .budgetPeriod s = .next ({ s with
      periods := s.periods + 1, queues := s.queues.map fun p => (p.1, { p.2 with credit := p.2.budget }) } : State).checkQueues)

/-- R304: every queue that the arbiter picks is READY, and no READY queue has a higher priority. -/
def Obligations.ArbiterTakesHighestPriority : Prop :=
  ∀ (s : State) (n : Nat), s.arbiterChoice = some n →
    ∃ q, (n, q) ∈ s.queues ∧ q.st = .ready ∧ ∀ p ∈ s.queues, p.2.st = .ready → p.2.prio ≤ q.prio

/-- R301, R310 to R318, R323, R366: the split of a launch and its failure, take regions opened, packets posted, the end of a launch
and the two deadlines. -/
def Obligations.LaunchEvents : Prop :=
  (∀ (tag : Nat) (s : State) (l : Launch) (c : Context), s.launch? tag = some l → s.ctxs[l.ctx]? = some c →
    c.state = .running ∨ c.state = .draining → l.state = .splitting → l.sheet.crews = 0 →
    (∀ s1 o, s.checkSheet (sheetReader tag) l.ctx l.sheetAddr = (s1, .bad o) →
      exec (.launchSplit tag) s = .next ((s1.endBring hubDie (sheetReader tag)).refuseSheet l o)) ∧
    (∀ s1 sheet casts regions, s.checkSheet (sheetReader tag) l.ctx l.sheetAddr = (s1, .good sheet casts regions) →
      exec (.launchSplit tag) s = .next (((s1.endBring hubDie (sheetReader tag)).updLaunch tag fun l =>
        { l with sheet, casts, regions }).openTakes tag))) ∧
  (∀ (tag : Nat) (s : State) (l : Launch), s.launch? tag = some l → s.ctxStarts l.ctx = true →
    (∃ t ∈ s.takes, t.launch = tag ∧ t.isOpen = false) →
    ∃ s1 : State, s1.takes = mapWhere (fun t => t.launch == tag && !t.isOpen) (fun t => { t with isOpen := true }) s.takes ∧
      s1.blocks = s.blocks ∧ exec (.takeOpened tag) s = .next (match s1.launch? tag with
        | some l => if s1.takesOpen l then s1.startLaunch tag else s1
        | none => s1)) ∧
  (∀ (die : Nat) (s : State) (p : Nat × List Byte), s.nextHeld = some p → p.1 = die → s.downSpokes.contains die = false →
    exec (.mailboxPost die) s = .next { s with
      held := s.held.erase p, dies := updAt s.dies die fun d => { d with mailbox := d.mailbox ++ [p.2] } }) ∧
  (∀ (tag : Nat) (s : State) (l : Launch), s.launch? tag = some l → l.state = .running → l.sheet.nblk ≤ l.retired.length →
    l.sheet.nblk ≤ l.recorded.length → exec (.launchComplete tag) s =
      .next (((s.commitTakes l).updLaunch tag fun l => { l with state := .done }).signalLaunch l).checkQueues) ∧
  (∀ (tag : Nat) (s : State) (l : Launch), s.launch? tag = some l → l.state = .running → l.sheet.deadline ≠ 0 →
    l.picked + l.sheet.deadline ≤ s.hubCycle → l.complete = false → exec (.launchDeadline tag) s =
      .next (((s.killLaunch tag).endLaunch tag .cancelled).signalLaunch l).checkQueues) ∧
  (∀ (die t : Nat) (s : State) (k : DieSt) (b : Block), s.dies[die]? = some k →
    s.blocks.find? (fun b => b.isDirector && b.die == die) = some b → k.called = some t → t + 1000000 ≤ s.hubCycle →
    exec (.directorWatchdog die) s = .next ((s.logEvent b.ctx
      { cls := 0x0D, detail := 1, core := b.core, attempt := b.attempt, tag := b.launch }).idleDirector die))

/-- R327, R331, R332, R334, R394: `trap` and `bkpt` enter the handler of a context that takes their class, with the code in s.ecause and
s.einfo and the next instruction's address in s.epc; memory is as it was. With extended debug access a debug agent may take a `bkpt`
before its delivery: that it then halts the crew is the model's choice (log entry 96). -/
def Obligations.TrapEntersHandler : Prop :=
  ∀ (w : Fields) (s : State) (x : Ctx) (k : Context) (cls : Nat), x.act ≠ [] → Takes s x.uid x.ci x.act x.b k cls →
    (IssuesLong 0xF0 (some 0) readsA w s x → cls = 0x11 → ∃ t, exec (.trap w) s = .next t ∧ t.mem = s.mem ∧
      ∀ l ∈ x.act, ∃ h, t.thread? x.uid x.ci l = some h ∧
        Delivered h k.tvec ⟨0x11, x.a l 32 % 256, 0, x.a l 32, 0⟩ (laneMask x.act) (x.pc + x.len)) ∧
    (IssuesLong 0xF6 none readsA w s x → cls = 0x12 → ∃ t, exec (.bkpt w) s = .next t ∧ t.mem = s.mem ∧
      ((∀ l ∈ x.act, ∃ h, t.thread? x.uid x.ci l = some h ∧
        Delivered h k.tvec ⟨0x12, x.a l 32 % 256, 0, x.a l 32, 0⟩ (laneMask x.act) (x.pc + x.len)) ∨
      (s.mgmt.debug = true ∧ (x.uid, x.ci) ∈ t.mgmt.halted)))

/-- R334, R335, R336, R337: `trap.abort` is unrecoverable; `rett` returns to s.epc; `syswr` clears the bits written or writes s.epc in a
handler; `tmrset` sets the comparator. -/
def Obligations.TrapReturnAndSystem : Prop :=
  (∀ (w : Fields) (s : State) (x : Ctx), IssuesLong 0xF0 (some 1) readsA w s x →
    exec (.trapAbort w) s = .next (finishIssue x x.s0 x.act (x.faults fun l => ⟨0x11, x.a l 32 % 256, 0, x.a l 32, 0⟩) true)) ∧
  Ends 0xF1 none [] .rett (fun x => x.act ≠ [] ∧ ∀ l ∈ x.act, (x.t l).hmode = true ∧ (x.t l).epc.toNat % 4 = 0)
    (fun x => ((x.act.foldl (fun (s : State) l => s.updThread x.uid x.ci l fun t =>
        { t with hmode := false, resumeI := 0 }) x.s0).updCrew x.uid x.ci fun c =>
          { c with threads := c.threads.map Thread.loseLatches },
      x.act.map fun l => (l, .resume (x.t l).epc.toNat (x.t l).resumeI))) ∧
  Ends 0xF1 none [] .rett (fun x => ∀ l ∈ x.act, (x.t l).hmode = false) (fun x => (x.s0, x.faults fun _ => protF 0x09 0)) ∧
  Ends 0xF5 none readsA .syswr (fun x => x.w.d.toNat ≠ 0x41) (fun x => (x.act.foldl (fun (s : State) l =>
    s.updCrew x.uid x.ci fun c => c.w1c x.w.d.toNat (x.a l 32)) x.s0, x.allNext)) ∧
  Ends 0xF5 none readsA .syswr (fun x => x.w.d.toNat = 0x41 ∧ ∀ l ∈ x.act, (x.t l).hmode = true) (fun x =>
    (x.act.foldl (fun (s : State) l => s.updThread x.uid x.ci l fun t =>
      { t with epc := BitVec.ofNat 64 (x.a l 64), resumeI := 0 }) x.s0, x.allNext)) ∧
  Ends 0xF3 none (lowRead [0]) .tmrset (fun x => x.act ≠ []) (fun x =>
    let a := x.a x.low 64
    let sum := (x.clk + a) % 2 ^ 64
    (x.s0.updCrew x.uid x.ci fun c => { c with tmr := BitVec.ofNat 64 (if x.fn = 0 then a else if sum = 0 then 1 else sum) }, []))

/-- R327, R331: lanes that fault together with one class that their context takes enter its handler, each with its own record; the
others keep their place. -/
def Obligations.FaultDelivery : Prop :=
  ∀ (s : State) (uid ci pc next cls : Nat) (fs : List (Nat × LaneFault)) (offer : Bool) (b : Block) (k : Context),
    Takes s uid ci (fs.map (·.1)) b k cls → (fs.map (·.1)).Nodup → fs ≠ [] →
    (∀ p ∈ fs, p.2.cls = cls ∧ (p.2.isPage = true → offer = false ∨ k.pfbase = 0)) → cls < 0x13 →
    (∀ p ∈ fs, ∃ t, (s.takeFaults uid ci pc next fs offer false).thread? uid ci p.1 = some t ∧
      Delivered t k.tvec p.2 (laneMask (fs.map (·.1))) (if 0x10 ≤ cls then next else pc)) ∧
    (∀ l t, s.thread? uid ci l = some t → l ∉ fs.map (·.1) →
      ∃ t', (s.takeFaults uid ci pc next fs offer false).thread? uid ci l = some t' ∧ t'.pc = t.pc ∧ t'.st = t.st ∧
        t'.g = t.g ∧ t'.q = t.q ∧ t'.p = t.p ∧ t'.hmode = t.hmode) ∧
    (s.takeFaults uid ci pc next fs offer false).mem = s.mem

/-- R280, R327, R344, R346: a fault that nothing takes kills its block: the lanes are logged and the block is gone; where the launch
allows another attempt, the packet of one block waits for a mailbox with the next attempt. -/
def Obligations.UnrecoverableFault : Prop :=
  (∀ (s : State) (uid ci pc next l : Nat) (f : LaneFault) (b : Block) (c : Crew) (k : Context) (fatal : Bool),
    s.block? uid = some b → b.crew? ci = some c → s.ctxs[b.ctx]? = some k → f.cls ≠ 0x10 → f.isPage = false →
    (∀ t, c.threads[l]? = some t → t.hmode = true ∨ k.delivers f.cls = false ∨ (fatal = true ∧ f.cls = 0x11)) →
    (c.threads[l]?).isSome = true →
    s.takeFaults uid ci pc next [(l, f)] true fatal = ((s.logEvent b.ctx
      { cls := f.cls, detail := f.detail, handler := ((c.threads[l]?).map (·.hmode)).getD false, core := b.core, crew := ci,
        blk := b.lin, attempt := b.attempt, pc := pc, lanes := laneMask [l], tag := b.launch, eaddr := f.eaddr,
        einfo := f.einfo }).killBlock uid)) ∧
  (∀ (s : State) (uid : Nat) (b : Block), s.block? uid = some b → b.isDirector = false → b.retries = true →
    (s.killBlock uid).block? uid = none ∧ (s.killBlock uid).mem = s.mem ∧
    (s.killBlock uid).held = s.held ++ [((s.removeBlock uid).liveDie b.die,
      blockPacket b.sheet.addr b.launch (b.attempt + 1) (b.sheet.coords b.lin).1 (b.sheet.coords b.lin).2.1 (b.sheet.coords b.lin).2.2)]) ∧
  (∀ (s : State) (uid : Nat) (b : Block), s.block? uid = some b → b.isDirector = false → b.retries = false →
    ∃ s1 : State, s1.block? uid = none ∧ s.killBlock uid = (s1.failLaunch b.launch).faultContext b.ctx)

/-- R324, R325, R341, R343, R345: the commands of a context and the ends of its drain, its save step and its reset. Where the save
header and the records stand is the model's choice (log entry 22), and the save step waits for the spoke links that it crosses. -/
def Obligations.ContextCommands : Prop :=
  ∀ (ctx : Nat) (s : State) (c : Context), s.awake = true → s.ctxs[ctx]? = some c →
    (c.state = .free → c.fieldsOk = true → s.dailiesClash ctx c = false →
      ∃ t c', exec (.alloc ctx) s = .next t ∧ t.ctxs[ctx]? = some c' ∧ c'.state = .ready ∧ t.mem = s.mem) ∧
    (c.state = .free → c.fieldsOk = false → exec (.alloc ctx) s = .next (s.updCtx ctx fun c => { c with lastcls := 0x05 })) ∧
    (c.state = .ready ∨ c.state = .saved → ∃ s1 : State, s1.mem = s.mem ∧ s1.ctxs = s.ctxs ∧ exec (.run ctx) s =
      .next (s1.updCtx ctx fun c => { c with state := .running, drainEnd := none, resetEnd := none, saving := false }).checkQueues) ∧
    (c.state = .running → ∃ s1 : State, s1.mem = s.mem ∧ s1.ctxs = s.ctxs ∧ exec (.preempt ctx) s =
      .next (s1.updCtx ctx fun c =>
        { c with state := .draining, saving := false, drainEnd := some (s.hubCycle + c.drainLimit),
                 resetEnd := some (s.hubCycle + c.resetLimit) }).checkQueues) ∧
    (c.state = .draining → c.saving = false → (∀ b ∈ s.blocks, b.ctx = ctx → b.isDirector = false → b.onCore = false) →
      exec (.drained ctx) s = .next ((s.writeHeader ctx c).becomeSaved ctx)) ∧
    (∀ e, c.state = .draining → c.saving = false → c.drainEnd = some e → e ≤ s.hubCycle →
      exec (.drainDeadline ctx) s = .next (((s.blocks.filter fun b => b.ctx == ctx && b.state == .resident && b.inside).foldl
        (fun (s : State) b => s.discardBlock b.uid) s).updCtx ctx fun c => { c with saving := true })) ∧
    (c.state = .draining → c.saving = true → s.saveReady ctx = true → s.downSpokes = [] →
      let mine := s.blocks.filter fun b => b.ctx == ctx && b.onCore && !b.isDirector
      let cores := ((mine.map (·.core)) ++ (s.l1.filter fun l => l.ctx == ctx && l.dirty).map (·.core)).eraseDups
      let s1 := cores.foldl (fun (s : State) k => s.publishAll k) s
      let s2 := (s1.l1.filter fun l => l.ctx == ctx).foldl State.evictL1 s1
      exec (.saveStepComplete ctx) s = .next (if s.saveNeed ctx c ≤ c.ssize
        then ((mine.foldl State.saveBlock s2).writeRecords ctx c).becomeSaved ctx
        else (cores.filter s.unpublished).foldl (fun (s : State) k => s.publishAll k) s)) ∧
    (c.state ≠ .free → c.state ≠ .reset → exec (.reset ctx) s = .next (s.resetContext ctx false)) ∧
    (∀ e, c.state = .draining → c.resetEnd = some e → e ≤ s.hubCycle →
      exec (.resetDeadline ctx) s = .next ((s.logEvent ctx { cls := 0x0D, detail := 2 }).resetContext ctx true)) ∧
    (c.state = .reset → exec (.resetComplete ctx) s = .next (s.updCtx ctx fun c =>
      { c with state := if c.byDeadline then .faulted else .free }))

/-- R105, R106, R332, R338: at a regroup every live crew of a resident block whose die's count is a multiple of 4 has at most two
bundles, and the lanes of a bundle stand at one address; a crew's comparator is reached: the timer is disarmed, and the READY lanes take
TIMER at the address they stand at, at once where they may. That lanes owe it one by one (log entry 80), and that those at one address take
it together (log entry 52), are the model's choices. -/
def Obligations.CrewEvents : Prop :=
  (∀ s : State, ∃ t, exec .regroup s = .next t ∧ t.mem = s.mem ∧
    ∀ b ∈ t.blocks, b.state = .resident → s.clockOf b.core % 4 = 0 → ∀ c ∈ b.body.crews, c.live = true →
      c.bundles.length ≤ 2 ∧ ∀ bd ∈ c.bundles, ∀ l ∈ bd.lanes, ∀ k ∈ bd.lanes, ∀ t u, c.threads[l]? = some t → c.threads[k]? = some u →
        t.pc = u.pc) ∧
  (∀ (uid ci : Nat) (s : State) (b : Block) (c : Crew), s.block? uid = some b → b.crew? ci = some c → c.tmr ≠ 0 →
    c.tmr.toNat ≤ s.clockOf b.core →
    let d := (c.fireTimer (s.clockOf b.core)).oweTimer
    let s1 := s.updCrew uid ci fun c => (c.fireTimer (s.clockOf b.core)).oweTimer
    d.tmr = 0 ∧ (c.fireTimer (s.clockOf b.core)).fired = some c.tmr.toNat ∧
    ((∃ t ∈ c.threads, t.st = .ready) → (∀ t ∈ c.threads, t.st = .ready → t.hmode = false) →
      ∀ (l : Nat) (t : Thread), c.threads[l]? = some t → t.st = .ready → (l, c.tmr.toNat) ∈ d.owed) ∧
    (d.timerLanes = [] → exec (.crewTimerFire uid ci) s = .next s1) ∧
    (d.timerLanes ≠ [] → exec (.crewTimerFire uid ci) s = .next (((d.timerLanes.map (·.2)).eraseDups).foldl (fun (s : State) k =>
      s.takeFaults uid ci k.2 k.2 ((d.timerLanes.filter fun l => l.2 == k).map fun l => (l.1, ⟨0x10, 0, 0, k.1, 0⟩)) true false)
      (s1.updCrew uid ci fun c => { c with owed := c.owed.filter fun o => !d.timerLanes.any fun l => (l.1, l.2.1) == o }))))

/-- R339, R340: `hcall` posts its lanes' requests in one entry, or its lanes wait for room; an entry is posted for a waiting group and
answered by the host. -/
def Obligations.HostCalls : Prop :=
  (∀ (w : Fields) (s : State) (x : Ctx) (c : Context), IssuesLong 0xF2 none readsA w s x → x.act ≠ [] → x.b.inside = false →
    s.ctxs[x.b.ctx]? = some c → c.hbase ≠ 0 → s.downSpokes = [] →
    let s1 := (x.s0.flushDailies x.uid x.ci).fenceAt x.b.core 2 5
    (c.callRoom = true → s1.callWaits x.b.ctx = [] →
      let r := s1.postCall x.b x.ci x.pc (x.act.map fun l => (l, x.a l 128))
      exec (.hcall w) s = .next (x.ends r.1 (x.act.map fun l => (l, .park (.hcall r.2 x.w.d.toNat x.len))))) ∧
    (c.callRoom = false ∨ s1.callWaits x.b.ctx ≠ [] → exec (.hcall w) s = .next (x.ends { s1 with nextId := s1.nextId + 1 }
      (x.act.map fun l => (l, .park (.hcallPost s1.nextId (x.a l 128) x.w.d.toNat x.len)))))) ∧
  (∀ (w : Fields) (s : State) (x : Ctx) (c : Context), IssuesLong 0xF2 none readsA w s x → x.act ≠ [] → x.b.inside = false →
    s.ctxs[x.b.ctx]? = some c → c.hbase = 0 → exec (.hcall w) s = .next (x.ends x.s0 (x.faults fun _ => protF 0x09 0))) ∧
  (∀ (ctx g uid ci : Nat) (s : State) (c : Context) (b : Block) (k : Crew), s.ctxs[ctx]? = some c →
    leastBy (fun (g : Nat × Nat × Nat) => g.1) (s.callWaits ctx) = some (g, uid, ci) → c.callRoom = true →
    s.block? uid = some b → s.crew? uid ci = some k →
    let ls := k.threads.zipIdx.filterMap fun t => match t.1.callWait with
      | some (h, r, d, n) => if h = g then some (t.2, r, (d, n), t.1.pc.toNat) else none
      | none => none
    let r := s.postCall b ci (match ls with | l :: _ => l.2.2.2 | [] => 0) (ls.map fun l => (l.1, l.2.1))
    exec (.hostCallPost ctx) s = .next (ls.foldl (fun (s : State) l => s.updThread uid ci l.1 fun t =>
      { t with st := .parked (.hcall r.2 l.2.2.1.1 l.2.2.1.2) }) r.1)) ∧
  (∀ (ctx num : Nat) (s : State), s.callsApart ctx = false → exec (.hostCallReply ctx num) s = .next (s.answerCall ctx num)) ∧
  (∀ (ctx num : Nat) (s : State), s.awake = true → s.agentDead hostAgent = false → ∃ s1 : State, s1.mem = s.mem ∧
    s1.blocks = s.blocks ∧ exec (.chdoor ctx num) s = .next (s1.answerCall ctx num)) ∧
  (∀ (ctx num : Nat) (s : State), s.agentDead hostAgent = true → exec (.chdoor ctx num) s = .next s) ∧
  (∀ (s : State) (b : Block) (ci pc : Nat) (ls : List (Nat × Nat)) (c : Context), s.ctxs[b.ctx]? = some c →
    (s.postCall b ci pc ls).2 = c.hcTail ∧
    (∃ c', (s.postCall b ci pc ls).1.ctxs[b.ctx]? = some c' ∧ c'.hcTail = c.hcTail + 1 ∧ c'.hcHead = c.hcHead))

/-- R355: a page fault posts an entry where the ring has room, or joins the entry of its page; the driver's answer lets the requesters
of the entry run again or refuses them. -/
def Obligations.PageService : Prop :=
  (∀ (who : Requester) (s : State) (a : PageAsk) (c : Context), s.pageAsk who = some a → s.ctxs[a.ctx]? = some c →
    (s.faults.find? (fun e => e.ctx == a.ctx && e.vpage == a.addr / 8192 && e.detail == a.detail && !e.answered)) = none →
    c.pfTail - c.pfHead < 2 ^ c.log2p →
    ∃ s1 : State, s1.faults = s.faults ++ [⟨a.ctx, c.pfTail, a.addr / 8192, a.detail, 1, false, false⟩] ∧ s1.blocks = s.blocks ∧
      (s1.ctxs[a.ctx]?).map (·.pfTail) = some (c.pfTail + 1) ∧
      exec (.pageFaultPost who) s = .next (s1.putOnEntry who c.pfTail a)) ∧
  (∀ (who : Requester) (s : State) (a : PageAsk) (c : Context) (e : PfEntry), s.pageAsk who = some a → s.ctxs[a.ctx]? = some c →
    (s.faults.find? (fun e => e.ctx == a.ctx && e.vpage == a.addr / 8192 && e.detail == a.detail && !e.answered)) = some e →
    ∃ s1 : State, s1.blocks = s.blocks ∧ s1.faults = mapWhere (fun x => x.ctx == e.ctx && x.num == e.num)
        (fun x => { x with joined := min (e.joined + 1) (2 ^ 32 - 1) }) s.faults ∧
      exec (.pageFaultPost who) s = .next (s1.putOnEntry who e.num a)) ∧
  (∀ (ctx num st : Nat) (s s2 : State) (c : Context) (e : PfEntry), s.ctxs[ctx]? = some c → s.faultsApart ctx = false →
    s.faults.find? (fun e => e.ctx == ctx && e.num == num && !e.answered) = some e →
    s.hubAcquire (ctxReader ctx) ctx (c.faultAt num + 4) 4 true none = (s2, .got st) →
    let s3 := s2.endBring hubDie (ctxReader ctx)
    let s1 : State := { s3 with faults := mapWhere (fun e => e.ctx == ctx && e.num == num) (fun e => { e with answered := true }) s3.faults }
    (st = 1 → exec (.pageFaultReply ctx num) s = .next ((s1.pageServed ctx num).passFaults ctx)) ∧
    (st = 2 → exec (.pageFaultReply ctx num) s = .next ((s1.pageRefused ctx num).passFaults ctx)) ∧
    (st ≠ 1 → st ≠ 2 → exec (.pageFaultReply ctx num) s = .next s3)) ∧
  (∀ (ctx num : Nat) (s : State), s.awake = true → s.agentDead hostAgent = false → ∃ s1 : State, s1.mem = s.mem ∧
    s1.blocks = s.blocks ∧ exec (.cpfdoor ctx num) s = .next (s1.answerFault ctx num)) ∧
  (∀ (ctx num : Nat) (s : State), s.agentDead hostAgent = true → exec (.cpfdoor ctx num) s = .next s)

/-- R359, R362 to R364: expert fetches and tests, gathered increments of the dailies, and the host's write of a counter. -/
def Obligations.ExpertsAndDailies : Prop :=
  Ends 0xB0 none readsA .exfetch (fun x => ∀ l ∈ x.act, x.s0.expertKnown x.b.ctx (x.a l 32) = true)
    (fun x => (x.act.foldl (fun (s : State) l => s.fetchExpert x.b.ctx (x.a l 32)) x.s0, x.allNext)) ∧
  Ends 0xB0 none readsA .exfetch (fun x => ∀ l ∈ x.act, x.s0.expertKnown x.b.ctx (x.a l 32) = false)
    (fun x => (x.s0, x.faults fun _ => protF 0x01 0)) ∧
  Ends 0xB1 none readsA .extest (fun x => ∀ l ∈ x.act, x.s0.expertKnown x.b.ctx (x.a l 32) = true)
    (fun x => (x.act.foldl (fun (s : State) l =>
      let st := (x.s0.expert? x.b.ctx (x.a l 32)).map (·.st)
      (if st = some .resident then s.acquireL1 x.b.core else s).updThread x.uid x.ci l fun t =>
        (t.setPred x.w.d.toNat (st == some .resident)).setPred (x.mod % 8)
          (st == some (.fetching true) || st == some (.fetching false))) x.s0, x.allNext)) ∧
  (∀ c : Context, Ends 0xB2 none readsAB .ecnt
    (fun x => x.b.inside = false ∧ x.s0.ctxs[x.b.ctx]? = some c ∧ ∀ l ∈ x.act, x.a l 32 < c.dcount)
    (fun x => (x.act.foldl (fun (s : State) l =>
      let i := c.dbase + x.a l 32
      let full := match s.crew? x.uid x.ci with
        | some k => decide (k.dailies.length ≥ 8) && !k.dailies.any fun d => d.counter == i
        | none => false
      (if full then s.flushDailies x.uid x.ci else s).updCrew x.uid x.ci fun k =>
        k.gather x.clk i (BitVec.ofNat 32 (x.bv l 32))) x.s0, x.allNext))) ∧
  (∀ (uid ci t : Nat) (s : State) (b : Block) (c : Crew), s.block? uid = some b → s.crew? uid ci = some c → c.dailyAge = some t →
    t + 12500 ≤ s.clockOf b.core → exec (.dailyFlush uid ci) s = .next (s.flushDailies uid ci)) ∧
  (∀ (i v : Nat) (s : State), s.awake = true → i < 65536 →
    (BitVec.ofNat 32 v ≠ 0 → ∃ t, exec (.dailyWrite i v) s = .next t ∧ t.daily i = BitVec.ofNat 32 v ∧
      (∀ j, j ≠ i → t.daily j = s.daily j) ∧ t.mem = s.mem) ∧
    (BitVec.ofNat 32 v = 0 → exec (.dailyWrite i v) s = .next { s with dailies := setSparse s.dailies i 0 }))

/-- R358 to R360: a fetch command queues an expert that is ABSENT or FAILED and leaves one that is FETCHING or RESIDENT; an evict makes
it ABSENT and takes its translations; the oldest queued fetch starts where fewer than 64 are in flight; its bytes land and the expert is
RESIDENT, or it is FAILED. -/
def Obligations.ExpertEvents : Prop :=
  (∀ (ctx id : Nat) (s : State), s.awake = true → s.expertKnown ctx id = true →
    (∀ e, s.expert? ctx id = some e → e.st ≠ .failed → exec (.fetch ctx id) s = .next s) ∧
    ((∀ e, s.expert? ctx id = some e → e.st = .failed) → ∃ t, exec (.fetch ctx id) s = .next t ∧
      (t.expert? ctx id).map (·.st) = some (.fetching false) ∧ t.blocks = s.blocks ∧
      ∀ c k, ¬(c = ctx ∧ k = id) → t.expert? c k = s.expert? c k)) ∧
  (∀ (ctx id : Nat) (s : State), s.awake = false ∨ s.expertKnown ctx id = false → exec (.fetch ctx id) s = .next s) ∧
  (∀ (ctx id : Nat) (s : State) (e : Expert) (c : Context), s.awake = true → s.expert? ctx id = some e → s.ctxs[ctx]? = some c →
    (e.st = .failed → exec (.evict ctx id) s = .next s) ∧
    (e.st ≠ .failed → ∃ t, exec (.evict ctx id) s = .next t ∧ t.expert? ctx id = none ∧
      ∀ k ∈ t.tlb, ¬(k.ctx = ctx ∧ k.type = 1 ∧ k.exid = id))) ∧
  (∀ (ctx id : Nat) (s : State), s.awake = true → s.expert? ctx id = none → exec (.evict ctx id) s = .next s) ∧
  (∀ (s : State) (e : Expert), (s.experts.filter fun e => e.st == .fetching true).length < 64 →
    s.experts.find? (fun e => e.st == .fetching false) = some e →
    (∀ t e', s.readExpert e = (t, .got e') →
      exec .expertFetchStart s = .next (((t.endBring hubDie (expertReader e.ctx e.id)).updExpert e').askExpert e') ∧
      e'.st = .fetching true ∧ e'.vbase + 8192 * e'.npg ≤ 2 ^ 53) ∧
    (∀ t f, s.readExpert e = (t, .bad f) → exec .expertFetchStart s =
      .next ((t.endBring hubDie (expertReader e.ctx e.id)).failExpert e 5 0x0A (f.1 * 256 + f.2))) ∧
    (∀ t, s.readExpert e = (t, .wait) → exec .expertFetchStart s = .next t)) ∧
  (∀ s : State, 64 ≤ (s.experts.filter fun e => e.st == .fetching true).length ∨ (∀ e ∈ s.experts, e.st ≠ .fetching false) →
    exec .expertFetchStart s = .next s) ∧
  (∀ (ctx id : Nat) (s : State) (e : Expert) (c : Context), s.expert? ctx id = some e → s.ctxs[ctx]? = some c →
    e.st = .fetching true → s.agentDead e.source = false →
    ∀ s1 frames pages, s.expertWalks e = (s1, .here) → s.expertSource e = some pages →
    let s2 := s1.endBring hubDie (expertReader ctx id)
    ((List.range e.npg).mapM fun i => s2.expertFrame c.root id (e.vbase + 8192 * i)) = .ok frames →
    let s3 := ((frames.zip pages).foldl State.landPage s2).dropExpertReq ctx id
    exec (.expertLand ctx id true) s = .next (s3.setExpert { e with st := .resident }) ∧
      ((s3.setExpert { e with st := .resident }).expert? ctx id).map (·.st) = some .resident) ∧
  (∀ (ctx id : Nat) (s : State) (e : Expert) (c : Context), s.expert? ctx id = some e → s.ctxs[ctx]? = some c →
    e.st = .fetching true → s.agentDead e.source = true ∨ (e.fromPeer = false ∧ e.since + 80000 ≤ s.hubCycle) →
    exec (.expertLand ctx id false) s = .next (s.failExpert e 9 0x01 (remoteInfo e.source)))

/-- R350, R351, R353: the end of a walk whose lines are at hand, or of one that meets a dead agent; an invalidation by the host, and its
completion, which CTLBSEQ counts. -/
def Obligations.TranslationEvents : Prop :=
  (∀ (id : Nat) (s s1 : State) (w : Walk) (c : Context), s.walks.find? (fun w => w.id == id && !w.done) = some w →
    s.walkFor w.die (walkReader id) w.ctx (w.vpage * 2 ^ 13) w.tag.isSome = (s1, .here) → s1.ctxs[w.ctx]? = some c →
    let answer : State → Host.Outcome State Machine.Fault Refusal := fun s => .next (s.endBring w.die (walkReader id))
    (∀ e, walkTables s1.mem s1.hubid c.root (w.vpage * 2 ^ 13) = .error e →
      exec (.tlbWalkComplete id) s = answer (s1.endWalk id (some e) none)) ∧
    (∀ l, walkTables s1.mem s1.hubid c.root (w.vpage * 2 ^ 13) = .ok l → l.type = 3 →
      exec (.tlbWalkComplete id) s = answer (s1.endWalk id (some (pageFault 0x03)) none)) ∧
    (∀ l, walkTables s1.mem s1.hubid c.root (w.vpage * 2 ^ 13) = .ok l → l.type = 1 → s1.expertResident w.ctx l.exid = false →
      exec (.tlbWalkComplete id) s = answer (s1.endWalk id none (some l))) ∧
    (∀ l, walkTables s1.mem s1.hubid c.root (w.vpage * 2 ^ 13) = .ok l → l.type ≠ 3 → l.type ≠ 2 →
      (l.type = 1 → s1.expertResident w.ctx l.exid = true) →
      exec (.tlbWalkComplete id) s = answer ((((w.waiters.map fun c => TlbAt.die (dieOf c)) ++ w.waiters.map TlbAt.core).eraseDups).foldl
        (fun (s : State) p => s.tlbFill (l.entry p w.ctx (w.vpage * 2 ^ 13) none))
        { s1 with walks := s1.walks.filter fun x => x.id != id }))) ∧
  (∀ (id a : Nat) (s s1 : State) (w : Walk), s.walks.find? (fun w => w.id == id && !w.done) = some w →
    s.walkFor w.die (walkReader id) w.ctx (w.vpage * 2 ^ 13) w.tag.isSome = (s1, .remote a) →
    exec (.tlbWalkComplete id) s = .next ((s1.endWalk id (some (9, a)) none).endBring w.die (walkReader id))) ∧
  (∀ (id : Nat) (s s1 : State) (w : Walk), s.walks.find? (fun w => w.id == id && !w.done) = some w →
    s.walkFor w.die (walkReader id) w.ctx (w.vpage * 2 ^ 13) w.tag.isSome = (s1, .wait) → exec (.tlbWalkComplete id) s = .next s1) ∧
  (∀ (ctx vpage size : Nat) (s : State), s.awake = true → size ≤ 2 →
    let n := 2 ^ (13 + 10 * size)
    let lo := vpage * 2 ^ 13 / n * n
    let t := (s.dropTranslations ctx lo n).unmapL1 ctx lo n
    exec (.ctlbinv ctx vpage size false) s =
      .next { t with invals := t.invals ++ [⟨ctx, t.ctxReqs ctx, s.slatesIn ctx lo n⟩] } ∧
    (∀ e ∈ (s.dropTranslations ctx lo n).tlb, e.ctx = ctx →
      ¬(lo ≤ e.vpage * 2 ^ levelShift e.level ∧ e.vpage * 2 ^ levelShift e.level < lo + n))) ∧
  (∀ (ctx vpage size : Nat) (s : State), s.awake = true →
    let t := (s.dropTranslations ctx 0 (2 ^ 53)).unmapL1 ctx 0 (2 ^ 53)
    exec (.ctlbinv ctx vpage size true) s =
      .next { t with invals := t.invals ++ [⟨ctx, t.ctxReqs ctx, s.slatesIn ctx 0 (2 ^ 53)⟩] }) ∧
  (∀ (s : State) (i : Inval) (rest : List Inval) (c : Context), s.invals = i :: rest → (∀ r ∈ s.reqs, r.id ∉ i.reqs) →
    (∀ b ∈ s.blocks, b.uid ∉ i.slates) → (∀ b ∈ s.slates, b.uid ∉ i.slates) → s.ctxs[i.ctx]? = some c → ∃ t c', exec .tlbInvalidateComplete s = .next t ∧ t.invals = rest ∧ t.ctxs[i.ctx]? = some c' ∧
      c'.ctlbseq = (c.ctlbseq + 1) % 2 ^ 32 ∧ t.mem = s.mem)

/-- R213, R216, R221, R230, R374, R375, R377, R385, R390: answers and timeouts of requests that left the device, publication, snoops of
outside holders, and the accesses of the host, of the firmware and of peers. What counts as egress traffic is the model's choice (log
entry 95). -/
def Obligations.MemoryEvents : Prop :=
  (∀ (id i : Nat) (s : State) (r : Req) (e : ReqElem), s.req? id = some r → r.elems[i]? = some e → e.sent = true →
    e.answer = none → s.hears e.home = true →
    (e.kind = .write → s.lowerLane r (fun q => q.elems.any fun k => k.home == e.home && k.kind == .write && k.answer.isNone) = false) →
    (∀ v, let n := if e.ofLine then 128 else e.n
      let bs := if e.home = hostAgent then readBytes s.mem (memKey s.hubid e.pa) n else toBytes v n
      let r2 : Req := { r with elems := updAt r.elems i fun e => { e with answer := some bs } }
      exec (.memoryResponse id i (.data v)) s = .next
        (((s.updElem id i fun e => { e with answer := some bs }).answerLands r2 { e with answer := some bs } bs).goOn)) ∧
    (e.kind = .read ∨ e.kind = .fill → exec (.memoryResponse id i .poisoned) s = .next (s.failReq r (poisonF e.va)).goOn) ∧
    (e.waked = false → exec (.memoryResponse id i .waking) s =
      .next (s.updElem id i fun e => { e with waked := true, since := s.hubCycle })) ∧
    (e.waked = true → exec (.memoryResponse id i .waking) s = .next s)) ∧
  (∀ (id i : Nat) (s : State) (r : Req) (e : ReqElem), s.req? id = some r → r.elems[i]? = some e → e.sent = true →
    e.answer = none → e.since + 20000 ≤ s.hubCycle →
    (e.tries < 4 → ∃ t, exec (.requestTimeout id i) s = .next t ∧ t.mem = s.mem ∧ t.blocks = s.blocks ∧
      (t.req? id).map (fun r => r.elems[i]?) = some (some { e with tries := e.tries + 1, since := s.hubCycle })) ∧
    (4 ≤ e.tries → exec (.requestTimeout id i) s = .next (s.failReq r (remoteF e.va e.home)).goOn)) ∧
  (∀ (core e : Nat) (s : State) (c : CoreSt), s.cores[core]? = some c → e ≤ c.epoch →
    exec (.publish core e) s = .next (s.publishUpTo core e)) ∧
  (∀ (die line who : Nat) (s : State), s.outsider who = true → s.hears who = true → die < 8 →
    s.l2.any (fun l => l.die == die && l.line == line && l.st == .m) = true →
    ((s.links[36 + die]?).map (·.st) = some .sleep → exec (.snoopOwn die line who) s =
      .next (((s.wakeSpokes [die]).tellWaking die line who).comeAgain (.snoopOwn die line who))) ∧
    ((s.links[36 + die]?).map (·.st) = some .waking → exec (.snoopOwn die line who) s =
      .next ((s.tellWaking die line who).comeAgain (.snoopOwn die line who)))) ∧
  (∀ (die line who : Nat) (s s1 : State), s.outsider who = true → s.hears who = true → die < 8 →
    (s.links[36 + die]?).map (·.st) = some .up → s.publishFor line = (s1, false) →
    (s.snooped die line (· != .s) = true → s1.snooped die line (· != .s) = true →
      ∃ t, exec (.snoopRead die line who) s = .next t ∧ (peerLine line = false → t.mem = s1.mem) ∧
        ∀ l ∈ t.l2, l.die = die → l.line = line → l.st = .s ∨ s1.dieFenced die = true) ∧
    (s.snooped die line (· != .m) = true → s1.snooped die line (· != .m) = true →
      ∃ t, exec (.snoopInvalidate die line who) s = .next t ∧ ∀ l ∈ t.l2, ¬(l.die = die ∧ l.line = line)) ∧
    (s.snooped die line (· == .m) = true → s1.snooped die line (· == .m) = true →
      exec (.snoopOwn die line who) s = .next ((s1.takeOut line who).answerSnoop who line false) ∧
        ∀ l ∈ (s1.takeOut line who).l2, l.line = line → s1.dieFenced l.die = true)) ∧
  (∀ (off n v : Nat) (s : State), s.awake = true → s.hears hostAgent = true →
    targetOf s.hubid (s.hubid * 2 ^ 39 + off) = .own off →
    let pa := s.hubid * 2 ^ 39 + off
    let key := memKey s.hubid pa
    (∀ op s1, s.reachLines (op != .read) (linesOf key n) = (s1, true) →
      exec (.hostMemoryAccess pa n op v false) s = .next (s1.comeAgain (.hostMemoryAccess pa n op v false))) ∧
    (∀ s1, s.reachLines true (linesOf key n) = (s1, false) → s1.hostFault 0 key = none →
      exec (.hostMemoryAccess pa n .write v false) s = .next (s1.homeWrite pa (toBytes v n)) ∧
      ∀ fn d, fn < 8 → n = 4 ∨ n = 8 ∨ n = 16 → pa % n = 0 → exec (.hostMemoryAccess pa n (.atomic fn d) v false) s =
        .next (s1.homeWrite pa (toBytes
          (rmwValue fn (numberType n) (readNat s1.mem key n) (v % 2 ^ (8 * n)) (d % 2 ^ (8 * n))).1 n))) ∧
    (∀ s1, s.reachLines false (linesOf key n) = (s1, false) → s1.hostFault 0 key = none →
      exec (.hostMemoryAccess pa n .read v false) s = .next (s1.outsideRead key n hostAgent))) ∧
  (∀ (pa n v : Nat) (op : HostOp) (s : State), s.awake = true →
    (∀ off, targetOf s.hubid pa = .own off → firmwareWindow off n = false →
      exec (.hostMemoryAccess pa n op v true) s = .next s.denied) ∧
    (∀ a off, targetOf s.hubid pa = .peer a off →
      (Config.policyAllows a = false ∨ s.hubCycle < s.mgmt.egressFree → exec (.hostMemoryAccess pa n op v true) s = .next s.denied) ∧
      exec (.hostMemoryAccess pa n op v false) s = .next s)) ∧
  (∀ (agent seq : Nat) (op : HomeOp) (s : State) (p : Nat × HomeStatus × Nat), agent < 4096 → s.outsider agent = true →
    s.hears agent = true → homeOk op = true → homeNumbered op = true → (s.homeWin agent).find? (fun p => p.1 == seq) = some p →
    exec (.homeRequest agent seq op) s = .next (s.sendMsg agent 1 (homeLine op) (.response agent seq p.2.1 p.2.2))) ∧
  (∀ (agent seq : Nat) (op : HomeOp) (s : State), homeNumbered op = true → (s.homeWin agent).all (fun p => p.1 != seq) = true →
    (∃ p ∈ s.homeWin agent, seq + 64 ≤ p.1) → exec (.homeRequest agent seq op) s = .next s) ∧
  (∀ (agent seq : Nat) (op : HomeOp) (s : State), s.outsider agent = false ∨ s.hears agent = false →
    exec (.homeRequest agent seq op) s = .next s) ∧
  (∀ (agent seq : Nat) (op : HomeOp) (s s1 : State), agent < 4096 → s.outsider agent = true → s.hears agent = true →
    homeOk op = true → s.homeDown op = [] → (if homeReaches op then s.publishFor (homeLine op) else (s, false)) = (s1, false) →
    (homeReaches op = true → s1.hostFault 0 (homeLine op * 128) = none) →
    let r := s1.applyHome agent op
    (homeNumbered op = false → exec (.homeRequest agent seq op) s =
      .next (r.1.sendMsg agent 1 (homeLine op) (.response agent seq r.2.1 r.2.2))) ∧
    (homeNumbered op = true → s.homeWin agent = [] → exec (.homeRequest agent seq op) s =
      .next (({ r.1 with homeWins := putKey r.1.homeWins agent [(seq, r.2)] } : State).sendMsg
        agent 1 (homeLine op) (.response agent seq r.2.1 r.2.2))))

/-- R367, R368: the commands of the checkpoint engine, the end of the cut and the end of the stream. When the pages are examined, at the
latest at the end of the stream, and where the parts of an image stand are the model's choices (log entry 23). -/
def Obligations.CheckpointEvents : Prop :=
  (∀ s : State, s.awake = true → s.ckpt.state ≠ .cutting → s.ckpt.state ≠ .streaming →
    exec .full s = .next { s with ckpt :=
      { s.ckpt with state := .cutting, full := true, pages := 0, cause := 0, todo := [], sent := [], trailer := false } } ∧
    (s.ckpt.state ≠ .failed → exec .dirty s = .next { s with ckpt :=
      { s.ckpt with state := .cutting, full := false, pages := 0, cause := 0, todo := [], sent := [], trailer := false } }) ∧
    (s.ckpt.state = .failed → exec .dirty s = .next { s with ckpt := { s.ckpt with cause := 2 } })) ∧
  (∀ s : State, s.awake = true → s.ckpt.state = .cutting ∨ s.ckpt.state = .streaming →
    exec .full s = .next s ∧ exec .dirty s = .next s ∧
    exec .abort s = .next { s with
      reqs := s.reqs.filter fun r => r.op != checkpointOp
      ckpt := { s.ckpt with state := .failed, cause := 3, todo := [], trailer := false } }) ∧
  (∀ s : State, s.ckpt.state = .cutting → s.downSpokes = [] →
    (∀ b ∈ s.blocks, bitAt s.ckpt.ctxs b.ctx = true → b.onCore = true → s.cutReady b = true) →
    let mine := s.blocks.filter fun b => bitAt s.ckpt.ctxs b.ctx && b.onCore
    let cores := ((mine.map (·.core)) ++ (s.l1.filter fun l => bitAt s.ckpt.ctxs l.ctx && l.dirty).map (·.core)).eraseDups
    let s1 := cores.foldl (fun (s : State) k => s.publishAll k) s
    let s2 := s1.included.foldl (fun (s : State) p => s.dropTranslations p.1 0 (2 ^ 53)) s1
    let todo := s2.included.flatMap fun p => if p.2.state = .free then [] else leavesFrom s2.mem s2.hubid p.1 4 0 p.2.root 0
    exec .checkpointCutDone s = .next (s2.updCkpt fun k => { k with state := .streaming, seq := (k.seq + 1) % 2 ^ 32, todo })) ∧
  (∀ s : State, s.ckpt.state = .streaming →
    (∀ ok, ok = false ∨ s.agentDead s.ckpt.agent = true → exec (.checkpointStreamDone ok) s = .next { s with
      reqs := s.reqs.filter fun r => r.op != checkpointOp
      ckpt := { s.ckpt with state := .failed, cause := 1, todo := [], trailer := false } }) ∧
    (s.agentDead s.ckpt.agent = false →
      let s1 := (s.ckpt.todo.foldl (fun (s : State) p => s.examine p p.level) s).updCkpt fun k => { k with todo := [] }
      ((∃ r ∈ s1.reqs, r.op = checkpointOp) → exec (.checkpointStreamDone true) s = .next s1) ∧
      ((∀ r ∈ s1.reqs, r.op ≠ checkpointOp) → s1.ckpt.trailer = false → exec (.checkpointStreamDone true) s =
        .next ((s1.updCkpt fun k => { k with trailer := true }).sendImage (8256 * s1.ckpt.pages)
          (toBytes s1.ckpt.seq 4 ++ toBytes s1.ckpt.pages 4))) ∧
      ((∀ r ∈ s1.reqs, r.op ≠ checkpointOp) → s1.ckpt.trailer = true → exec (.checkpointStreamDone true) s =
        .next (s1.updCkpt fun k => { k with state := .done, sent := [], trailer := false }))))

/-- R369, R371, R372, R376, R377, R380: PCTL, training, sleep, waking and errors of a port, a received flit, and a flit sent again. Which
two of three lanes train, which lane sets an event may name, and that a flit received outside UP, SLEEP included, changes nothing, are
the model's choices (log entry 36). -/
def Obligations.PortEvents : Prop :=
  ∀ (p : Nat) (s : State) (k : Link), s.links[p]? = some k →
    (∀ v, s.awake = true → p < 36 → k.st = .down ∨ k.st = .fenced → LinkStep (.portEnable p v) p s fun k =>
      ({ k with slp := bitAt v 30, lmask := bitsOf v 8 4, ord := bitsOf v 4 4, en := true } : Link).start s.hubidSet s.hubCycle) ∧
    (∀ v, s.awake = true → p < 36 → k.st ≠ .down → k.st ≠ .fenced → LinkStep (.portEnable p v) p s id) ∧
    (∀ v, s.awake = true → p < 36 → ∃ t k', exec (.portDisable p v) s = .next t ∧ t.links[p]? = some k' ∧ k'.en = false ∧
      k'.st = .down ∧ t.mem = s.mem) ∧
    (∀ lanes peer pinc m, m = lanes % 16 &&& k.lmask &&& (15 - k.lost % 16) → k.st = .training → m ≠ 0 →
      ∃ t k', exec (.portTrained p lanes peer pinc) s = .next t ∧ t.links[p]? = some k' ∧
        k'.st = (if s.agentDead (farAgent p (if p < 36 then peer % 4096 else k.peer)) then .fenced else .up) ∧
        lanesOk k'.lanes = true ∧ k'.lanes &&& m = k'.lanes ∧ (lanesOk m = true → k'.lanes = m) ∧
        k'.pinc = pinc % 256 ∧ (p < 36 → k'.peer = peer % 4096)) ∧
    (k.st = .training → k.since + 10000 ≤ s.hubCycle →
      (k.attempts < 2 → LinkStep (.trainingTimeout p) p s fun k => { k with attempts := k.attempts + 1, since := s.hubCycle }) ∧
      (2 ≤ k.attempts → LinkStep (.trainingTimeout p) p s fun k => { k.enter .down s.hubCycle with en := false })) ∧
    (k.st = .up → k.slp = true → k.lastData + 10000 ≤ s.hubCycle →
      LinkStep (.portIdle p) p s fun k => { k with st := .sleep, since := s.hubCycle }) ∧
    (∀ lost, k.st = .up → 16 ≤ (k.badTimes.filter fun t => decide (s.hubCycle ≤ t + 1000)).length ∨ lost % 16 &&& k.lanes ≠ 0 →
      ∃ t k', exec (.portErrors p lost) s = .next t ∧ t.links[p]? = some k' ∧ k'.st = .training ∧
        k'.lost = k.lost ||| (lost % 16 &&& k.lanes) ∧ k'.outSince = some s.hubCycle) ∧
    (k.st = .sleep → LinkStep (.portWake p) p s fun k => { k with st := .waking, since := s.hubCycle }) ∧
    (k.st = .waking → s.hubCycle ≤ k.since + 40000 → LinkStep (.wakeReady p) p s fun k =>
      ({ k with st := .up, since := s.hubCycle, lastData := s.hubCycle, told := [] } : Link).pump s.hubCycle 64) ∧
    (k.st = .waking → k.since + 40000 ≤ s.hubCycle →
      LinkStep (.wakeTimeout p) p s fun k => { k with st := .training, since := s.hubCycle, attempts := 0, told := [] }) ∧
    (∀ v, k.st = .up → LinkStep (.flitReceive p v) p s fun k => k.receive (toBytes v 256) s.hubCycle) ∧
    (∀ v, k.st ≠ .up → LinkStep (.flitReceive p v) p s id) ∧
    (∀ q, k.st = .up → (∃ t ∈ k.tx, t.seq = q ∧ t.sentAt + 2000 ≤ s.hubCycle) →
      LinkStep (.retransmitTimeout p q) p s fun k => k.resend q s.hubCycle)

/-- R370, R372: a flit that is not corrected or fails its check is counted and dropped; one of another incarnation is dropped; a data
flit is accepted at most once. -/
def Obligations.FlitsAcceptedOnce : Prop :=
  (∀ (k : Link) (bs : List Byte) (now : Nat),
    let r := k.receive bs now
    let counted := r.bad = (k.bad + 1) % 2 ^ 32 ∧ r.inbox = k.inbox ∧ r.rxNext = k.rxNext
    match fecFlit bs with
    | none => counted
    | some c => if crc32c (c.take 240) ≠ fromBytes ((c.drop 240).take 4) then counted
      else ∀ f, Flit.parse c = some f → f.inc ≠ k.pinc → r.inbox = k.inbox ∧ r.rxNext = k.rxNext ∧ r.tx = k.tx) ∧
  (∀ (k : Link) (f : Flit) (now : Nat), f.seq ∈ k.rxSeen → k.accept f now = k) ∧
  (∀ (k : Link) (f : Flit) (now : Nat), seqAhead k.rxNext f.seq < 64 → f.seq ∉ k.rxSeen → k.rxNext < 256 → f.seq < 256 →
    f.seq ∈ (k.accept f now).rxSeen ∨ 64 ≤ seqAhead (k.accept f now).rxNext f.seq)

/-- R377 to R383: suspicion, heartbeats, HUBID, the declaration of an agent, its fence, strike and unfence. The bytes that a vote signs
(log entry 31) and that the whole strike is made at the fence (log entry 37) are the model's choices. -/
def Obligations.FailureEvents : Prop :=
  (∀ (d t : Nat) (s : State) (k : Link), d < 8 → s.links[36 + d]? = some k → k.outSince = some t → k.st ≠ .up → t + 40000 < s.hubCycle →
    LinkStep (.spokeSuspect d) (36 + d) s fun k => { k with suspect := true }) ∧
  (∀ (v : Nat) (s : State), s.awake = true → s.hubidSet = false → ∃ t, exec (.hubid v) s = .next t ∧ t.hubid = v % 4096 ∧
    t.hubidSet = true ∧ t.mem = s.mem) ∧
  (∀ (v : Nat) (s : State), s.hubidSet = true → exec (.hubid v) s = .next s) ∧
  (∀ s : State, s.beatStop = false → s.beatSent + 100000 ≤ s.hubCycle →
    exec .heartbeatSend s = .next { s with beatSent := s.hubCycle }) ∧
  (∀ (a : Nat) (s : State), s.agentKnown a = true → (s.agent a).state = .absent ∨ (s.agent a).state = .live →
    ∃ t, exec (.heartbeat a) s = .next t ∧ (t.agent a).state = .live ∧ (t.agent a).lastBeat = s.hubCycle ∧
      (∀ b, b ≠ a → t.agent b = s.agent b) ∧ t.mem = s.mem) ∧
  (∀ (a : Nat) (s : State), (s.agent a).state = .live → (s.agent a).lastBeat + 400000 ≤ s.hubCycle →
    exec (.declare a) s = .next (s.beginFence a)) ∧
  (∀ (a : Nat) (s : State), s.awake = true → s.agentKnown a = true → (s.agent a).state = .live →
    exec (.fenceCommand a) s = .next (s.beginFence a)) ∧
  (∀ (a : Nat) (s : State), (s.agent a).state = .fencing → ∃ t, exec (.agentFenced a) s = .next t ∧ (t.agent a).state = .striking ∧
    t.mem = s.mem ∧ (∀ d ∈ t.dir, a ∉ d.peers ∧ d.owner ≠ some a ∧ (a = hostAgent → d.host = false)) ∧
    (∀ d ∈ s.dir, d.owner = some a → d.line ∈ t.poison)) ∧
  (∀ (a : Nat) (s : State), (s.agent a).state = .striking → ∃ t, exec (.strikeComplete a) s = .next t ∧
    (t.agent a).state = .fenced ∧ (t.agent a).votes = [] ∧ t.mem = s.mem) ∧
  (∀ (a p sig : Nat) (s : State), (s.agent a).state = .fenced → p ∉ (s.agent a).votes →
    ∃ t, exec (.unfenceVote a p (s.agent a).inc sig) s = .next t ∧ (t.agent a).state = .fenced ∧
      (t.agent a).votes = (if p < Config.quorum ∧
        Config.voteVerifies (Config.quorumKey p) (digest (voteBytes a (s.agent a).inc)) sig = true
        then (s.agent a).votes ++ [p] else (s.agent a).votes)) ∧
  (∀ (a v : Nat) (s : State), s.awake = true → unfenceName v = some a → (s.agent a).state = .fenced →
    (∃ t, exec (.unfence v false) s = .next t ∧ if Config.quorum / 2 + 1 ≤ (s.agent a).votes.length
      then (t.agent a).state = .live ∧ (t.agent a).inc = ((s.agent a).inc + 1) % 256 ∧ (t.agent a).lastBeat = s.hubCycle
      else t = s) ∧
    exec (.unfence v true) s = .next s.denied)

/-- R4, R380, R386 to R394: the boot ROM, attestation, debug access, the power limiter, the scrubber, reads of registers (a WO register
reads as 0), and writes to registers without an event of their own. The layouts of keys, signatures and what they cover are taken from the
standards that R386 and R389 name (log entry 97); the ceiling of PWRLIM is the ZT8-M's (log entry 94). -/
def Obligations.ManagementEvents : Prop :=
  (∀ (img : FwImage) (s : State), s.fw.tried = false → ∃ t, exec (.boot img) s = .next t ∧ t.fw.tried = true ∧ t.mem = s.mem ∧
    if s.fw.accepts img = true
    then t.fw.started = true ∧ t.fw.measurement = digest img.bytes ∧ t.fw.version = img.version % 2 ^ 32
    else t.fw.started = s.fw.started) ∧
  (∀ (img : FwImage) (s : State), s.fw.tried = true → s.fw.started = false → s.fw.retryAt ≤ s.hubCycle →
    ∃ t, exec (.recoveryRetry img) s = .next t ∧ if s.fw.accepts img = true then t.fw.started = true ∧ t.fw.flash = some img
      else t.fw.started = false ∧ t.fw.retryAt = s.hubCycle + 10000000000) ∧
  (∀ (v : Nat) (s : State), s.fw.started = true → ∃ t, exec (.minimumVersionRaise v) s = .next t ∧
    t.fw.minVersion = max s.fw.minVersion (v % 2 ^ 32)) ∧
  (∀ (nonce : Nat) (s : State), s.awake = true →
    (s.agentDead hostAgent = false → ∃ t, exec (.attreq nonce) s = .next t ∧ t.mgmt.pending = some (nonce % 2 ^ 256) ∧
      t.mgmt.done = false) ∧
    (s.agentDead hostAgent = true → exec (.attreq nonce) s = .next s) ∧
    (∃ t, exec (.managementAttestationRequest nonce) s = .next t ∧ t.mgmt.pending = some (nonce % 2 ^ 256) ∧ t.mgmt.done = false)) ∧
  (∀ (nonce : Nat) (s : State), s.mgmt.pending = some nonce → ∃ t, exec .attestationDone s = .next t ∧ t.mgmt.pending = none ∧
    t.mgmt.done = true ∧ t.mgmt.report = s.reportBody nonce ++ signature (s.reportBody nonce) ++ publicKey) ∧
  (∀ (c : Nat) (sig : List Byte) (s : State), ∃ t, exec (.debugChallenge c sig) s = .next t ∧ t.mgmt.debug =
    (s.mgmt.debug || Config.debugFuse || hssVerify Config.vendorKey sig (toBytes c 32)) ∧ t.mem = s.mem) ∧
  (∀ (v : Nat) (s : State), s.awake = true → ∃ t, exec (.pwrlim v) s = .next t ∧
    t.power.limit = max 300 (min (v % 2 ^ 16) powerCap) ∧ 300 ≤ t.power.limit) ∧
  (∀ (d : Nat) (s : State), s.power.sampledAt + 10000 ≤ s.hubCycle → ∃ t, exec (.powerSample d) s = .next t ∧
    t.power.power = d % 2 ^ 16 ∧ t.power.lower = decide (s.power.limit < d % 2 ^ 16) ∧
    t.power.freq = (if s.power.lower = true then max 250 (s.power.freq - 25)
      else if 100 * (d % 2 ^ 16) ≤ 95 * s.power.limit then min 1250 (s.power.freq + 25) else s.power.freq) ∧
    t.power.capped = (t.power.freq == 250 && decide (s.power.limit < d % 2 ^ 16))) ∧
  (∀ (at_ : ScrubAt) (s : State), exec (.scrub at_ .clean) s = .next s ∧
    (∃ t, exec (.scrub at_ .correctable) s = .next t ∧ t.mgmt.ce = (s.mgmt.ce + 1) % 2 ^ 32 ∧ t.mem = s.mem ∧
      t.poison = s.poison ∧ t.l1 = s.l1 ∧ t.blocks = s.blocks) ∧
    (∃ t, exec (.scrub at_ .uncorrectable) s = .next t ∧ t.mgmt.ue = (s.mgmt.ue + 1) % 2 ^ 16 ∧ t.mem = s.mem ∧
      (∀ line, at_ = .memory line → line ∈ t.poison) ∧
      (∀ core ctx line, at_ = .l1 core ctx line → ∀ l ∈ t.l1, l.core = core → l.ctx = ctx → l.vline = line → l.bad = true))) ∧
  (∀ (n : Nat) (s : State) (c : Context), n < 64 → s.ctxs[n]? = some c →
    s.readReg (0x200000 + 256 * n) = some 0 ∧ s.readReg (0x200000 + 256 * n + 0x18) = some c.tvec ∧
    s.readReg (0x200000 + 256 * n + 0x08) = some (c.logcnt % 2 ^ 32 * 2 ^ 32 + c.lastcls * 2 ^ 24 + c.state.code)) ∧
  (∀ (p : Nat) (s : State) (k : Link), p < 36 → s.links[p]? = some k → s.readReg (0x500000 + 64 * p + 8) =
    some (k.peer * 2 ^ 52 + k.pinc * 2 ^ 44 + k.st.code * 2 ^ 4 + k.lanes)) ∧
  (∀ (off v : Nat) (s : State), s.awake = true →
    (s.agentDead hostAgent = false → exec (.registerWrite off v false) s = .next (s.writeReg off v)) ∧
    (s.agentDead hostAgent = true → exec (.registerWrite off v false) s = .next s) ∧
    (off ≠ 0x6F0000 → exec (.registerWrite off v true) s = .next (s.writeReg off v)) ∧
    (s.writeReg off v).mem = s.mem) ∧
  (∀ (n v : Nat) (s : State) (c : Context), n < 64 → s.ctxs[n]? = some c →
    ∃ c', (s.writeReg (0x200000 + 256 * n + 0x18) v).ctxs[n]? = some c' ∧
      c'.tvec = (if c.state = .free ∨ c.state = .ready ∨ c.state = .saved then v % 2 ^ 53 else c.tvec) ∧ c'.root = c.root)

/-- R85, R58: an instruction that writes a value changes D's registers in the active lanes, the latches and the place of the bundle, and
nothing else: no other register (with D = gz or WBS = 1 none at all, R53, R61), no predicate, no flag, no record of an exception, no other
thread's registers, no byte of memory. -/
def Obligations.ValueFrame : Prop :=
  ∀ p ∈ valueInstrs, ∀ (w : Fields) (s t : State) (x : Ctx), IssuesLong p.1 p.2.1 p.2.2.1 w s x →
    exec (p.2.2.2.2 w) s = .next t → OnlyCrew s t x.uid x.ci ∧ (∀ a, readByte t.mem a = readByte s.mem a) ∧
    ∀ c : Crew, s.crew? x.uid x.ci = some c → ∃ c' : Crew, t.crew? x.uid x.ci = some c' ∧ CrewKeeps c c' ∧ c'.fstat = c.fstat ∧
      ∀ (l : Nat) (h : Thread), c.threads[l]? = some h → ∃ h' : Thread, c'.threads[l]? = some h' ∧ ThreadKeeps h h' ∧ h'.p = h.p ∧ h'.rand = h.rand ∧
        RegsBut x.w.d.toNat (if x.w.d = 0xFF then 0 else p.2.2.2.1 x / 32) c c' h h' ∧ (l ∉ x.act → h'.g = h.g ∧ h'.o = h.o)

/-- R90, R100, R125, R133: an instruction that writes a predicate changes that predicate in the active lanes and no register. -/
def Obligations.PredicateFrame : Prop :=
  ∀ p ∈ ([(0x0C, none, readsAB, .icmp), (0x18, some 0, [], .pand), (0x18, some 1, [], .por), (0x18, some 2, [], .pxor),
      (0x18, some 3, [], .pnot), (0x18, some 4, [], .pmov), (0x31, none, [], .elect), (0x47, none, readsAB, .fclass)] :
      List (Nat × Option Nat × List ReadAs × (Fields → Instr))),
    ∀ (w : Fields) (s t : State) (x : Ctx), IssuesLong p.1 p.2.1 p.2.2.1 w s x → exec (p.2.2.2 w) s = .next t →
    OnlyCrew s t x.uid x.ci ∧ (∀ a, readByte t.mem a = readByte s.mem a) ∧
    ∀ c : Crew, s.crew? x.uid x.ci = some c → ∃ c' : Crew, t.crew? x.uid x.ci = some c' ∧ CrewKeeps c c' ∧ c'.fstat = c.fstat ∧ c'.k = c.k ∧
      ∀ (l : Nat) (h : Thread), c.threads[l]? = some h → ∃ h' : Thread, c'.threads[l]? = some h' ∧ ThreadKeeps h h' ∧ h'.g = h.g ∧ h'.o = h.o ∧
        h'.rand = h.rand ∧ (∀ i, i ≠ x.w.d.toNat → h'.pred i = h.pred i) ∧ (l ∉ x.act → h'.p = h.p)

/-- R109, R114, R118, R229, R236: `nop`, branches and `wait` change no register and no memory; `sts` changes the scratchpad bytes that its
lanes store to and no register, no other byte and no memory. -/
def Obligations.MoveAndStoreFrame : Prop :=
  (∀ p ∈ ([(0x20, [], .nop), (0x21, readsA, .bra), (0x22, readsA, .brx), (0x28, [], .wait)] : List (Nat × List ReadAs × (Fields → Instr))),
    ∀ (w : Fields) (s : State) (x : Ctx), IssuesLong p.1 none p.2.1 w s x →
    (p.1 = 0x21 → ∀ l ∈ x.act, x.relTarget l % 4 = 0) → (p.1 = 0x22 → ∀ l ∈ x.act, x.a l 64 % 4 = 0) →
    ∃ t : State, exec (p.2.2 w) s = .next t ∧ OnlyCrew s t x.uid x.ci ∧
    ∀ c : Crew, s.crew? x.uid x.ci = some c → ∃ c' : Crew, t.crew? x.uid x.ci = some c' ∧ CrewKeeps c c' ∧ c'.fstat = c.fstat ∧ c'.k = c.k ∧
      ∀ (l : Nat) (h : Thread), c.threads[l]? = some h → ∃ h' : Thread, c'.threads[l]? = some h' ∧ ThreadKeeps h h' ∧ h'.g = h.g ∧ h'.o = h.o ∧ h'.p = h.p ∧
        h'.rand = h.rand) ∧
  (∀ (w : Fields) (s : State) (x : Ctx), IssuesLong 0xA5 none readsABC w s x → x.scratchOk x.sa (memBytes x.mod) true →
    MemoryCanonical s →
    ∃ t : State, exec (.sts w) s = .next t ∧ t.mem = s.mem ∧
    (∀ a, (∀ l ∈ x.act, ¬(x.sa l ≤ a ∧ a < x.sa l + memBytes x.mod)) → t.scratchRead x.uid a 1 = s.scratchRead x.uid a 1) ∧
    ∀ c : Crew, s.crew? x.uid x.ci = some c → ∃ c' : Crew, t.crew? x.uid x.ci = some c' ∧ CrewKeeps c c' ∧ c'.fstat = c.fstat ∧ c'.k = c.k ∧
      ∀ (l : Nat) (h : Thread), c.threads[l]? = some h → ∃ h' : Thread, c'.threads[l]? = some h' ∧ ThreadKeeps h h' ∧ h'.g = h.g ∧ h'.o = h.o ∧ h'.p = h.p ∧
        h'.rand = h.rand)

/-- R48 to R50, R66: the decoder reads from the words of a legal instruction that instruction, with every field as it was. -/
def Obligations.DecodeOfEncode : Prop :=
  ∀ (lim : Limits) (i : Instr), i.encoded = true → i.illDetail lim = 0 → decode lim (encode i) = .ok i i.len

/-- R48, R49, R100: words written out from the encoding tables; the first is the worked example of R100. -/
def Obligations.DecodeWords : Prop :=
  decodeBytes Limits.all [0x42, 0xDC, 0x80, 0x02, 0xFF, 0xFF, 0x07, 0x00, 0x14, 0x08, 0x00, 0x00] = .ok (.bfxs
    { gp := 7, gn := false, d := 3, a := 5, b := 0x1FF, c := 0x1FF, fn := 1, mod := 0, wbs := false, stall := 0, yld := false,
      hold := false, ext := .lit 0x0814 }) 12 ∧
  decodeBytes Limits.all [0x80, 0x1C, 0x00, 0x00] = .ok (.nopShort { gp := 7, gn := false, d := 0, a := 0 }) 4 ∧
  decodeBytes Limits.all [0xA9, 0x1C, 0x00, 0x00, 0x00, 0x00, 0x00, 0x00] = .ok (.exit
    { gp := 7, gn := false, d := 0, a := 0, b := 0, c := 0, fn := 0, mod := 0, wbs := false, stall := 0, yld := false, hold := false,
      ext := .none }) 8 ∧
  decodeBytes Limits.all [0x00, 0x00, 0x00, 0x00] = .ill .opZero ∧
  decodeBytes Limits.all [0x03, 0x00, 0x00, 0x00] = .ill .lenReserved

/-- R9, R104 to R108, R111: a step issues the bundle that the slice has picked, and of two the one with the lower lane first: the instruction
that the parcels at its address decode to runs, or ILL is raised, and the crew's cycle ends when no other bundle of it is left; both bundles
read their instructions before either issues. That an event that is due comes before a pick (log entry 7), that the lower bundle has a step
of its own (log entry 9) and that what has issued goes on before the pick of its slice (log entry 10) are the model's choices. -/
def Obligations.StepRunsDecoded : Prop :=
  let ends : Nat → Nat → Host.Outcome State Machine.Fault Refusal → Host.Outcome State Machine.Fault Refusal := fun u ci r => match r with
    | .next t => .next (if t.second.isNone then t.endPick u ci else t)
    | r => r
  (∀ (s : State) (q : Issue), s.second = some q → (s.crew? q.uid q.crew).isSome = true →
    (∀ i, q.instr = some i → step s = ends q.uid q.crew (exec i { s with second := none, issue := some q })) ∧
    (q.instr = none → step s = ends q.uid q.crew (raiseIll q.ill { s with second := none, issue := some q }))) ∧
  (∀ (s s1 : State) (p : Pickable) (ls : List Nat) (b : Block) (c : Crew), s.second = none → s.duePrompt = none →
    s.nextPosted = none → s.nextMove = (none, s1) → s1.regroupDue = false → s1.againNow = none → s1.nextPick = some p →
    sortBy (fun ls : List Nat => ls.headD 32) p.ready = [ls] → (s1.recordPick p).block? p.uid = some b → b.crew? p.ci = some c →
    let s2 := (s1.recordPick p).markPicked p.uid p.ci [ls]
    (∀ i n, (s1.recordPick p).bundleInstr b c ls = .ok i n →
      step s = ends p.uid p.ci (exec i { s2 with second := none, issue := some ⟨p.uid, p.ci, ls, some i, 0⟩ })) ∧
    (∀ e, (s1.recordPick p).bundleInstr b c ls = .ill e →
      step s = ends p.uid p.ci (raiseIll e.detail { s2 with second := none, issue := some ⟨p.uid, p.ci, ls, none, e.detail⟩ }))) ∧
  (∀ (s s1 : State) (p : Pickable) (l m : List Nat) (rest : List (List Nat)) (b : Block) (c : Crew) (i j : Instr) (n k : Nat),
    s.second = none → s.duePrompt = none → s.nextPosted = none → s.nextMove = (none, s1) → s1.regroupDue = false →
    s1.againNow = none → s1.nextPick = some p → sortBy (fun ls : List Nat => ls.headD 32) p.ready = l :: m :: rest →
    (s1.recordPick p).block? p.uid = some b → b.crew? p.ci = some c →
    (s1.recordPick p).bundleInstr b c l = .ok i n → (s1.recordPick p).bundleInstr b c m = .ok j k →
    step s = ends p.uid p.ci (exec i { (s1.recordPick p).markPicked p.uid p.ci (l :: m :: rest) with
      second := some ⟨p.uid, p.ci, m, some j, 0⟩, issue := some ⟨p.uid, p.ci, l, some i, 0⟩ })) ∧
  (∀ (s : State) (b : Block) (c : Crew) (ls : List Nat) (h : Thread) (ps : List Word), c.threads[ls.headD 0]? = some h →
    s.ibFetch b.core b.ctx h.pc.toNat h.stale = some ps →
    s.bundleInstr b c ls = decode ⟨b.sheet.gregs, b.sheet.kregs, b.sheet.qregs⟩ ps) ∧
  (∀ (s : State) (e : Nat × Instr), s.second = none → s.duePrompt = some e → step s = exec e.2 (s.takeEvent e)) ∧
  (∀ (s s1 : State) (k : Nat) (i : Issue) (j : Instr), s.second = none → s.duePrompt = none → s.nextPosted = none →
    s.nextMove = (none, s1) → s1.regroupDue = false → s1.againNow = some (k, i, j) →
    step s = match exec j { s1 with issue := some i, turn := max s1.turn (k + 1) } with
      | .next t => .next (t.endPick i.uid i.crew)
      | r => r)

/-- R77, R101, R298, R324, R367, R376, R379, R391, R392: what reset leaves, for the values that the spec gives, and what a thread and
a crew hold at creation. Memory lists nothing (log entry 1). -/
def Obligations.ResetState : Prop :=
  (State.reset.ctxs.length = 64 ∧ ∀ c ∈ State.reset.ctxs, c.state = .free ∧ c.tvec = 0 ∧ c.tmask = 0 ∧ c.ssize = 0 ∧ c.rslot = 0 ∧
    c.dbase = 0 ∧ c.dcount = 0 ∧ c.seed = 0 ∧ c.resetus = 0 ∧ c.drainus = 0 ∧ c.lbase = 0 ∧ c.log2n = 0 ∧ c.hbase = 0 ∧
    c.log2h = 0 ∧ c.logcnt = 0 ∧ c.lastcls = 0) ∧
  (∀ n, (State.reset.queue n).en = false ∧ (State.reset.queue n).prio = 0 ∧ (State.reset.queue n).st = .unbound ∧
    (State.reset.queue n).head = 0) ∧
  (∀ p < 36, ∃ k, State.reset.links[p]? = some k ∧ k.en = false ∧ k.slp = false ∧ k.lmask = 15 ∧ k.st = .down ∧ k.lanes = 0) ∧
  (∀ a, (State.reset.agent a).state = .absent ∧ (State.reset.agent a).inc = 0) ∧
  State.reset.hubidSet = false ∧ State.reset.ckpt.state = .idle ∧ State.reset.ckpt.ctxs = 0 ∧
  State.reset.power.limit = 1800 ∧ State.reset.power.freq = 1250 ∧ (∀ i, State.reset.daily i = 0) ∧
  (∀ g entry, let t := Thread.create g entry
    t.pc = BitVec.ofNat 64 entry ∧ (∀ r ∈ t.g, r = 0) ∧ t.g.length = g ∧ t.o = List.replicate 8 0 ∧ t.q = List.replicate 8 QReg.zero ∧
    t.p = List.replicate 7 false ∧ (∀ l ∈ t.latches, l.valid = false) ∧ t.rand = 0 ∧ t.batch = 0 ∧ t.depth = 0) ∧
  MemoryCanonical State.reset

/-- Every step keeps memory and every scratchpad in their canonical form. -/
def Obligations.StepKeepsMemoryCanonical : Prop :=
  ∀ s t : State, MemoryCanonical s → step s = .next t → MemoryCanonical t
end

