-- ==== Sys2Proof/Laws/Issue.lean ====
section
/-! SUPPORT. What the frame of an instruction does when nothing stops the issue, and what it can do at all. -/

namespace Sys2Proof.Machine
open Sys2Proof

/-- What the body's result becomes. -/
def Ctx.close (x : Ctx) (r : BodyRes) (fatal : Bool) : State :=
  match r with
  | .hold s => holdIssue x s
  | .done s rs => finishIssue x s x.act rs fatal

theorem runInstr_issues {op len : Nat} {ill : Limits → Nat} {reads : List ReadAs} {w : Fields} {s : State} {x : Ctx}
    (h : Issues op len ill reads w s x) (hop : x.op = op) (hw : x.w = w) (body : Ctx → BodyRes) (fatal : Bool) :
    runInstr op len ill w s reads body fatal = .next (x.close (body x) fatal) := by
  obtain ⟨h1, h2⟩ := h
  simp only [Ctx.unstopped, Bool.and_eq_true, beq_iff_eq, List.isEmpty_iff] at h2
  obtain ⟨⟨⟨hi, hr⟩, hl⟩, ho⟩ := h2
  subst hop hw
  have ha : (x.act.filter fun l => !([] : List (Nat × LaneRes)).any fun p => p.1 == l) = x.act := by simp
  have hn : (!x.goesOn && !x.s0.issuable x.b x.c x.ci x.op x.w x.act) = false := by
    rw [← Bool.not_or, ho]; rfl
  simp only [runInstr, h1, hi, hr, hl, ha, hn]
  simp only [ne_eq, not_true_eq_false, if_false, Bool.not_true, Bool.false_eq_true, List.nil_append]
  cases body x <;> rfl

theorem issueCtx_op {s : State} {op len : Nat} {w : Fields} {x : Ctx} (h : s.issueCtx op len w = some x) :
    x.op = op ∧ x.w = w ∧ x.len = len := by
  unfold State.issueCtx at h
  split at h
  · cases h
  · split at h
    · cases h
    · split at h
      · cases h
      · cases h; exact ⟨rfl, rfl, rfl⟩

/-- The issue that nothing stops runs the body over every active lane. -/
theorem runLong_issues {op : Nat} {fn : Option Nat} {reads : List ReadAs} {w : Fields} {s : State} {x : Ctx}
    (h : IssuesLong op fn reads w s x) (body : Ctx → BodyRes) (fatal : Bool := false) :
    runLong op fn w s reads body fatal = .next (x.close (body x) fatal) :=
  runInstr_issues h (issueCtx_op h.1).1 (issueCtx_op h.1).2.1 body fatal

theorem runShort_issues {op : Nat} {reads : List ReadAs} {f : ShortFields} {s : State} {x : Ctx}
    (h : IssuesShort op reads f s x) (body : Ctx → BodyRes) :
    runShort op f s reads body = .next (x.close (body x) false) :=
  runInstr_issues h (issueCtx_op h.1).1 (issueCtx_op h.1).2.1 body false

/-- The close of a body that changes registers alone and faults in no lane. -/
theorem close_regBody (x : Ctx) (f : Ctx → Nat → Except LaneFault Eff) (e : Nat → Eff) (h : ∀ l, f x l = .ok (e l)) :
    x.close (regBody f x) false = x.writes e := by
  simp only [Ctx.close, regBody, Ctx.writes, Ctx.ends, h]
  congr 1
  · congr 1; funext c
    rw [List.foldl_map]
  · induction x.act <;> simp_all

end Sys2Proof.Machine
end

