-- ==== Sys2Proof/Laws/Memory.lean ====
section
/-! SUPPORT. Memory: every operation keeps the canonical form, a read after a write, and that equal memories are equal lists. -/

namespace Sys2Proof.Machine
open Sys2Proof

theorem cellsAbove_mono {lo hi : Nat} (h : lo ≤ hi) : ∀ {m : List Host.Cell}, cellsAbove hi m = true → cellsAbove lo m = true
  | [], _ => rfl
  | (k, v) :: r, hm => by
    simp only [cellsAbove, Bool.and_eq_true, decide_eq_true_eq] at hm ⊢
    exact ⟨⟨by omega, hm.1.2⟩, hm.2⟩

theorem cellsAbove_writeByte {lo : Nat} : ∀ {m : List Host.Cell} {a : Nat} {v : Byte}, lo ≤ a → cellsAbove lo m = true →
    cellsAbove lo (writeByte m a v) = true
  | [], a, v, ha, _ => by
    unfold writeByte; split <;> simp_all [cellsAbove]
  | (k, x) :: r, a, v, ha, hm => by
    simp only [cellsAbove, Bool.and_eq_true, decide_eq_true_eq] at hm
    obtain ⟨⟨hk, hx⟩, hr⟩ := hm
    unfold writeByte
    split
    · subst_vars; split
      · exact cellsAbove_mono (by omega) hr
      · simp_all [cellsAbove]
    · split
      · split
        · simp_all [cellsAbove]
        · rename_i hv
          simp only [cellsAbove, Bool.and_eq_true, decide_eq_true_eq]
          exact ⟨⟨ha, bne_iff_ne.2 hv⟩, ⟨by omega, hx⟩, hr⟩
      · simp only [cellsAbove, Bool.and_eq_true, decide_eq_true_eq]
        exact ⟨⟨hk, hx⟩, cellsAbove_writeByte (by omega) hr⟩

/-- A byte written keeps the canonical form. -/
theorem wf_writeByte {m : List Host.Cell} (a : Nat) (v : Byte) (h : Memory.wf m = true) : Memory.wf (writeByte m a v) = true :=
  cellsAbove_writeByte (Nat.zero_le a) h

theorem wf_writeBytes {m : List Host.Cell} (a : Nat) (bs : List Byte) (h : Memory.wf m = true) : Memory.wf (writeBytes m a bs) = true := by
  induction bs generalizing m a with
  | nil => exact h
  | cons b r ih => exact ih (a + 1) (wf_writeByte a b h)

theorem wf_writeNat {m : List Host.Cell} (a n v : Nat) (h : Memory.wf m = true) : Memory.wf (writeNat m a n v) = true :=
  wf_writeBytes a _ h

theorem wf_mergeBytes {m : List Host.Cell} (base : Nat) (data : List Byte) (mask : BitVec 128) (h : Memory.wf m = true) :
    Memory.wf (mergeBytes m base data mask) = true := by
  unfold mergeBytes
  generalize data.zipIdx = ps
  induction ps generalizing m with
  | nil => exact h
  | cons p r ih =>
    simp only [List.foldl_cons]
    split
    · exact ih (wf_writeByte _ _ h)
    · exact ih h

theorem wf_nil : Memory.wf [] = true := rfl

theorem readByte_below {lo a : Nat} (h : a < lo) : ∀ {m : List Host.Cell}, cellsAbove lo m = true → readByte m a = emptyByte
  | [], _ => rfl
  | (k, v) :: r, hm => by
    simp only [cellsAbove, Bool.and_eq_true, decide_eq_true_eq] at hm
    unfold readByte
    rw [if_neg (by omega), if_pos (by omega)]

theorem readByte_writeByte_above {lo : Nat} : ∀ {m : List Host.Cell} {a b : Nat} {v : Byte}, cellsAbove lo m = true →
    readByte (writeByte m a v) b = if b = a then v else readByte m b
  | [], a, b, v, _ => by
    unfold writeByte; split <;> simp_all [readByte]
  | (k, x) :: r, a, b, v, hm => by
    simp only [cellsAbove, Bool.and_eq_true, decide_eq_true_eq] at hm
    obtain ⟨⟨hk, hx⟩, hr⟩ := hm
    have below : ∀ c, c ≤ k → readByte r c = emptyByte := fun c hc => readByte_below (by omega) hr
    unfold writeByte
    split
    · subst_vars; split
      · subst_vars
        by_cases hb : b = a
        · subst hb; simp [below]
        · simp only [hb, if_false, readByte]
          by_cases hlt : b < a
          · rw [if_pos hlt]; exact below b (by omega)
          · rw [if_neg hlt]
      · simp only [readByte]; split <;> rfl
    · split
      · split
        · by_cases hb : b = a
          · subst hb; simp_all [readByte]
          · simp [hb]
        · by_cases hb : b = a
          · simp_all [readByte]
          · simp only [hb, if_false, readByte]
            split
            · rw [if_neg (by omega), if_pos (by omega)]
            · rfl
      · by_cases hb : b = a
        · simp only [hb, if_true]
          unfold readByte
          rw [if_neg (by omega), if_neg (by omega), readByte_writeByte_above hr]; simp
        · simp only [hb, if_false, readByte]
          rw [readByte_writeByte_above hr]; simp [hb]

/-- A byte read after a byte is written: the one written at its own address, every other as before. -/
theorem readByte_writeByte {m : List Host.Cell} (h : Memory.wf m = true) (a b : Nat) (v : Byte) :
    readByte (writeByte m a v) b = if b = a then v else readByte m b :=
  readByte_writeByte_above h

/-- Bytes written leave every other byte as it was. -/
theorem readByte_writeBytes_other {m : List Host.Cell} (h : Memory.wf m = true) (a b : Nat) (bs : List Byte)
    (hb : b < a ∨ a + bs.length ≤ b) : readByte (writeBytes m a bs) b = readByte m b := by
  induction bs generalizing m a with
  | nil => rfl
  | cons v r ih =>
    simp only [List.length_cons] at hb
    rw [writeBytes, ih (wf_writeByte a v h) (a + 1) (by omega), readByte_writeByte h, if_neg (by omega)]

/-- Bytes written read back. -/
theorem readBytes_writeBytes {m : List Host.Cell} (h : Memory.wf m = true) (a : Nat) (bs : List Byte) :
    readBytes (writeBytes m a bs) a bs.length = bs := by
  induction bs generalizing m a with
  | nil => rfl
  | cons v r ih =>
    simp only [List.length_cons, readBytes, writeBytes]
    rw [ih (wf_writeByte a v h), readByte_writeBytes_other (wf_writeByte a v h) _ _ _ (by omega), readByte_writeByte h, if_pos rfl]

theorem ext_above {lo : Nat} : ∀ {m n : List Host.Cell}, cellsAbove lo m = true → cellsAbove lo n = true →
    (∀ a, readByte m a = readByte n a) → m = n
  | [], [], _, _, _ => rfl
  | [], (k, v) :: r, _, hn, he => by
    simp only [cellsAbove, Bool.and_eq_true, decide_eq_true_eq, bne_iff_ne] at hn
    have := he k; simp only [readByte, if_true] at this; exact absurd this.symm hn.1.2
  | (k, v) :: r, [], hm, _, he => by
    simp only [cellsAbove, Bool.and_eq_true, decide_eq_true_eq, bne_iff_ne] at hm
    have := he k; simp only [readByte, if_true] at this; exact absurd this hm.1.2
  | (k, v) :: r, (l, w) :: q, hm, hn, he => by
    simp only [cellsAbove, Bool.and_eq_true, decide_eq_true_eq, bne_iff_ne] at hm hn
    have hkl : k = l := by
      have h1 := he k; have h2 := he l
      simp only [readByte, if_true] at h1 h2
      by_cases h : k = l
      · exact h
      · by_cases hlt : k < l
        · rw [if_neg h, if_pos hlt] at h1; exact absurd h1 hm.1.2
        · rw [if_neg (by omega), if_pos (by omega)] at h2; exact absurd h2.symm hn.1.2
    subst hkl
    have hvw : v = w := by have h1 := he k; simpa only [readByte, if_true] using h1
    subst hvw
    have hr : r = q := ext_above hm.2 hn.2 fun a => by
      by_cases ha : a < k + 1
      · rw [readByte_below ha hm.2, readByte_below ha hn.2]
      · have h1 := he a
        simp only [readByte] at h1
        rwa [if_neg (by omega), if_neg (by omega), if_neg (by omega), if_neg (by omega)] at h1
    rw [hr]

/-- Two memories in the canonical form that read alike at every address are the same list. -/
theorem wf_ext {m n : List Host.Cell} (hm : Memory.wf m = true) (hn : Memory.wf n = true) (h : ∀ a, readByte m a = readByte n a) :
    m = n := ext_above hm hn h

end Sys2Proof.Machine
end

