-- ==== Sys2Proof/Laws/PerInstr.lean ====
section
/-! SUPPORT. The family `Encoding`: the opcode tables build back each instruction from the opcode and the fields that the encoder
takes it apart into, and an instruction is 0 to 3 parcels long. -/

namespace Sys2Proof.Laws
open Sys2Proof Sys2Proof.Machine

/-- The table's row of an instruction builds it back from its opcode and fields (R47 to R51, R68, R69). -/
def Encoding.Builds (i : Instr) : Prop :=
  match partsOf i with
  | .long op fn f => op < 256 ∧ ((∀ k, fn = some k → f.fn.toNat = k) → buildLong op f = some i)
  | .short op f => op < 256 ∧ buildShort op f = some i
  | .event => encode i = []

/-- What the family says of an instruction. -/
def Encoding.Statement (i : Instr) : Prop := Builds i ∧ i.len ≤ 12 ∧ (i.encoded = true → 4 ≤ i.len)

theorem Encoding.build_fn {op k : Nat} {f : Fields} (h : f.fn.toNat = k) :
    buildLong op f = ((buildTable op).find? fun r => BuildRow.selects r op k).map fun r => r.2.2 f := by subst h; rfl

theorem Encoding.len_long {i : Instr} {op : Nat} {fn : Option Nat} {f : Fields} (h : partsOf i = .long op fn f) :
    i.len ≤ 12 ∧ (i.encoded = true → 4 ≤ i.len) := by
  unfold Instr.len encode; rw [h]; simp only; split <;> simp

theorem Encoding.len_short {i : Instr} {op : Nat} {f : ShortFields} (h : partsOf i = .short op f) :
    i.len ≤ 12 ∧ (i.encoded = true → 4 ≤ i.len) := by
  unfold Instr.len encode; rw [h]; simp

theorem Encoding.len_event {i : Instr} (h : partsOf i = .event) : i.len ≤ 12 ∧ (i.encoded = true → 4 ≤ i.len) := by
  unfold Instr.len encode Instr.encoded; rw [h]; simp

theorem Encoding.iadd (w : Fields) : Encoding.Statement (.iadd w) := ⟨⟨by decide, fun _ => rfl⟩, Encoding.len_long rfl⟩
theorem Encoding.iaddShort (f : ShortFields) : Encoding.Statement (.iaddShort f) := ⟨⟨by decide, rfl⟩, Encoding.len_short rfl⟩
theorem Encoding.isub (w : Fields) : Encoding.Statement (.isub w) := ⟨⟨by decide, fun _ => rfl⟩, Encoding.len_long rfl⟩
theorem Encoding.isubShort (f : ShortFields) : Encoding.Statement (.isubShort f) := ⟨⟨by decide, rfl⟩, Encoding.len_short rfl⟩
theorem Encoding.iaddc (w : Fields) : Encoding.Statement (.iaddc w) := ⟨⟨by decide, fun _ => rfl⟩, Encoding.len_long rfl⟩
theorem Encoding.isubb (w : Fields) : Encoding.Statement (.isubb w) := ⟨⟨by decide, fun _ => rfl⟩, Encoding.len_long rfl⟩
theorem Encoding.imul (w : Fields) : Encoding.Statement (.imul w) := ⟨⟨by decide, fun _ => rfl⟩, Encoding.len_long rfl⟩
theorem Encoding.imulShort (f : ShortFields) : Encoding.Statement (.imulShort f) := ⟨⟨by decide, rfl⟩, Encoding.len_short rfl⟩
theorem Encoding.imulh (w : Fields) : Encoding.Statement (.imulh w) := ⟨⟨by decide, fun _ => rfl⟩, Encoding.len_long rfl⟩
theorem Encoding.imad (w : Fields) : Encoding.Statement (.imad w) := ⟨⟨by decide, fun _ => rfl⟩, Encoding.len_long rfl⟩
theorem Encoding.idiv (w : Fields) : Encoding.Statement (.idiv w) := ⟨⟨by decide, fun _ => rfl⟩, Encoding.len_long rfl⟩
theorem Encoding.irem (w : Fields) : Encoding.Statement (.irem w) := ⟨⟨by decide, fun _ => rfl⟩, Encoding.len_long rfl⟩
theorem Encoding.imin (w : Fields) : Encoding.Statement (.imin w) := ⟨⟨by decide, fun h => (Encoding.build_fn (h _ rfl)).trans rfl⟩, Encoding.len_long rfl⟩
theorem Encoding.iminShort (f : ShortFields) : Encoding.Statement (.iminShort f) := ⟨⟨by decide, rfl⟩, Encoding.len_short rfl⟩
theorem Encoding.imax (w : Fields) : Encoding.Statement (.imax w) := ⟨⟨by decide, fun h => (Encoding.build_fn (h _ rfl)).trans rfl⟩, Encoding.len_long rfl⟩
theorem Encoding.iabs (w : Fields) : Encoding.Statement (.iabs w) := ⟨⟨by decide, fun h => (Encoding.build_fn (h _ rfl)).trans rfl⟩, Encoding.len_long rfl⟩
theorem Encoding.ineg (w : Fields) : Encoding.Statement (.ineg w) := ⟨⟨by decide, fun h => (Encoding.build_fn (h _ rfl)).trans rfl⟩, Encoding.len_long rfl⟩
theorem Encoding.icmp (w : Fields) : Encoding.Statement (.icmp w) := ⟨⟨by decide, fun _ => rfl⟩, Encoding.len_long rfl⟩
theorem Encoding.sel (w : Fields) : Encoding.Statement (.sel w) := ⟨⟨by decide, fun _ => rfl⟩, Encoding.len_long rfl⟩
theorem Encoding.andOp (w : Fields) : Encoding.Statement (.andOp w) := ⟨⟨by decide, fun h => (Encoding.build_fn (h _ rfl)).trans rfl⟩, Encoding.len_long rfl⟩
theorem Encoding.andShort (f : ShortFields) : Encoding.Statement (.andShort f) := ⟨⟨by decide, rfl⟩, Encoding.len_short rfl⟩
theorem Encoding.orOp (w : Fields) : Encoding.Statement (.orOp w) := ⟨⟨by decide, fun h => (Encoding.build_fn (h _ rfl)).trans rfl⟩, Encoding.len_long rfl⟩
theorem Encoding.xorOp (w : Fields) : Encoding.Statement (.xorOp w) := ⟨⟨by decide, fun h => (Encoding.build_fn (h _ rfl)).trans rfl⟩, Encoding.len_long rfl⟩
theorem Encoding.andn (w : Fields) : Encoding.Statement (.andn w) := ⟨⟨by decide, fun h => (Encoding.build_fn (h _ rfl)).trans rfl⟩, Encoding.len_long rfl⟩
theorem Encoding.orn (w : Fields) : Encoding.Statement (.orn w) := ⟨⟨by decide, fun h => (Encoding.build_fn (h _ rfl)).trans rfl⟩, Encoding.len_long rfl⟩
theorem Encoding.shl (w : Fields) : Encoding.Statement (.shl w) := ⟨⟨by decide, fun h => (Encoding.build_fn (h _ rfl)).trans rfl⟩, Encoding.len_long rfl⟩
theorem Encoding.shlShort (f : ShortFields) : Encoding.Statement (.shlShort f) := ⟨⟨by decide, rfl⟩, Encoding.len_short rfl⟩
theorem Encoding.shr (w : Fields) : Encoding.Statement (.shr w) := ⟨⟨by decide, fun h => (Encoding.build_fn (h _ rfl)).trans rfl⟩, Encoding.len_long rfl⟩
theorem Encoding.sar (w : Fields) : Encoding.Statement (.sar w) := ⟨⟨by decide, fun h => (Encoding.build_fn (h _ rfl)).trans rfl⟩, Encoding.len_long rfl⟩
theorem Encoding.rol (w : Fields) : Encoding.Statement (.rol w) := ⟨⟨by decide, fun h => (Encoding.build_fn (h _ rfl)).trans rfl⟩, Encoding.len_long rfl⟩
theorem Encoding.bfx (w : Fields) : Encoding.Statement (.bfx w) := ⟨⟨by decide, fun h => (Encoding.build_fn (h _ rfl)).trans rfl⟩, Encoding.len_long rfl⟩
theorem Encoding.bfxs (w : Fields) : Encoding.Statement (.bfxs w) := ⟨⟨by decide, fun h => (Encoding.build_fn (h _ rfl)).trans rfl⟩, Encoding.len_long rfl⟩
theorem Encoding.bfi (w : Fields) : Encoding.Statement (.bfi w) := ⟨⟨by decide, fun _ => rfl⟩, Encoding.len_long rfl⟩
theorem Encoding.clz (w : Fields) : Encoding.Statement (.clz w) := ⟨⟨by decide, fun h => (Encoding.build_fn (h _ rfl)).trans rfl⟩, Encoding.len_long rfl⟩
theorem Encoding.ffs (w : Fields) : Encoding.Statement (.ffs w) := ⟨⟨by decide, fun h => (Encoding.build_fn (h _ rfl)).trans rfl⟩, Encoding.len_long rfl⟩
theorem Encoding.popc (w : Fields) : Encoding.Statement (.popc w) := ⟨⟨by decide, fun h => (Encoding.build_fn (h _ rfl)).trans rfl⟩, Encoding.len_long rfl⟩
theorem Encoding.brev (w : Fields) : Encoding.Statement (.brev w) := ⟨⟨by decide, fun h => (Encoding.build_fn (h _ rfl)).trans rfl⟩, Encoding.len_long rfl⟩
theorem Encoding.prmb (w : Fields) : Encoding.Statement (.prmb w) := ⟨⟨by decide, fun _ => rfl⟩, Encoding.len_long rfl⟩
theorem Encoding.lea (w : Fields) : Encoding.Statement (.lea w) := ⟨⟨by decide, fun _ => rfl⟩, Encoding.len_long rfl⟩
theorem Encoding.mov (w : Fields) : Encoding.Statement (.mov w) := ⟨⟨by decide, fun _ => rfl⟩, Encoding.len_long rfl⟩
theorem Encoding.movShort (f : ShortFields) : Encoding.Statement (.movShort f) := ⟨⟨by decide, rfl⟩, Encoding.len_short rfl⟩
theorem Encoding.movl (w : Fields) : Encoding.Statement (.movl w) := ⟨⟨by decide, fun _ => rfl⟩, Encoding.len_long rfl⟩
theorem Encoding.gets (w : Fields) : Encoding.Statement (.gets w) := ⟨⟨by decide, fun _ => rfl⟩, Encoding.len_long rfl⟩
theorem Encoding.pand (w : Fields) : Encoding.Statement (.pand w) := ⟨⟨by decide, fun h => (Encoding.build_fn (h _ rfl)).trans rfl⟩, Encoding.len_long rfl⟩
theorem Encoding.por (w : Fields) : Encoding.Statement (.por w) := ⟨⟨by decide, fun h => (Encoding.build_fn (h _ rfl)).trans rfl⟩, Encoding.len_long rfl⟩
theorem Encoding.pxor (w : Fields) : Encoding.Statement (.pxor w) := ⟨⟨by decide, fun h => (Encoding.build_fn (h _ rfl)).trans rfl⟩, Encoding.len_long rfl⟩
theorem Encoding.pnot (w : Fields) : Encoding.Statement (.pnot w) := ⟨⟨by decide, fun h => (Encoding.build_fn (h _ rfl)).trans rfl⟩, Encoding.len_long rfl⟩
theorem Encoding.pmov (w : Fields) : Encoding.Statement (.pmov w) := ⟨⟨by decide, fun h => (Encoding.build_fn (h _ rfl)).trans rfl⟩, Encoding.len_long rfl⟩
theorem Encoding.nop (w : Fields) : Encoding.Statement (.nop w) := ⟨⟨by decide, fun _ => rfl⟩, Encoding.len_long rfl⟩
theorem Encoding.nopShort (f : ShortFields) : Encoding.Statement (.nopShort f) := ⟨⟨by decide, rfl⟩, Encoding.len_short rfl⟩
theorem Encoding.bra (w : Fields) : Encoding.Statement (.bra w) := ⟨⟨by decide, fun _ => rfl⟩, Encoding.len_long rfl⟩
theorem Encoding.brx (w : Fields) : Encoding.Statement (.brx w) := ⟨⟨by decide, fun _ => rfl⟩, Encoding.len_long rfl⟩
theorem Encoding.call (w : Fields) : Encoding.Statement (.call w) := ⟨⟨by decide, fun _ => rfl⟩, Encoding.len_long rfl⟩
theorem Encoding.callx (w : Fields) : Encoding.Statement (.callx w) := ⟨⟨by decide, fun _ => rfl⟩, Encoding.len_long rfl⟩
theorem Encoding.ret (w : Fields) : Encoding.Statement (.ret w) := ⟨⟨by decide, fun _ => rfl⟩, Encoding.len_long rfl⟩
theorem Encoding.jset (w : Fields) : Encoding.Statement (.jset w) := ⟨⟨by decide, fun _ => rfl⟩, Encoding.len_long rfl⟩
theorem Encoding.jclr (w : Fields) : Encoding.Statement (.jclr w) := ⟨⟨by decide, fun _ => rfl⟩, Encoding.len_long rfl⟩
theorem Encoding.wait (w : Fields) : Encoding.Statement (.wait w) := ⟨⟨by decide, fun _ => rfl⟩, Encoding.len_long rfl⟩
theorem Encoding.brk (w : Fields) : Encoding.Statement (.brk w) := ⟨⟨by decide, fun _ => rfl⟩, Encoding.len_long rfl⟩
theorem Encoding.exit (w : Fields) : Encoding.Statement (.exit w) := ⟨⟨by decide, fun _ => rfl⟩, Encoding.len_long rfl⟩
theorem Encoding.yield (w : Fields) : Encoding.Statement (.yield w) := ⟨⟨by decide, fun _ => rfl⟩, Encoding.len_long rfl⟩
theorem Encoding.vote (w : Fields) : Encoding.Statement (.vote w) := ⟨⟨by decide, fun _ => rfl⟩, Encoding.len_long rfl⟩
theorem Encoding.shfl (w : Fields) : Encoding.Statement (.shfl w) := ⟨⟨by decide, fun _ => rfl⟩, Encoding.len_long rfl⟩
theorem Encoding.redux (w : Fields) : Encoding.Statement (.redux w) := ⟨⟨by decide, fun _ => rfl⟩, Encoding.len_long rfl⟩
theorem Encoding.scanx (w : Fields) : Encoding.Statement (.scanx w) := ⟨⟨by decide, fun _ => rfl⟩, Encoding.len_long rfl⟩
theorem Encoding.matchLanes (w : Fields) : Encoding.Statement (.matchLanes w) := ⟨⟨by decide, fun _ => rfl⟩, Encoding.len_long rfl⟩
theorem Encoding.elect (w : Fields) : Encoding.Statement (.elect w) := ⟨⟨by decide, fun _ => rfl⟩, Encoding.len_long rfl⟩
theorem Encoding.fadd (w : Fields) : Encoding.Statement (.fadd w) := ⟨⟨by decide, fun _ => rfl⟩, Encoding.len_long rfl⟩
theorem Encoding.faddShort (f : ShortFields) : Encoding.Statement (.faddShort f) := ⟨⟨by decide, rfl⟩, Encoding.len_short rfl⟩
theorem Encoding.fsub (w : Fields) : Encoding.Statement (.fsub w) := ⟨⟨by decide, fun _ => rfl⟩, Encoding.len_long rfl⟩
theorem Encoding.fmul (w : Fields) : Encoding.Statement (.fmul w) := ⟨⟨by decide, fun _ => rfl⟩, Encoding.len_long rfl⟩
theorem Encoding.fmulShort (f : ShortFields) : Encoding.Statement (.fmulShort f) := ⟨⟨by decide, rfl⟩, Encoding.len_short rfl⟩
theorem Encoding.ffma (w : Fields) : Encoding.Statement (.ffma w) := ⟨⟨by decide, fun _ => rfl⟩, Encoding.len_long rfl⟩
theorem Encoding.fmin (w : Fields) : Encoding.Statement (.fmin w) := ⟨⟨by decide, fun _ => rfl⟩, Encoding.len_long rfl⟩
theorem Encoding.fminShort (f : ShortFields) : Encoding.Statement (.fminShort f) := ⟨⟨by decide, rfl⟩, Encoding.len_short rfl⟩
theorem Encoding.fmax (w : Fields) : Encoding.Statement (.fmax w) := ⟨⟨by decide, fun _ => rfl⟩, Encoding.len_long rfl⟩
theorem Encoding.fcmp (w : Fields) : Encoding.Statement (.fcmp w) := ⟨⟨by decide, fun _ => rfl⟩, Encoding.len_long rfl⟩
theorem Encoding.fclass (w : Fields) : Encoding.Statement (.fclass w) := ⟨⟨by decide, fun _ => rfl⟩, Encoding.len_long rfl⟩
theorem Encoding.frnd (w : Fields) : Encoding.Statement (.frnd w) := ⟨⟨by decide, fun _ => rfl⟩, Encoding.len_long rfl⟩
theorem Encoding.fexp (w : Fields) : Encoding.Statement (.fexp w) := ⟨⟨by decide, fun _ => rfl⟩, Encoding.len_long rfl⟩
theorem Encoding.flog (w : Fields) : Encoding.Statement (.flog w) := ⟨⟨by decide, fun _ => rfl⟩, Encoding.len_long rfl⟩
theorem Encoding.frcp (w : Fields) : Encoding.Statement (.frcp w) := ⟨⟨by decide, fun _ => rfl⟩, Encoding.len_long rfl⟩
theorem Encoding.frsq (w : Fields) : Encoding.Statement (.frsq w) := ⟨⟨by decide, fun _ => rfl⟩, Encoding.len_long rfl⟩
theorem Encoding.fsqrt (w : Fields) : Encoding.Statement (.fsqrt w) := ⟨⟨by decide, fun _ => rfl⟩, Encoding.len_long rfl⟩
theorem Encoding.fdiv (w : Fields) : Encoding.Statement (.fdiv w) := ⟨⟨by decide, fun _ => rfl⟩, Encoding.len_long rfl⟩
theorem Encoding.fsin (w : Fields) : Encoding.Statement (.fsin w) := ⟨⟨by decide, fun _ => rfl⟩, Encoding.len_long rfl⟩
theorem Encoding.fcos (w : Fields) : Encoding.Statement (.fcos w) := ⟨⟨by decide, fun _ => rfl⟩, Encoding.len_long rfl⟩
theorem Encoding.expins (w : Fields) : Encoding.Statement (.expins w) := ⟨⟨by decide, fun _ => rfl⟩, Encoding.len_long rfl⟩
theorem Encoding.expext (w : Fields) : Encoding.Statement (.expext w) := ⟨⟨by decide, fun _ => rfl⟩, Encoding.len_long rfl⟩
theorem Encoding.cvt (w : Fields) : Encoding.Statement (.cvt w) := ⟨⟨by decide, fun _ => rfl⟩, Encoding.len_long rfl⟩
theorem Encoding.cvq (w : Fields) : Encoding.Statement (.cvq w) := ⟨⟨by decide, fun _ => rfl⟩, Encoding.len_long rfl⟩
theorem Encoding.cvd (w : Fields) : Encoding.Statement (.cvd w) := ⟨⟨by decide, fun _ => rfl⟩, Encoding.len_long rfl⟩
theorem Encoding.hadq (w : Fields) : Encoding.Statement (.hadq w) := ⟨⟨by decide, fun _ => rfl⟩, Encoding.len_long rfl⟩
theorem Encoding.cvrn (w : Fields) : Encoding.Statement (.cvrn w) := ⟨⟨by decide, fun _ => rfl⟩, Encoding.len_long rfl⟩
theorem Encoding.rand (w : Fields) : Encoding.Statement (.rand w) := ⟨⟨by decide, fun _ => rfl⟩, Encoding.len_long rfl⟩
theorem Encoding.rkey (w : Fields) : Encoding.Statement (.rkey w) := ⟨⟨by decide, fun _ => rfl⟩, Encoding.len_long rfl⟩
theorem Encoding.ragw (w : Fields) : Encoding.Statement (.ragw w) := ⟨⟨by decide, fun _ => rfl⟩, Encoding.len_long rfl⟩
theorem Encoding.segred (w : Fields) : Encoding.Statement (.segred w) := ⟨⟨by decide, fun _ => rfl⟩, Encoding.len_long rfl⟩
theorem Encoding.rgrp (w : Fields) : Encoding.Statement (.rgrp w) := ⟨⟨by decide, fun _ => rfl⟩, Encoding.len_long rfl⟩
theorem Encoding.vxwalk (w : Fields) : Encoding.Statement (.vxwalk w) := ⟨⟨by decide, fun _ => rfl⟩, Encoding.len_long rfl⟩
theorem Encoding.front (w : Fields) : Encoding.Statement (.front w) := ⟨⟨by decide, fun _ => rfl⟩, Encoding.len_long rfl⟩
theorem Encoding.qld (w : Fields) : Encoding.Statement (.qld w) := ⟨⟨by decide, fun _ => rfl⟩, Encoding.len_long rfl⟩
theorem Encoding.qldd (w : Fields) : Encoding.Statement (.qldd w) := ⟨⟨by decide, fun _ => rfl⟩, Encoding.len_long rfl⟩
theorem Encoding.qmov (w : Fields) : Encoding.Statement (.qmov w) := ⟨⟨by decide, fun _ => rfl⟩, Encoding.len_long rfl⟩
theorem Encoding.qadd (w : Fields) : Encoding.Statement (.qadd w) := ⟨⟨by decide, fun _ => rfl⟩, Encoding.len_long rfl⟩
theorem Encoding.qsub (w : Fields) : Encoding.Statement (.qsub w) := ⟨⟨by decide, fun _ => rfl⟩, Encoding.len_long rfl⟩
theorem Encoding.qmul (w : Fields) : Encoding.Statement (.qmul w) := ⟨⟨by decide, fun _ => rfl⟩, Encoding.len_long rfl⟩
theorem Encoding.qfma (w : Fields) : Encoding.Statement (.qfma w) := ⟨⟨by decide, fun _ => rfl⟩, Encoding.len_long rfl⟩
theorem Encoding.qdiv (w : Fields) : Encoding.Statement (.qdiv w) := ⟨⟨by decide, fun _ => rfl⟩, Encoding.len_long rfl⟩
theorem Encoding.qsqrt (w : Fields) : Encoding.Statement (.qsqrt w) := ⟨⟨by decide, fun _ => rfl⟩, Encoding.len_long rfl⟩
theorem Encoding.qneg (w : Fields) : Encoding.Statement (.qneg w) := ⟨⟨by decide, fun _ => rfl⟩, Encoding.len_long rfl⟩
theorem Encoding.qabs (w : Fields) : Encoding.Statement (.qabs w) := ⟨⟨by decide, fun _ => rfl⟩, Encoding.len_long rfl⟩
theorem Encoding.qcmp (w : Fields) : Encoding.Statement (.qcmp w) := ⟨⟨by decide, fun _ => rfl⟩, Encoding.len_long rfl⟩
theorem Encoding.qmid (w : Fields) : Encoding.Statement (.qmid w) := ⟨⟨by decide, fun _ => rfl⟩, Encoding.len_long rfl⟩
theorem Encoding.qbnd (w : Fields) : Encoding.Statement (.qbnd w) := ⟨⟨by decide, fun _ => rfl⟩, Encoding.len_long rfl⟩
theorem Encoding.qref (w : Fields) : Encoding.Statement (.qref w) := ⟨⟨by decide, fun _ => rfl⟩, Encoding.len_long rfl⟩
theorem Encoding.qcut (w : Fields) : Encoding.Statement (.qcut w) := ⟨⟨by decide, fun _ => rfl⟩, Encoding.len_long rfl⟩
theorem Encoding.qcutx (w : Fields) : Encoding.Statement (.qcutx w) := ⟨⟨by decide, fun _ => rfl⟩, Encoding.len_long rfl⟩
theorem Encoding.qfree (w : Fields) : Encoding.Statement (.qfree w) := ⟨⟨by decide, fun _ => rfl⟩, Encoding.len_long rfl⟩
theorem Encoding.qstat (w : Fields) : Encoding.Statement (.qstat w) := ⟨⟨by decide, fun _ => rfl⟩, Encoding.len_long rfl⟩
theorem Encoding.reelSweep (uid : Nat) : Encoding.Statement (.reelSweep uid) := ⟨rfl, Encoding.len_event rfl⟩
theorem Encoding.retakeRequestDone (id : Nat) : Encoding.Statement (.retakeRequestDone id) := ⟨rfl, Encoding.len_event rfl⟩
theorem Encoding.ld (w : Fields) : Encoding.Statement (.ld w) := ⟨⟨by decide, fun _ => rfl⟩, Encoding.len_long rfl⟩
theorem Encoding.st (w : Fields) : Encoding.Statement (.st w) := ⟨⟨by decide, fun _ => rfl⟩, Encoding.len_long rfl⟩
theorem Encoding.lda (w : Fields) : Encoding.Statement (.lda w) := ⟨⟨by decide, fun _ => rfl⟩, Encoding.len_long rfl⟩
theorem Encoding.stl (w : Fields) : Encoding.Statement (.stl w) := ⟨⟨by decide, fun _ => rfl⟩, Encoding.len_long rfl⟩
theorem Encoding.lds (w : Fields) : Encoding.Statement (.lds w) := ⟨⟨by decide, fun _ => rfl⟩, Encoding.len_long rfl⟩
theorem Encoding.sts (w : Fields) : Encoding.Statement (.sts w) := ⟨⟨by decide, fun _ => rfl⟩, Encoding.len_long rfl⟩
theorem Encoding.ldv (w : Fields) : Encoding.Statement (.ldv w) := ⟨⟨by decide, fun _ => rfl⟩, Encoding.len_long rfl⟩
theorem Encoding.stv (w : Fields) : Encoding.Statement (.stv w) := ⟨⟨by decide, fun _ => rfl⟩, Encoding.len_long rfl⟩
theorem Encoding.atom (w : Fields) : Encoding.Statement (.atom w) := ⟨⟨by decide, fun _ => rfl⟩, Encoding.len_long rfl⟩
theorem Encoding.red (w : Fields) : Encoding.Statement (.red w) := ⟨⟨by decide, fun _ => rfl⟩, Encoding.len_long rfl⟩
theorem Encoding.fence (w : Fields) : Encoding.Statement (.fence w) := ⟨⟨by decide, fun _ => rfl⟩, Encoding.len_long rfl⟩
theorem Encoding.wback (w : Fields) : Encoding.Statement (.wback w) := ⟨⟨by decide, fun _ => rfl⟩, Encoding.len_long rfl⟩
theorem Encoding.icinv (w : Fields) : Encoding.Statement (.icinv w) := ⟨⟨by decide, fun _ => rfl⟩, Encoding.len_long rfl⟩
theorem Encoding.fetchb (w : Fields) : Encoding.Statement (.fetchb w) := ⟨⟨by decide, fun _ => rfl⟩, Encoding.len_long rfl⟩
theorem Encoding.pref (w : Fields) : Encoding.Statement (.pref w) := ⟨⟨by decide, fun _ => rfl⟩, Encoding.len_long rfl⟩
theorem Encoding.memoryResponse (id : Nat) (elem : Nat) (ans : Answer) : Encoding.Statement (.memoryResponse id elem ans) := ⟨rfl, Encoding.len_event rfl⟩
theorem Encoding.publish (core : Nat) (epoch : Nat) : Encoding.Statement (.publish core epoch) := ⟨rfl, Encoding.len_event rfl⟩
theorem Encoding.snoopRead (die : Nat) (line : Nat) (who : Nat) : Encoding.Statement (.snoopRead die line who) := ⟨rfl, Encoding.len_event rfl⟩
theorem Encoding.snoopInvalidate (die : Nat) (line : Nat) (who : Nat) : Encoding.Statement (.snoopInvalidate die line who) := ⟨rfl, Encoding.len_event rfl⟩
theorem Encoding.snoopOwn (die : Nat) (line : Nat) (who : Nat) : Encoding.Statement (.snoopOwn die line who) := ⟨rfl, Encoding.len_event rfl⟩
theorem Encoding.hostMemoryAccess (pa : Nat) (n : Nat) (op : HostOp) (v : Nat) (firmware : Bool) : Encoding.Statement (.hostMemoryAccess pa n op v firmware) := ⟨rfl, Encoding.len_event rfl⟩
theorem Encoding.homeRequest (agent : Nat) (seq : Nat) (op : HomeOp) : Encoding.Statement (.homeRequest agent seq op) := ⟨rfl, Encoding.len_event rfl⟩
theorem Encoding.exfetch (w : Fields) : Encoding.Statement (.exfetch w) := ⟨⟨by decide, fun _ => rfl⟩, Encoding.len_long rfl⟩
theorem Encoding.extest (w : Fields) : Encoding.Statement (.extest w) := ⟨⟨by decide, fun _ => rfl⟩, Encoding.len_long rfl⟩
theorem Encoding.ecnt (w : Fields) : Encoding.Statement (.ecnt w) := ⟨⟨by decide, fun _ => rfl⟩, Encoding.len_long rfl⟩
theorem Encoding.dailyFlush (uid : Nat) (crew : Nat) : Encoding.Statement (.dailyFlush uid crew) := ⟨rfl, Encoding.len_event rfl⟩
theorem Encoding.cpy (w : Fields) : Encoding.Statement (.cpy w) := ⟨⟨by decide, fun _ => rfl⟩, Encoding.len_long rfl⟩
theorem Encoding.cpym (w : Fields) : Encoding.Statement (.cpym w) := ⟨⟨by decide, fun _ => rfl⟩, Encoding.len_long rfl⟩
theorem Encoding.cpyd (w : Fields) : Encoding.Statement (.cpyd w) := ⟨⟨by decide, fun _ => rfl⟩, Encoding.len_long rfl⟩
theorem Encoding.cpyr (w : Fields) : Encoding.Statement (.cpyr w) := ⟨⟨by decide, fun _ => rfl⟩, Encoding.len_long rfl⟩
theorem Encoding.comb (w : Fields) : Encoding.Statement (.comb w) := ⟨⟨by decide, fun _ => rfl⟩, Encoding.len_long rfl⟩
theorem Encoding.seal (w : Fields) : Encoding.Statement (.seal w) := ⟨⟨by decide, fun _ => rfl⟩, Encoding.len_long rfl⟩
theorem Encoding.bwait (w : Fields) : Encoding.Statement (.bwait w) := ⟨⟨by decide, fun _ => rfl⟩, Encoding.len_long rfl⟩
theorem Encoding.bpoll (w : Fields) : Encoding.Statement (.bpoll w) := ⟨⟨by decide, fun _ => rfl⟩, Encoding.len_long rfl⟩
theorem Encoding.flagr (w : Fields) : Encoding.Statement (.flagr w) := ⟨⟨by decide, fun _ => rfl⟩, Encoding.len_long rfl⟩
theorem Encoding.flagRaise (id : Nat) : Encoding.Statement (.flagRaise id) := ⟨rfl, Encoding.len_event rfl⟩
theorem Encoding.copyStart (id : Nat) : Encoding.Statement (.copyStart id) := ⟨rfl, Encoding.len_event rfl⟩
theorem Encoding.copyFinish (id : Nat) : Encoding.Statement (.copyFinish id) := ⟨rfl, Encoding.len_event rfl⟩
theorem Encoding.mprec (w : Fields) : Encoding.Statement (.mprec w) := ⟨⟨by decide, fun _ => rfl⟩, Encoding.len_long rfl⟩
theorem Encoding.mloadb (w : Fields) : Encoding.Statement (.mloadb w) := ⟨⟨by decide, fun _ => rfl⟩, Encoding.len_long rfl⟩
theorem Encoding.mrun (w : Fields) : Encoding.Statement (.mrun w) := ⟨⟨by decide, fun _ => rfl⟩, Encoding.len_long rfl⟩
theorem Encoding.mzero (w : Fields) : Encoding.Statement (.mzero w) := ⟨⟨by decide, fun h => (Encoding.build_fn (h _ rfl)).trans rfl⟩, Encoding.len_long rfl⟩
theorem Encoding.mzeroFree (w : Fields) : Encoding.Statement (.mzeroFree w) := ⟨⟨by decide, fun h => (Encoding.build_fn (h _ rfl)).trans rfl⟩, Encoding.len_long rfl⟩
theorem Encoding.mscale (w : Fields) : Encoding.Statement (.mscale w) := ⟨⟨by decide, fun _ => rfl⟩, Encoding.len_long rfl⟩
theorem Encoding.mstat (w : Fields) : Encoding.Statement (.mstat w) := ⟨⟨by decide, fun _ => rfl⟩, Encoding.len_long rfl⟩
theorem Encoding.msave (w : Fields) : Encoding.Statement (.msave w) := ⟨⟨by decide, fun h => (Encoding.build_fn (h _ rfl)).trans rfl⟩, Encoding.len_long rfl⟩
theorem Encoding.msaveStop (w : Fields) : Encoding.Statement (.msaveStop w) := ⟨⟨by decide, fun h => (Encoding.build_fn (h _ rfl)).trans rfl⟩, Encoding.len_long rfl⟩
theorem Encoding.mrest (w : Fields) : Encoding.Statement (.mrest w) := ⟨⟨by decide, fun _ => rfl⟩, Encoding.len_long rfl⟩
theorem Encoding.tsl (w : Fields) : Encoding.Statement (.tsl w) := ⟨⟨by decide, fun _ => rfl⟩, Encoding.len_long rfl⟩
theorem Encoding.tss (w : Fields) : Encoding.Statement (.tss w) := ⟨⟨by decide, fun _ => rfl⟩, Encoding.len_long rfl⟩
theorem Encoding.twait (w : Fields) : Encoding.Statement (.twait w) := ⟨⟨by decide, fun h => (Encoding.build_fn (h _ rfl)).trans rfl⟩, Encoding.len_long rfl⟩
theorem Encoding.twaitT (w : Fields) : Encoding.Statement (.twaitT w) := ⟨⟨by decide, fun h => (Encoding.build_fn (h _ rfl)).trans rfl⟩, Encoding.len_long rfl⟩
theorem Encoding.mrecon (w : Fields) : Encoding.Statement (.mrecon w) := ⟨⟨by decide, fun _ => rfl⟩, Encoding.len_long rfl⟩
theorem Encoding.tileAllocate (id : Nat) : Encoding.Statement (.tileAllocate id) := ⟨rfl, Encoding.len_event rfl⟩
theorem Encoding.arrayPick (core : Nat) : Encoding.Statement (.arrayPick core) := ⟨rfl, Encoding.len_event rfl⟩
theorem Encoding.imageLoaded (core : Nat) : Encoding.Statement (.imageLoaded core) := ⟨rfl, Encoding.len_event rfl⟩
theorem Encoding.kStepEnd (core : Nat) : Encoding.Statement (.kStepEnd core) := ⟨rfl, Encoding.len_event rfl⟩
theorem Encoding.tileCommandComplete (id : Nat) : Encoding.Statement (.tileCommandComplete id) := ⟨rfl, Encoding.len_event rfl⟩
theorem Encoding.cimParityError (core : Nat) : Encoding.Statement (.cimParityError core) := ⟨rfl, Encoding.len_event rfl⟩
theorem Encoding.tileStoreError (uid : Nat) (tile : Nat) (elem : Nat) (correctable : Bool) : Encoding.Statement (.tileStoreError uid tile elem correctable) := ⟨rfl, Encoding.len_event rfl⟩
theorem Encoding.rput (w : Fields) : Encoding.Statement (.rput w) := ⟨⟨by decide, fun h => (Encoding.build_fn (h _ rfl)).trans rfl⟩, Encoding.len_long rfl⟩
theorem Encoding.rputInit (w : Fields) : Encoding.Statement (.rputInit w) := ⟨⟨by decide, fun h => (Encoding.build_fn (h _ rfl)).trans rfl⟩, Encoding.len_long rfl⟩
theorem Encoding.rget (w : Fields) : Encoding.Statement (.rget w) := ⟨⟨by decide, fun _ => rfl⟩, Encoding.len_long rfl⟩
theorem Encoding.doneRegion (w : Fields) : Encoding.Statement (.doneRegion w) := ⟨⟨by decide, fun _ => rfl⟩, Encoding.len_long rfl⟩
theorem Encoding.idemb (w : Fields) : Encoding.Statement (.idemb w) := ⟨⟨by decide, fun _ => rfl⟩, Encoding.len_long rfl⟩
theorem Encoding.ideme (w : Fields) : Encoding.Statement (.ideme w) := ⟨⟨by decide, fun _ => rfl⟩, Encoding.len_long rfl⟩
theorem Encoding.carve (w : Fields) : Encoding.Statement (.carve w) := ⟨⟨by decide, fun _ => rfl⟩, Encoding.len_long rfl⟩
theorem Encoding.carveApply (core : Nat) : Encoding.Statement (.carveApply core) := ⟨rfl, Encoding.len_event rfl⟩
theorem Encoding.blockAdmit (die : Nat) : Encoding.Statement (.blockAdmit die) := ⟨rfl, Encoding.len_event rfl⟩
theorem Encoding.blockRetire (uid : Nat) : Encoding.Statement (.blockRetire uid) := ⟨rfl, Encoding.len_event rfl⟩
theorem Encoding.slateRelease (tag : Nat) : Encoding.Statement (.slateRelease tag) := ⟨rfl, Encoding.len_event rfl⟩
theorem Encoding.barMeet (w : Fields) : Encoding.Statement (.barMeet w) := ⟨⟨by decide, fun h => (Encoding.build_fn (h _ rfl)).trans rfl⟩, Encoding.len_long rfl⟩
theorem Encoding.barPost (w : Fields) : Encoding.Statement (.barPost w) := ⟨⟨by decide, fun h => (Encoding.build_fn (h _ rfl)).trans rfl⟩, Encoding.len_long rfl⟩
theorem Encoding.barAwait (w : Fields) : Encoding.Statement (.barAwait w) := ⟨⟨by decide, fun h => (Encoding.build_fn (h _ rfl)).trans rfl⟩, Encoding.len_long rfl⟩
theorem Encoding.barLast (w : Fields) : Encoding.Statement (.barLast w) := ⟨⟨by decide, fun h => (Encoding.build_fn (h _ rfl)).trans rfl⟩, Encoding.len_long rfl⟩
theorem Encoding.cbarMeet (w : Fields) : Encoding.Statement (.cbarMeet w) := ⟨⟨by decide, fun h => (Encoding.build_fn (h _ rfl)).trans rfl⟩, Encoding.len_long rfl⟩
theorem Encoding.cbarPost (w : Fields) : Encoding.Statement (.cbarPost w) := ⟨⟨by decide, fun h => (Encoding.build_fn (h _ rfl)).trans rfl⟩, Encoding.len_long rfl⟩
theorem Encoding.cbarAwait (w : Fields) : Encoding.Statement (.cbarAwait w) := ⟨⟨by decide, fun h => (Encoding.build_fn (h _ rfl)).trans rfl⟩, Encoding.len_long rfl⟩
theorem Encoding.cbarLast (w : Fields) : Encoding.Statement (.cbarLast w) := ⟨⟨by decide, fun h => (Encoding.build_fn (h _ rfl)).trans rfl⟩, Encoding.len_long rfl⟩
theorem Encoding.castArrival (uid : Nat) (cast : Nat) : Encoding.Statement (.castArrival uid cast) := ⟨rfl, Encoding.len_event rfl⟩
theorem Encoding.pbarMeet (w : Fields) : Encoding.Statement (.pbarMeet w) := ⟨⟨by decide, fun h => (Encoding.build_fn (h _ rfl)).trans rfl⟩, Encoding.len_long rfl⟩
theorem Encoding.pbarPost (w : Fields) : Encoding.Statement (.pbarPost w) := ⟨⟨by decide, fun h => (Encoding.build_fn (h _ rfl)).trans rfl⟩, Encoding.len_long rfl⟩
theorem Encoding.pbarAwait (w : Fields) : Encoding.Statement (.pbarAwait w) := ⟨⟨by decide, fun h => (Encoding.build_fn (h _ rfl)).trans rfl⟩, Encoding.len_long rfl⟩
theorem Encoding.pbarCfg (w : Fields) : Encoding.Statement (.pbarCfg w) := ⟨⟨by decide, fun h => (Encoding.build_fn (h _ rfl)).trans rfl⟩, Encoding.len_long rfl⟩
theorem Encoding.clapperRootArrival (uid : Nat) (id : Nat) : Encoding.Statement (.clapperRootArrival uid id) := ⟨rfl, Encoding.len_event rfl⟩
theorem Encoding.clapperCountdownElapse (ctx : Nat) (id : Nat) : Encoding.Statement (.clapperCountdownElapse ctx id) := ⟨rfl, Encoding.len_event rfl⟩
theorem Encoding.enq (w : Fields) : Encoding.Statement (.enq w) := ⟨⟨by decide, fun _ => rfl⟩, Encoding.len_long rfl⟩
theorem Encoding.waitev (w : Fields) : Encoding.Statement (.waitev w) := ⟨⟨by decide, fun _ => rfl⟩, Encoding.len_long rfl⟩
theorem Encoding.sigevAdd (w : Fields) : Encoding.Statement (.sigevAdd w) := ⟨⟨by decide, fun h => (Encoding.build_fn (h _ rfl)).trans rfl⟩, Encoding.len_long rfl⟩
theorem Encoding.sigevSet (w : Fields) : Encoding.Statement (.sigevSet w) := ⟨⟨by decide, fun h => (Encoding.build_fn (h _ rfl)).trans rfl⟩, Encoding.len_long rfl⟩
theorem Encoding.tailReread (n : Nat) : Encoding.Statement (.tailReread n) := ⟨rfl, Encoding.len_event rfl⟩
theorem Encoding.waitWordChange (n : Nat) : Encoding.Statement (.waitWordChange n) := ⟨rfl, Encoding.len_event rfl⟩
theorem Encoding.arbiterPick  : Encoding.Statement .arbiterPick := ⟨rfl, Encoding.len_event rfl⟩
theorem Encoding.budgetPeriod  : Encoding.Statement .budgetPeriod := ⟨rfl, Encoding.len_event rfl⟩
theorem Encoding.launchSplit (tag : Nat) : Encoding.Statement (.launchSplit tag) := ⟨rfl, Encoding.len_event rfl⟩
theorem Encoding.takeOpened (tag : Nat) : Encoding.Statement (.takeOpened tag) := ⟨rfl, Encoding.len_event rfl⟩
theorem Encoding.mailboxPost (die : Nat) : Encoding.Statement (.mailboxPost die) := ⟨rfl, Encoding.len_event rfl⟩
theorem Encoding.launchComplete (tag : Nat) : Encoding.Statement (.launchComplete tag) := ⟨rfl, Encoding.len_event rfl⟩
theorem Encoding.launchDeadline (tag : Nat) : Encoding.Statement (.launchDeadline tag) := ⟨rfl, Encoding.len_event rfl⟩
theorem Encoding.mboxr (w : Fields) : Encoding.Statement (.mboxr w) := ⟨⟨by decide, fun _ => rfl⟩, Encoding.len_long rfl⟩
theorem Encoding.spawn (w : Fields) : Encoding.Statement (.spawn w) := ⟨⟨by decide, fun _ => rfl⟩, Encoding.len_long rfl⟩
theorem Encoding.fwd (w : Fields) : Encoding.Statement (.fwd w) := ⟨⟨by decide, fun _ => rfl⟩, Encoding.len_long rfl⟩
theorem Encoding.directorWatchdog (die : Nat) : Encoding.Statement (.directorWatchdog die) := ⟨rfl, Encoding.len_event rfl⟩
theorem Encoding.trap (w : Fields) : Encoding.Statement (.trap w) := ⟨⟨by decide, fun h => (Encoding.build_fn (h _ rfl)).trans rfl⟩, Encoding.len_long rfl⟩
theorem Encoding.trapAbort (w : Fields) : Encoding.Statement (.trapAbort w) := ⟨⟨by decide, fun h => (Encoding.build_fn (h _ rfl)).trans rfl⟩, Encoding.len_long rfl⟩
theorem Encoding.rett (w : Fields) : Encoding.Statement (.rett w) := ⟨⟨by decide, fun _ => rfl⟩, Encoding.len_long rfl⟩
theorem Encoding.hcall (w : Fields) : Encoding.Statement (.hcall w) := ⟨⟨by decide, fun _ => rfl⟩, Encoding.len_long rfl⟩
theorem Encoding.hostCallPost (ctx : Nat) : Encoding.Statement (.hostCallPost ctx) := ⟨rfl, Encoding.len_event rfl⟩
theorem Encoding.hostCallReply (ctx : Nat) (num : Nat) : Encoding.Statement (.hostCallReply ctx num) := ⟨rfl, Encoding.len_event rfl⟩
theorem Encoding.tmrset (w : Fields) : Encoding.Statement (.tmrset w) := ⟨⟨by decide, fun _ => rfl⟩, Encoding.len_long rfl⟩
theorem Encoding.sysrd (w : Fields) : Encoding.Statement (.sysrd w) := ⟨⟨by decide, fun _ => rfl⟩, Encoding.len_long rfl⟩
theorem Encoding.syswr (w : Fields) : Encoding.Statement (.syswr w) := ⟨⟨by decide, fun _ => rfl⟩, Encoding.len_long rfl⟩
theorem Encoding.bkpt (w : Fields) : Encoding.Statement (.bkpt w) := ⟨⟨by decide, fun _ => rfl⟩, Encoding.len_long rfl⟩
theorem Encoding.crewTimerFire (uid : Nat) (crew : Nat) : Encoding.Statement (.crewTimerFire uid crew) := ⟨rfl, Encoding.len_event rfl⟩
theorem Encoding.regroup  : Encoding.Statement .regroup := ⟨rfl, Encoding.len_event rfl⟩
theorem Encoding.alloc (ctx : Nat) : Encoding.Statement (.alloc ctx) := ⟨rfl, Encoding.len_event rfl⟩
theorem Encoding.run (ctx : Nat) : Encoding.Statement (.run ctx) := ⟨rfl, Encoding.len_event rfl⟩
theorem Encoding.preempt (ctx : Nat) : Encoding.Statement (.preempt ctx) := ⟨rfl, Encoding.len_event rfl⟩
theorem Encoding.reset (ctx : Nat) : Encoding.Statement (.reset ctx) := ⟨rfl, Encoding.len_event rfl⟩
theorem Encoding.drained (ctx : Nat) : Encoding.Statement (.drained ctx) := ⟨rfl, Encoding.len_event rfl⟩
theorem Encoding.drainDeadline (ctx : Nat) : Encoding.Statement (.drainDeadline ctx) := ⟨rfl, Encoding.len_event rfl⟩
theorem Encoding.saveStepComplete (ctx : Nat) : Encoding.Statement (.saveStepComplete ctx) := ⟨rfl, Encoding.len_event rfl⟩
theorem Encoding.resetDeadline (ctx : Nat) : Encoding.Statement (.resetDeadline ctx) := ⟨rfl, Encoding.len_event rfl⟩
theorem Encoding.resetComplete (ctx : Nat) : Encoding.Statement (.resetComplete ctx) := ⟨rfl, Encoding.len_event rfl⟩
theorem Encoding.queueBind (n : Nat) (cfg : Nat) : Encoding.Statement (.queueBind n cfg) := ⟨rfl, Encoding.len_event rfl⟩
theorem Encoding.queueUnbind (n : Nat) : Encoding.Statement (.queueUnbind n) := ⟨rfl, Encoding.len_event rfl⟩
theorem Encoding.qtail (n : Nat) (v : Nat) : Encoding.Statement (.qtail n v) := ⟨rfl, Encoding.len_event rfl⟩
theorem Encoding.chdoor (ctx : Nat) (num : Nat) : Encoding.Statement (.chdoor ctx num) := ⟨rfl, Encoding.len_event rfl⟩
theorem Encoding.cpfdoor (ctx : Nat) (num : Nat) : Encoding.Statement (.cpfdoor ctx num) := ⟨rfl, Encoding.len_event rfl⟩
theorem Encoding.pageFaultPost (who : Requester) : Encoding.Statement (.pageFaultPost who) := ⟨rfl, Encoding.len_event rfl⟩
theorem Encoding.pageFaultReply (ctx : Nat) (num : Nat) : Encoding.Statement (.pageFaultReply ctx num) := ⟨rfl, Encoding.len_event rfl⟩
theorem Encoding.tlbWalkComplete (id : Nat) : Encoding.Statement (.tlbWalkComplete id) := ⟨rfl, Encoding.len_event rfl⟩
theorem Encoding.ctlbinv (ctx : Nat) (vpage : Nat) (size : Nat) (all : Bool) : Encoding.Statement (.ctlbinv ctx vpage size all) := ⟨rfl, Encoding.len_event rfl⟩
theorem Encoding.tlbInvalidateComplete  : Encoding.Statement .tlbInvalidateComplete := ⟨rfl, Encoding.len_event rfl⟩
theorem Encoding.fetch (ctx : Nat) (exid : Nat) : Encoding.Statement (.fetch ctx exid) := ⟨rfl, Encoding.len_event rfl⟩
theorem Encoding.evict (ctx : Nat) (exid : Nat) : Encoding.Statement (.evict ctx exid) := ⟨rfl, Encoding.len_event rfl⟩
theorem Encoding.expertFetchStart  : Encoding.Statement .expertFetchStart := ⟨rfl, Encoding.len_event rfl⟩
theorem Encoding.expertLand (ctx : Nat) (exid : Nat) (ok : Bool) : Encoding.Statement (.expertLand ctx exid ok) := ⟨rfl, Encoding.len_event rfl⟩
theorem Encoding.dailyWrite (slot : Nat) (v : Nat) : Encoding.Statement (.dailyWrite slot v) := ⟨rfl, Encoding.len_event rfl⟩
theorem Encoding.full  : Encoding.Statement .full := ⟨rfl, Encoding.len_event rfl⟩
theorem Encoding.dirty  : Encoding.Statement .dirty := ⟨rfl, Encoding.len_event rfl⟩
theorem Encoding.abort  : Encoding.Statement .abort := ⟨rfl, Encoding.len_event rfl⟩
theorem Encoding.checkpointCutDone  : Encoding.Statement .checkpointCutDone := ⟨rfl, Encoding.len_event rfl⟩
theorem Encoding.checkpointStreamDone (ok : Bool) : Encoding.Statement (.checkpointStreamDone ok) := ⟨rfl, Encoding.len_event rfl⟩
theorem Encoding.flitReceive (port : Nat) (v : Nat) : Encoding.Statement (.flitReceive port v) := ⟨rfl, Encoding.len_event rfl⟩
theorem Encoding.retransmitTimeout (port : Nat) (seq : Nat) : Encoding.Statement (.retransmitTimeout port seq) := ⟨rfl, Encoding.len_event rfl⟩
theorem Encoding.requestTimeout (id : Nat) (elem : Nat) : Encoding.Statement (.requestTimeout id elem) := ⟨rfl, Encoding.len_event rfl⟩
theorem Encoding.portEnable (port : Nat) (v : Nat) : Encoding.Statement (.portEnable port v) := ⟨rfl, Encoding.len_event rfl⟩
theorem Encoding.portDisable (port : Nat) (v : Nat) : Encoding.Statement (.portDisable port v) := ⟨rfl, Encoding.len_event rfl⟩
theorem Encoding.portTrained (port : Nat) (lanes : Nat) (peer : Nat) (pinc : Nat) : Encoding.Statement (.portTrained port lanes peer pinc) := ⟨rfl, Encoding.len_event rfl⟩
theorem Encoding.trainingTimeout (port : Nat) : Encoding.Statement (.trainingTimeout port) := ⟨rfl, Encoding.len_event rfl⟩
theorem Encoding.portIdle (port : Nat) : Encoding.Statement (.portIdle port) := ⟨rfl, Encoding.len_event rfl⟩
theorem Encoding.portErrors (port : Nat) (lost : Nat) : Encoding.Statement (.portErrors port lost) := ⟨rfl, Encoding.len_event rfl⟩
theorem Encoding.portWake (port : Nat) : Encoding.Statement (.portWake port) := ⟨rfl, Encoding.len_event rfl⟩
theorem Encoding.wakeReady (port : Nat) : Encoding.Statement (.wakeReady port) := ⟨rfl, Encoding.len_event rfl⟩
theorem Encoding.wakeTimeout (port : Nat) : Encoding.Statement (.wakeTimeout port) := ⟨rfl, Encoding.len_event rfl⟩
theorem Encoding.spokeSuspect (d : Nat) : Encoding.Statement (.spokeSuspect d) := ⟨rfl, Encoding.len_event rfl⟩
theorem Encoding.heartbeatSend  : Encoding.Statement .heartbeatSend := ⟨rfl, Encoding.len_event rfl⟩
theorem Encoding.heartbeat (agent : Nat) : Encoding.Statement (.heartbeat agent) := ⟨rfl, Encoding.len_event rfl⟩
theorem Encoding.declare (agent : Nat) : Encoding.Statement (.declare agent) := ⟨rfl, Encoding.len_event rfl⟩
theorem Encoding.fenceCommand (agent : Nat) : Encoding.Statement (.fenceCommand agent) := ⟨rfl, Encoding.len_event rfl⟩
theorem Encoding.agentFenced (agent : Nat) : Encoding.Statement (.agentFenced agent) := ⟨rfl, Encoding.len_event rfl⟩
theorem Encoding.strikeComplete (agent : Nat) : Encoding.Statement (.strikeComplete agent) := ⟨rfl, Encoding.len_event rfl⟩
theorem Encoding.unfenceVote (agent : Nat) (peer : Nat) (inc : Nat) (signature : Nat) : Encoding.Statement (.unfenceVote agent peer inc signature) := ⟨rfl, Encoding.len_event rfl⟩
theorem Encoding.unfence (v : Nat) (firmware : Bool) : Encoding.Statement (.unfence v firmware) := ⟨rfl, Encoding.len_event rfl⟩
theorem Encoding.hubid (v : Nat) : Encoding.Statement (.hubid v) := ⟨rfl, Encoding.len_event rfl⟩
theorem Encoding.boot (img : FwImage) : Encoding.Statement (.boot img) := ⟨rfl, Encoding.len_event rfl⟩
theorem Encoding.recoveryRetry (img : FwImage) : Encoding.Statement (.recoveryRetry img) := ⟨rfl, Encoding.len_event rfl⟩
theorem Encoding.attreq (nonce : Nat) : Encoding.Statement (.attreq nonce) := ⟨rfl, Encoding.len_event rfl⟩
theorem Encoding.attestationDone  : Encoding.Statement .attestationDone := ⟨rfl, Encoding.len_event rfl⟩
theorem Encoding.pwrlim (v : Nat) : Encoding.Statement (.pwrlim v) := ⟨rfl, Encoding.len_event rfl⟩
theorem Encoding.powerSample (draw : Nat) : Encoding.Statement (.powerSample draw) := ⟨rfl, Encoding.len_event rfl⟩
theorem Encoding.scrub (place : ScrubAt) (found : ScrubRes) : Encoding.Statement (.scrub place found) := ⟨rfl, Encoding.len_event rfl⟩
theorem Encoding.registerWrite (offset : Nat) (value : Nat) (firmware : Bool) : Encoding.Statement (.registerWrite offset value firmware) := ⟨rfl, Encoding.len_event rfl⟩
theorem Encoding.debugChallenge (challenge : Nat) (signature : List Byte) : Encoding.Statement (.debugChallenge challenge signature) := ⟨rfl, Encoding.len_event rfl⟩
theorem Encoding.managementAttestationRequest (nonce : Nat) : Encoding.Statement (.managementAttestationRequest nonce) := ⟨rfl, Encoding.len_event rfl⟩
theorem Encoding.minimumVersionRaise (v : Nat) : Encoding.Statement (.minimumVersionRaise v) := ⟨rfl, Encoding.len_event rfl⟩

end Sys2Proof.Laws
end

