-- ==== Sys2Proof/Laws/State.lean ====
section
/-! SUPPORT. Per update of the state, of a block, of a crew and of a thread: one lemma per field that says what the field holds
after it. -/

namespace Sys2Proof.Machine
open Sys2Proof

section updBlock
variable (s : State) (u : Nat) (f : Block → Block)
@[simp] theorem updBlock_mem : (s.updBlock u f).mem = s.mem := rfl
@[simp] theorem updBlock_reqs : (s.updBlock u f).reqs = s.reqs := rfl
@[simp] theorem updBlock_seqs : (s.updBlock u f).seqs = s.seqs := rfl
@[simp] theorem updBlock_retakes : (s.updBlock u f).retakes = s.retakes := rfl
@[simp] theorem updBlock_copies : (s.updBlock u f).copies = s.copies := rfl
@[simp] theorem updBlock_stage : (s.updBlock u f).stage = s.stage := rfl
@[simp] theorem updBlock_slates : (s.updBlock u f).slates = s.slates := rfl
@[simp] theorem updBlock_experts : (s.updBlock u f).experts = s.experts := rfl
@[simp] theorem updBlock_takes : (s.updBlock u f).takes = s.takes := rfl
@[simp] theorem updBlock_invals : (s.updBlock u f).invals = s.invals := rfl
@[simp] theorem updBlock_faults : (s.updBlock u f).faults = s.faults := rfl
@[simp] theorem updBlock_ckpt : (s.updBlock u f).ckpt = s.ckpt := rfl
@[simp] theorem updBlock_agents : (s.updBlock u f).agents = s.agents := rfl
@[simp] theorem updBlock_poison : (s.updBlock u f).poison = s.poison := rfl
@[simp] theorem updBlock_badRegs : (s.updBlock u f).badRegs = s.badRegs := rfl
@[simp] theorem updBlock_l1 : (s.updBlock u f).l1 = s.l1 := rfl
@[simp] theorem updBlock_l2 : (s.updBlock u f).l2 = s.l2 := rfl
@[simp] theorem updBlock_dir : (s.updBlock u f).dir = s.dir := rfl
@[simp] theorem updBlock_hostCache : (s.updBlock u f).hostCache = s.hostCache := rfl
@[simp] theorem updBlock_recs : (s.updBlock u f).recs = s.recs := rfl
@[simp] theorem updBlock_intents : (s.updBlock u f).intents = s.intents := rfl
@[simp] theorem updBlock_ib : (s.updBlock u f).ib = s.ib := rfl
@[simp] theorem updBlock_tlb : (s.updBlock u f).tlb = s.tlb := rfl
@[simp] theorem updBlock_walks : (s.updBlock u f).walks = s.walks := rfl
@[simp] theorem updBlock_cores : (s.updBlock u f).cores = s.cores := rfl
@[simp] theorem updBlock_dies : (s.updBlock u f).dies = s.dies := rfl
@[simp] theorem updBlock_launches : (s.updBlock u f).launches = s.launches := rfl
@[simp] theorem updBlock_ctxs : (s.updBlock u f).ctxs = s.ctxs := rfl
@[simp] theorem updBlock_queues : (s.updBlock u f).queues = s.queues := rfl
@[simp] theorem updBlock_lastPicks : (s.updBlock u f).lastPicks = s.lastPicks := rfl
@[simp] theorem updBlock_periods : (s.updBlock u f).periods = s.periods := rfl
@[simp] theorem updBlock_calls : (s.updBlock u f).calls = s.calls := rfl
@[simp] theorem updBlock_held : (s.updBlock u f).held = s.held := rfl
@[simp] theorem updBlock_dailies : (s.updBlock u f).dailies = s.dailies := rfl
@[simp] theorem updBlock_hubid : (s.updBlock u f).hubid = s.hubid := rfl
@[simp] theorem updBlock_hubidSet : (s.updBlock u f).hubidSet = s.hubidSet := rfl
@[simp] theorem updBlock_links : (s.updBlock u f).links = s.links := rfl
@[simp] theorem updBlock_homeWins : (s.updBlock u f).homeWins = s.homeWins := rfl
@[simp] theorem updBlock_beatSent : (s.updBlock u f).beatSent = s.beatSent := rfl
@[simp] theorem updBlock_beatStop : (s.updBlock u f).beatStop = s.beatStop := rfl
@[simp] theorem updBlock_fw : (s.updBlock u f).fw = s.fw := rfl
@[simp] theorem updBlock_power : (s.updBlock u f).power = s.power := rfl
@[simp] theorem updBlock_mgmt : (s.updBlock u f).mgmt = s.mgmt := rfl
@[simp] theorem updBlock_hubCycle : (s.updBlock u f).hubCycle = s.hubCycle := rfl
@[simp] theorem updBlock_agenda : (s.updBlock u f).agenda = s.agenda := rfl
@[simp] theorem updBlock_choices : (s.updBlock u f).choices = s.choices := rfl
@[simp] theorem updBlock_issue : (s.updBlock u f).issue = s.issue := rfl
@[simp] theorem updBlock_second : (s.updBlock u f).second = s.second := rfl
@[simp] theorem updBlock_turn : (s.updBlock u f).turn = s.turn := rfl
@[simp] theorem updBlock_clkAcc : (s.updBlock u f).clkAcc = s.clkAcc := rfl
@[simp] theorem updBlock_nextId : (s.updBlock u f).nextId = s.nextId := rfl
@[simp] theorem updBlock_news : (s.updBlock u f).news = s.news := rfl
end updBlock

section updCrew
variable (s : State) (u i : Nat) (f : Crew → Crew)
@[simp] theorem updCrew_mem : (s.updCrew u i f).mem = s.mem := rfl
@[simp] theorem updCrew_reqs : (s.updCrew u i f).reqs = s.reqs := rfl
@[simp] theorem updCrew_seqs : (s.updCrew u i f).seqs = s.seqs := rfl
@[simp] theorem updCrew_retakes : (s.updCrew u i f).retakes = s.retakes := rfl
@[simp] theorem updCrew_copies : (s.updCrew u i f).copies = s.copies := rfl
@[simp] theorem updCrew_stage : (s.updCrew u i f).stage = s.stage := rfl
@[simp] theorem updCrew_slates : (s.updCrew u i f).slates = s.slates := rfl
@[simp] theorem updCrew_experts : (s.updCrew u i f).experts = s.experts := rfl
@[simp] theorem updCrew_takes : (s.updCrew u i f).takes = s.takes := rfl
@[simp] theorem updCrew_invals : (s.updCrew u i f).invals = s.invals := rfl
@[simp] theorem updCrew_faults : (s.updCrew u i f).faults = s.faults := rfl
@[simp] theorem updCrew_ckpt : (s.updCrew u i f).ckpt = s.ckpt := rfl
@[simp] theorem updCrew_agents : (s.updCrew u i f).agents = s.agents := rfl
@[simp] theorem updCrew_poison : (s.updCrew u i f).poison = s.poison := rfl
@[simp] theorem updCrew_badRegs : (s.updCrew u i f).badRegs = s.badRegs := rfl
@[simp] theorem updCrew_l1 : (s.updCrew u i f).l1 = s.l1 := rfl
@[simp] theorem updCrew_l2 : (s.updCrew u i f).l2 = s.l2 := rfl
@[simp] theorem updCrew_dir : (s.updCrew u i f).dir = s.dir := rfl
@[simp] theorem updCrew_hostCache : (s.updCrew u i f).hostCache = s.hostCache := rfl
@[simp] theorem updCrew_recs : (s.updCrew u i f).recs = s.recs := rfl
@[simp] theorem updCrew_intents : (s.updCrew u i f).intents = s.intents := rfl
@[simp] theorem updCrew_ib : (s.updCrew u i f).ib = s.ib := rfl
@[simp] theorem updCrew_tlb : (s.updCrew u i f).tlb = s.tlb := rfl
@[simp] theorem updCrew_walks : (s.updCrew u i f).walks = s.walks := rfl
@[simp] theorem updCrew_cores : (s.updCrew u i f).cores = s.cores := rfl
@[simp] theorem updCrew_dies : (s.updCrew u i f).dies = s.dies := rfl
@[simp] theorem updCrew_launches : (s.updCrew u i f).launches = s.launches := rfl
@[simp] theorem updCrew_ctxs : (s.updCrew u i f).ctxs = s.ctxs := rfl
@[simp] theorem updCrew_queues : (s.updCrew u i f).queues = s.queues := rfl
@[simp] theorem updCrew_lastPicks : (s.updCrew u i f).lastPicks = s.lastPicks := rfl
@[simp] theorem updCrew_periods : (s.updCrew u i f).periods = s.periods := rfl
@[simp] theorem updCrew_calls : (s.updCrew u i f).calls = s.calls := rfl
@[simp] theorem updCrew_held : (s.updCrew u i f).held = s.held := rfl
@[simp] theorem updCrew_dailies : (s.updCrew u i f).dailies = s.dailies := rfl
@[simp] theorem updCrew_hubid : (s.updCrew u i f).hubid = s.hubid := rfl
@[simp] theorem updCrew_hubidSet : (s.updCrew u i f).hubidSet = s.hubidSet := rfl
@[simp] theorem updCrew_links : (s.updCrew u i f).links = s.links := rfl
@[simp] theorem updCrew_homeWins : (s.updCrew u i f).homeWins = s.homeWins := rfl
@[simp] theorem updCrew_beatSent : (s.updCrew u i f).beatSent = s.beatSent := rfl
@[simp] theorem updCrew_beatStop : (s.updCrew u i f).beatStop = s.beatStop := rfl
@[simp] theorem updCrew_fw : (s.updCrew u i f).fw = s.fw := rfl
@[simp] theorem updCrew_power : (s.updCrew u i f).power = s.power := rfl
@[simp] theorem updCrew_mgmt : (s.updCrew u i f).mgmt = s.mgmt := rfl
@[simp] theorem updCrew_hubCycle : (s.updCrew u i f).hubCycle = s.hubCycle := rfl
@[simp] theorem updCrew_agenda : (s.updCrew u i f).agenda = s.agenda := rfl
@[simp] theorem updCrew_choices : (s.updCrew u i f).choices = s.choices := rfl
@[simp] theorem updCrew_issue : (s.updCrew u i f).issue = s.issue := rfl
@[simp] theorem updCrew_second : (s.updCrew u i f).second = s.second := rfl
@[simp] theorem updCrew_turn : (s.updCrew u i f).turn = s.turn := rfl
@[simp] theorem updCrew_clkAcc : (s.updCrew u i f).clkAcc = s.clkAcc := rfl
@[simp] theorem updCrew_nextId : (s.updCrew u i f).nextId = s.nextId := rfl
@[simp] theorem updCrew_news : (s.updCrew u i f).news = s.news := rfl
end updCrew

section updThread
variable (s : State) (u i l : Nat) (f : Thread → Thread)
@[simp] theorem updThread_mem : (s.updThread u i l f).mem = s.mem := rfl
@[simp] theorem updThread_reqs : (s.updThread u i l f).reqs = s.reqs := rfl
@[simp] theorem updThread_seqs : (s.updThread u i l f).seqs = s.seqs := rfl
@[simp] theorem updThread_retakes : (s.updThread u i l f).retakes = s.retakes := rfl
@[simp] theorem updThread_copies : (s.updThread u i l f).copies = s.copies := rfl
@[simp] theorem updThread_stage : (s.updThread u i l f).stage = s.stage := rfl
@[simp] theorem updThread_slates : (s.updThread u i l f).slates = s.slates := rfl
@[simp] theorem updThread_experts : (s.updThread u i l f).experts = s.experts := rfl
@[simp] theorem updThread_takes : (s.updThread u i l f).takes = s.takes := rfl
@[simp] theorem updThread_invals : (s.updThread u i l f).invals = s.invals := rfl
@[simp] theorem updThread_faults : (s.updThread u i l f).faults = s.faults := rfl
@[simp] theorem updThread_ckpt : (s.updThread u i l f).ckpt = s.ckpt := rfl
@[simp] theorem updThread_agents : (s.updThread u i l f).agents = s.agents := rfl
@[simp] theorem updThread_poison : (s.updThread u i l f).poison = s.poison := rfl
@[simp] theorem updThread_badRegs : (s.updThread u i l f).badRegs = s.badRegs := rfl
@[simp] theorem updThread_l1 : (s.updThread u i l f).l1 = s.l1 := rfl
@[simp] theorem updThread_l2 : (s.updThread u i l f).l2 = s.l2 := rfl
@[simp] theorem updThread_dir : (s.updThread u i l f).dir = s.dir := rfl
@[simp] theorem updThread_hostCache : (s.updThread u i l f).hostCache = s.hostCache := rfl
@[simp] theorem updThread_recs : (s.updThread u i l f).recs = s.recs := rfl
@[simp] theorem updThread_intents : (s.updThread u i l f).intents = s.intents := rfl
@[simp] theorem updThread_ib : (s.updThread u i l f).ib = s.ib := rfl
@[simp] theorem updThread_tlb : (s.updThread u i l f).tlb = s.tlb := rfl
@[simp] theorem updThread_walks : (s.updThread u i l f).walks = s.walks := rfl
@[simp] theorem updThread_cores : (s.updThread u i l f).cores = s.cores := rfl
@[simp] theorem updThread_dies : (s.updThread u i l f).dies = s.dies := rfl
@[simp] theorem updThread_launches : (s.updThread u i l f).launches = s.launches := rfl
@[simp] theorem updThread_ctxs : (s.updThread u i l f).ctxs = s.ctxs := rfl
@[simp] theorem updThread_queues : (s.updThread u i l f).queues = s.queues := rfl
@[simp] theorem updThread_lastPicks : (s.updThread u i l f).lastPicks = s.lastPicks := rfl
@[simp] theorem updThread_periods : (s.updThread u i l f).periods = s.periods := rfl
@[simp] theorem updThread_calls : (s.updThread u i l f).calls = s.calls := rfl
@[simp] theorem updThread_held : (s.updThread u i l f).held = s.held := rfl
@[simp] theorem updThread_dailies : (s.updThread u i l f).dailies = s.dailies := rfl
@[simp] theorem updThread_hubid : (s.updThread u i l f).hubid = s.hubid := rfl
@[simp] theorem updThread_hubidSet : (s.updThread u i l f).hubidSet = s.hubidSet := rfl
@[simp] theorem updThread_links : (s.updThread u i l f).links = s.links := rfl
@[simp] theorem updThread_homeWins : (s.updThread u i l f).homeWins = s.homeWins := rfl
@[simp] theorem updThread_beatSent : (s.updThread u i l f).beatSent = s.beatSent := rfl
@[simp] theorem updThread_beatStop : (s.updThread u i l f).beatStop = s.beatStop := rfl
@[simp] theorem updThread_fw : (s.updThread u i l f).fw = s.fw := rfl
@[simp] theorem updThread_power : (s.updThread u i l f).power = s.power := rfl
@[simp] theorem updThread_mgmt : (s.updThread u i l f).mgmt = s.mgmt := rfl
@[simp] theorem updThread_hubCycle : (s.updThread u i l f).hubCycle = s.hubCycle := rfl
@[simp] theorem updThread_agenda : (s.updThread u i l f).agenda = s.agenda := rfl
@[simp] theorem updThread_choices : (s.updThread u i l f).choices = s.choices := rfl
@[simp] theorem updThread_issue : (s.updThread u i l f).issue = s.issue := rfl
@[simp] theorem updThread_second : (s.updThread u i l f).second = s.second := rfl
@[simp] theorem updThread_turn : (s.updThread u i l f).turn = s.turn := rfl
@[simp] theorem updThread_clkAcc : (s.updThread u i l f).clkAcc = s.clkAcc := rfl
@[simp] theorem updThread_nextId : (s.updThread u i l f).nextId = s.nextId := rfl
@[simp] theorem updThread_news : (s.updThread u i l f).news = s.news := rfl
end updThread

section updTile
variable (s : State) (u n : Nat) (f : Tile → Tile)
@[simp] theorem updTile_mem : (s.updTile u n f).mem = s.mem := rfl
@[simp] theorem updTile_reqs : (s.updTile u n f).reqs = s.reqs := rfl
@[simp] theorem updTile_seqs : (s.updTile u n f).seqs = s.seqs := rfl
@[simp] theorem updTile_retakes : (s.updTile u n f).retakes = s.retakes := rfl
@[simp] theorem updTile_copies : (s.updTile u n f).copies = s.copies := rfl
@[simp] theorem updTile_stage : (s.updTile u n f).stage = s.stage := rfl
@[simp] theorem updTile_slates : (s.updTile u n f).slates = s.slates := rfl
@[simp] theorem updTile_experts : (s.updTile u n f).experts = s.experts := rfl
@[simp] theorem updTile_takes : (s.updTile u n f).takes = s.takes := rfl
@[simp] theorem updTile_invals : (s.updTile u n f).invals = s.invals := rfl
@[simp] theorem updTile_faults : (s.updTile u n f).faults = s.faults := rfl
@[simp] theorem updTile_ckpt : (s.updTile u n f).ckpt = s.ckpt := rfl
@[simp] theorem updTile_agents : (s.updTile u n f).agents = s.agents := rfl
@[simp] theorem updTile_poison : (s.updTile u n f).poison = s.poison := rfl
@[simp] theorem updTile_badRegs : (s.updTile u n f).badRegs = s.badRegs := rfl
@[simp] theorem updTile_l1 : (s.updTile u n f).l1 = s.l1 := rfl
@[simp] theorem updTile_l2 : (s.updTile u n f).l2 = s.l2 := rfl
@[simp] theorem updTile_dir : (s.updTile u n f).dir = s.dir := rfl
@[simp] theorem updTile_hostCache : (s.updTile u n f).hostCache = s.hostCache := rfl
@[simp] theorem updTile_recs : (s.updTile u n f).recs = s.recs := rfl
@[simp] theorem updTile_intents : (s.updTile u n f).intents = s.intents := rfl
@[simp] theorem updTile_ib : (s.updTile u n f).ib = s.ib := rfl
@[simp] theorem updTile_tlb : (s.updTile u n f).tlb = s.tlb := rfl
@[simp] theorem updTile_walks : (s.updTile u n f).walks = s.walks := rfl
@[simp] theorem updTile_cores : (s.updTile u n f).cores = s.cores := rfl
@[simp] theorem updTile_dies : (s.updTile u n f).dies = s.dies := rfl
@[simp] theorem updTile_launches : (s.updTile u n f).launches = s.launches := rfl
@[simp] theorem updTile_ctxs : (s.updTile u n f).ctxs = s.ctxs := rfl
@[simp] theorem updTile_queues : (s.updTile u n f).queues = s.queues := rfl
@[simp] theorem updTile_lastPicks : (s.updTile u n f).lastPicks = s.lastPicks := rfl
@[simp] theorem updTile_periods : (s.updTile u n f).periods = s.periods := rfl
@[simp] theorem updTile_calls : (s.updTile u n f).calls = s.calls := rfl
@[simp] theorem updTile_held : (s.updTile u n f).held = s.held := rfl
@[simp] theorem updTile_dailies : (s.updTile u n f).dailies = s.dailies := rfl
@[simp] theorem updTile_hubid : (s.updTile u n f).hubid = s.hubid := rfl
@[simp] theorem updTile_hubidSet : (s.updTile u n f).hubidSet = s.hubidSet := rfl
@[simp] theorem updTile_links : (s.updTile u n f).links = s.links := rfl
@[simp] theorem updTile_homeWins : (s.updTile u n f).homeWins = s.homeWins := rfl
@[simp] theorem updTile_beatSent : (s.updTile u n f).beatSent = s.beatSent := rfl
@[simp] theorem updTile_beatStop : (s.updTile u n f).beatStop = s.beatStop := rfl
@[simp] theorem updTile_fw : (s.updTile u n f).fw = s.fw := rfl
@[simp] theorem updTile_power : (s.updTile u n f).power = s.power := rfl
@[simp] theorem updTile_mgmt : (s.updTile u n f).mgmt = s.mgmt := rfl
@[simp] theorem updTile_hubCycle : (s.updTile u n f).hubCycle = s.hubCycle := rfl
@[simp] theorem updTile_agenda : (s.updTile u n f).agenda = s.agenda := rfl
@[simp] theorem updTile_choices : (s.updTile u n f).choices = s.choices := rfl
@[simp] theorem updTile_issue : (s.updTile u n f).issue = s.issue := rfl
@[simp] theorem updTile_second : (s.updTile u n f).second = s.second := rfl
@[simp] theorem updTile_turn : (s.updTile u n f).turn = s.turn := rfl
@[simp] theorem updTile_clkAcc : (s.updTile u n f).clkAcc = s.clkAcc := rfl
@[simp] theorem updTile_nextId : (s.updTile u n f).nextId = s.nextId := rfl
@[simp] theorem updTile_news : (s.updTile u n f).news = s.news := rfl
end updTile

section updCmd
variable (s : State) (u n : Nat) (f : TileCmd → TileCmd)
@[simp] theorem updCmd_mem : (s.updCmd u n f).mem = s.mem := rfl
@[simp] theorem updCmd_reqs : (s.updCmd u n f).reqs = s.reqs := rfl
@[simp] theorem updCmd_seqs : (s.updCmd u n f).seqs = s.seqs := rfl
@[simp] theorem updCmd_retakes : (s.updCmd u n f).retakes = s.retakes := rfl
@[simp] theorem updCmd_copies : (s.updCmd u n f).copies = s.copies := rfl
@[simp] theorem updCmd_stage : (s.updCmd u n f).stage = s.stage := rfl
@[simp] theorem updCmd_slates : (s.updCmd u n f).slates = s.slates := rfl
@[simp] theorem updCmd_experts : (s.updCmd u n f).experts = s.experts := rfl
@[simp] theorem updCmd_takes : (s.updCmd u n f).takes = s.takes := rfl
@[simp] theorem updCmd_invals : (s.updCmd u n f).invals = s.invals := rfl
@[simp] theorem updCmd_faults : (s.updCmd u n f).faults = s.faults := rfl
@[simp] theorem updCmd_ckpt : (s.updCmd u n f).ckpt = s.ckpt := rfl
@[simp] theorem updCmd_agents : (s.updCmd u n f).agents = s.agents := rfl
@[simp] theorem updCmd_poison : (s.updCmd u n f).poison = s.poison := rfl
@[simp] theorem updCmd_badRegs : (s.updCmd u n f).badRegs = s.badRegs := rfl
@[simp] theorem updCmd_l1 : (s.updCmd u n f).l1 = s.l1 := rfl
@[simp] theorem updCmd_l2 : (s.updCmd u n f).l2 = s.l2 := rfl
@[simp] theorem updCmd_dir : (s.updCmd u n f).dir = s.dir := rfl
@[simp] theorem updCmd_hostCache : (s.updCmd u n f).hostCache = s.hostCache := rfl
@[simp] theorem updCmd_recs : (s.updCmd u n f).recs = s.recs := rfl
@[simp] theorem updCmd_intents : (s.updCmd u n f).intents = s.intents := rfl
@[simp] theorem updCmd_ib : (s.updCmd u n f).ib = s.ib := rfl
@[simp] theorem updCmd_tlb : (s.updCmd u n f).tlb = s.tlb := rfl
@[simp] theorem updCmd_walks : (s.updCmd u n f).walks = s.walks := rfl
@[simp] theorem updCmd_cores : (s.updCmd u n f).cores = s.cores := rfl
@[simp] theorem updCmd_dies : (s.updCmd u n f).dies = s.dies := rfl
@[simp] theorem updCmd_launches : (s.updCmd u n f).launches = s.launches := rfl
@[simp] theorem updCmd_ctxs : (s.updCmd u n f).ctxs = s.ctxs := rfl
@[simp] theorem updCmd_queues : (s.updCmd u n f).queues = s.queues := rfl
@[simp] theorem updCmd_lastPicks : (s.updCmd u n f).lastPicks = s.lastPicks := rfl
@[simp] theorem updCmd_periods : (s.updCmd u n f).periods = s.periods := rfl
@[simp] theorem updCmd_calls : (s.updCmd u n f).calls = s.calls := rfl
@[simp] theorem updCmd_held : (s.updCmd u n f).held = s.held := rfl
@[simp] theorem updCmd_dailies : (s.updCmd u n f).dailies = s.dailies := rfl
@[simp] theorem updCmd_hubid : (s.updCmd u n f).hubid = s.hubid := rfl
@[simp] theorem updCmd_hubidSet : (s.updCmd u n f).hubidSet = s.hubidSet := rfl
@[simp] theorem updCmd_links : (s.updCmd u n f).links = s.links := rfl
@[simp] theorem updCmd_homeWins : (s.updCmd u n f).homeWins = s.homeWins := rfl
@[simp] theorem updCmd_beatSent : (s.updCmd u n f).beatSent = s.beatSent := rfl
@[simp] theorem updCmd_beatStop : (s.updCmd u n f).beatStop = s.beatStop := rfl
@[simp] theorem updCmd_fw : (s.updCmd u n f).fw = s.fw := rfl
@[simp] theorem updCmd_power : (s.updCmd u n f).power = s.power := rfl
@[simp] theorem updCmd_mgmt : (s.updCmd u n f).mgmt = s.mgmt := rfl
@[simp] theorem updCmd_hubCycle : (s.updCmd u n f).hubCycle = s.hubCycle := rfl
@[simp] theorem updCmd_agenda : (s.updCmd u n f).agenda = s.agenda := rfl
@[simp] theorem updCmd_choices : (s.updCmd u n f).choices = s.choices := rfl
@[simp] theorem updCmd_issue : (s.updCmd u n f).issue = s.issue := rfl
@[simp] theorem updCmd_second : (s.updCmd u n f).second = s.second := rfl
@[simp] theorem updCmd_turn : (s.updCmd u n f).turn = s.turn := rfl
@[simp] theorem updCmd_clkAcc : (s.updCmd u n f).clkAcc = s.clkAcc := rfl
@[simp] theorem updCmd_nextId : (s.updCmd u n f).nextId = s.nextId := rfl
@[simp] theorem updCmd_news : (s.updCmd u n f).news = s.news := rfl
end updCmd

section updBar
variable (s : State) (u n : Nat) (f : Bar → Bar)
@[simp] theorem updBar_mem : (s.updBar u n f).mem = s.mem := rfl
@[simp] theorem updBar_reqs : (s.updBar u n f).reqs = s.reqs := rfl
@[simp] theorem updBar_seqs : (s.updBar u n f).seqs = s.seqs := rfl
@[simp] theorem updBar_retakes : (s.updBar u n f).retakes = s.retakes := rfl
@[simp] theorem updBar_copies : (s.updBar u n f).copies = s.copies := rfl
@[simp] theorem updBar_stage : (s.updBar u n f).stage = s.stage := rfl
@[simp] theorem updBar_slates : (s.updBar u n f).slates = s.slates := rfl
@[simp] theorem updBar_experts : (s.updBar u n f).experts = s.experts := rfl
@[simp] theorem updBar_takes : (s.updBar u n f).takes = s.takes := rfl
@[simp] theorem updBar_invals : (s.updBar u n f).invals = s.invals := rfl
@[simp] theorem updBar_faults : (s.updBar u n f).faults = s.faults := rfl
@[simp] theorem updBar_ckpt : (s.updBar u n f).ckpt = s.ckpt := rfl
@[simp] theorem updBar_agents : (s.updBar u n f).agents = s.agents := rfl
@[simp] theorem updBar_poison : (s.updBar u n f).poison = s.poison := rfl
@[simp] theorem updBar_badRegs : (s.updBar u n f).badRegs = s.badRegs := rfl
@[simp] theorem updBar_l1 : (s.updBar u n f).l1 = s.l1 := rfl
@[simp] theorem updBar_l2 : (s.updBar u n f).l2 = s.l2 := rfl
@[simp] theorem updBar_dir : (s.updBar u n f).dir = s.dir := rfl
@[simp] theorem updBar_hostCache : (s.updBar u n f).hostCache = s.hostCache := rfl
@[simp] theorem updBar_recs : (s.updBar u n f).recs = s.recs := rfl
@[simp] theorem updBar_intents : (s.updBar u n f).intents = s.intents := rfl
@[simp] theorem updBar_ib : (s.updBar u n f).ib = s.ib := rfl
@[simp] theorem updBar_tlb : (s.updBar u n f).tlb = s.tlb := rfl
@[simp] theorem updBar_walks : (s.updBar u n f).walks = s.walks := rfl
@[simp] theorem updBar_cores : (s.updBar u n f).cores = s.cores := rfl
@[simp] theorem updBar_dies : (s.updBar u n f).dies = s.dies := rfl
@[simp] theorem updBar_launches : (s.updBar u n f).launches = s.launches := rfl
@[simp] theorem updBar_ctxs : (s.updBar u n f).ctxs = s.ctxs := rfl
@[simp] theorem updBar_queues : (s.updBar u n f).queues = s.queues := rfl
@[simp] theorem updBar_lastPicks : (s.updBar u n f).lastPicks = s.lastPicks := rfl
@[simp] theorem updBar_periods : (s.updBar u n f).periods = s.periods := rfl
@[simp] theorem updBar_calls : (s.updBar u n f).calls = s.calls := rfl
@[simp] theorem updBar_held : (s.updBar u n f).held = s.held := rfl
@[simp] theorem updBar_dailies : (s.updBar u n f).dailies = s.dailies := rfl
@[simp] theorem updBar_hubid : (s.updBar u n f).hubid = s.hubid := rfl
@[simp] theorem updBar_hubidSet : (s.updBar u n f).hubidSet = s.hubidSet := rfl
@[simp] theorem updBar_links : (s.updBar u n f).links = s.links := rfl
@[simp] theorem updBar_homeWins : (s.updBar u n f).homeWins = s.homeWins := rfl
@[simp] theorem updBar_beatSent : (s.updBar u n f).beatSent = s.beatSent := rfl
@[simp] theorem updBar_beatStop : (s.updBar u n f).beatStop = s.beatStop := rfl
@[simp] theorem updBar_fw : (s.updBar u n f).fw = s.fw := rfl
@[simp] theorem updBar_power : (s.updBar u n f).power = s.power := rfl
@[simp] theorem updBar_mgmt : (s.updBar u n f).mgmt = s.mgmt := rfl
@[simp] theorem updBar_hubCycle : (s.updBar u n f).hubCycle = s.hubCycle := rfl
@[simp] theorem updBar_agenda : (s.updBar u n f).agenda = s.agenda := rfl
@[simp] theorem updBar_choices : (s.updBar u n f).choices = s.choices := rfl
@[simp] theorem updBar_issue : (s.updBar u n f).issue = s.issue := rfl
@[simp] theorem updBar_second : (s.updBar u n f).second = s.second := rfl
@[simp] theorem updBar_turn : (s.updBar u n f).turn = s.turn := rfl
@[simp] theorem updBar_clkAcc : (s.updBar u n f).clkAcc = s.clkAcc := rfl
@[simp] theorem updBar_nextId : (s.updBar u n f).nextId = s.nextId := rfl
@[simp] theorem updBar_news : (s.updBar u n f).news = s.news := rfl
end updBar

section updMeets
variable (s : State) (u : Nat) (p : Bool) (f : List Meet → List Meet)
@[simp] theorem updMeets_mem : (s.updMeets u p f).mem = s.mem := rfl
@[simp] theorem updMeets_reqs : (s.updMeets u p f).reqs = s.reqs := rfl
@[simp] theorem updMeets_seqs : (s.updMeets u p f).seqs = s.seqs := rfl
@[simp] theorem updMeets_retakes : (s.updMeets u p f).retakes = s.retakes := rfl
@[simp] theorem updMeets_copies : (s.updMeets u p f).copies = s.copies := rfl
@[simp] theorem updMeets_stage : (s.updMeets u p f).stage = s.stage := rfl
@[simp] theorem updMeets_slates : (s.updMeets u p f).slates = s.slates := rfl
@[simp] theorem updMeets_experts : (s.updMeets u p f).experts = s.experts := rfl
@[simp] theorem updMeets_takes : (s.updMeets u p f).takes = s.takes := rfl
@[simp] theorem updMeets_invals : (s.updMeets u p f).invals = s.invals := rfl
@[simp] theorem updMeets_faults : (s.updMeets u p f).faults = s.faults := rfl
@[simp] theorem updMeets_ckpt : (s.updMeets u p f).ckpt = s.ckpt := rfl
@[simp] theorem updMeets_agents : (s.updMeets u p f).agents = s.agents := rfl
@[simp] theorem updMeets_poison : (s.updMeets u p f).poison = s.poison := rfl
@[simp] theorem updMeets_badRegs : (s.updMeets u p f).badRegs = s.badRegs := rfl
@[simp] theorem updMeets_l1 : (s.updMeets u p f).l1 = s.l1 := rfl
@[simp] theorem updMeets_l2 : (s.updMeets u p f).l2 = s.l2 := rfl
@[simp] theorem updMeets_dir : (s.updMeets u p f).dir = s.dir := rfl
@[simp] theorem updMeets_hostCache : (s.updMeets u p f).hostCache = s.hostCache := rfl
@[simp] theorem updMeets_recs : (s.updMeets u p f).recs = s.recs := rfl
@[simp] theorem updMeets_intents : (s.updMeets u p f).intents = s.intents := rfl
@[simp] theorem updMeets_ib : (s.updMeets u p f).ib = s.ib := rfl
@[simp] theorem updMeets_tlb : (s.updMeets u p f).tlb = s.tlb := rfl
@[simp] theorem updMeets_walks : (s.updMeets u p f).walks = s.walks := rfl
@[simp] theorem updMeets_cores : (s.updMeets u p f).cores = s.cores := rfl
@[simp] theorem updMeets_dies : (s.updMeets u p f).dies = s.dies := rfl
@[simp] theorem updMeets_launches : (s.updMeets u p f).launches = s.launches := rfl
@[simp] theorem updMeets_ctxs : (s.updMeets u p f).ctxs = s.ctxs := rfl
@[simp] theorem updMeets_queues : (s.updMeets u p f).queues = s.queues := rfl
@[simp] theorem updMeets_lastPicks : (s.updMeets u p f).lastPicks = s.lastPicks := rfl
@[simp] theorem updMeets_periods : (s.updMeets u p f).periods = s.periods := rfl
@[simp] theorem updMeets_calls : (s.updMeets u p f).calls = s.calls := rfl
@[simp] theorem updMeets_held : (s.updMeets u p f).held = s.held := rfl
@[simp] theorem updMeets_dailies : (s.updMeets u p f).dailies = s.dailies := rfl
@[simp] theorem updMeets_hubid : (s.updMeets u p f).hubid = s.hubid := rfl
@[simp] theorem updMeets_hubidSet : (s.updMeets u p f).hubidSet = s.hubidSet := rfl
@[simp] theorem updMeets_links : (s.updMeets u p f).links = s.links := rfl
@[simp] theorem updMeets_homeWins : (s.updMeets u p f).homeWins = s.homeWins := rfl
@[simp] theorem updMeets_beatSent : (s.updMeets u p f).beatSent = s.beatSent := rfl
@[simp] theorem updMeets_beatStop : (s.updMeets u p f).beatStop = s.beatStop := rfl
@[simp] theorem updMeets_fw : (s.updMeets u p f).fw = s.fw := rfl
@[simp] theorem updMeets_power : (s.updMeets u p f).power = s.power := rfl
@[simp] theorem updMeets_mgmt : (s.updMeets u p f).mgmt = s.mgmt := rfl
@[simp] theorem updMeets_hubCycle : (s.updMeets u p f).hubCycle = s.hubCycle := rfl
@[simp] theorem updMeets_agenda : (s.updMeets u p f).agenda = s.agenda := rfl
@[simp] theorem updMeets_choices : (s.updMeets u p f).choices = s.choices := rfl
@[simp] theorem updMeets_issue : (s.updMeets u p f).issue = s.issue := rfl
@[simp] theorem updMeets_second : (s.updMeets u p f).second = s.second := rfl
@[simp] theorem updMeets_turn : (s.updMeets u p f).turn = s.turn := rfl
@[simp] theorem updMeets_clkAcc : (s.updMeets u p f).clkAcc = s.clkAcc := rfl
@[simp] theorem updMeets_nextId : (s.updMeets u p f).nextId = s.nextId := rfl
@[simp] theorem updMeets_news : (s.updMeets u p f).news = s.news := rfl
end updMeets

section updRing
variable (s : State) (u n : Nat) (f : Ring → Ring)
@[simp] theorem updRing_mem : (s.updRing u n f).mem = s.mem := rfl
@[simp] theorem updRing_reqs : (s.updRing u n f).reqs = s.reqs := rfl
@[simp] theorem updRing_seqs : (s.updRing u n f).seqs = s.seqs := rfl
@[simp] theorem updRing_retakes : (s.updRing u n f).retakes = s.retakes := rfl
@[simp] theorem updRing_copies : (s.updRing u n f).copies = s.copies := rfl
@[simp] theorem updRing_stage : (s.updRing u n f).stage = s.stage := rfl
@[simp] theorem updRing_slates : (s.updRing u n f).slates = s.slates := rfl
@[simp] theorem updRing_experts : (s.updRing u n f).experts = s.experts := rfl
@[simp] theorem updRing_takes : (s.updRing u n f).takes = s.takes := rfl
@[simp] theorem updRing_invals : (s.updRing u n f).invals = s.invals := rfl
@[simp] theorem updRing_faults : (s.updRing u n f).faults = s.faults := rfl
@[simp] theorem updRing_ckpt : (s.updRing u n f).ckpt = s.ckpt := rfl
@[simp] theorem updRing_agents : (s.updRing u n f).agents = s.agents := rfl
@[simp] theorem updRing_poison : (s.updRing u n f).poison = s.poison := rfl
@[simp] theorem updRing_badRegs : (s.updRing u n f).badRegs = s.badRegs := rfl
@[simp] theorem updRing_l1 : (s.updRing u n f).l1 = s.l1 := rfl
@[simp] theorem updRing_l2 : (s.updRing u n f).l2 = s.l2 := rfl
@[simp] theorem updRing_dir : (s.updRing u n f).dir = s.dir := rfl
@[simp] theorem updRing_hostCache : (s.updRing u n f).hostCache = s.hostCache := rfl
@[simp] theorem updRing_recs : (s.updRing u n f).recs = s.recs := rfl
@[simp] theorem updRing_intents : (s.updRing u n f).intents = s.intents := rfl
@[simp] theorem updRing_ib : (s.updRing u n f).ib = s.ib := rfl
@[simp] theorem updRing_tlb : (s.updRing u n f).tlb = s.tlb := rfl
@[simp] theorem updRing_walks : (s.updRing u n f).walks = s.walks := rfl
@[simp] theorem updRing_cores : (s.updRing u n f).cores = s.cores := rfl
@[simp] theorem updRing_dies : (s.updRing u n f).dies = s.dies := rfl
@[simp] theorem updRing_launches : (s.updRing u n f).launches = s.launches := rfl
@[simp] theorem updRing_ctxs : (s.updRing u n f).ctxs = s.ctxs := rfl
@[simp] theorem updRing_queues : (s.updRing u n f).queues = s.queues := rfl
@[simp] theorem updRing_lastPicks : (s.updRing u n f).lastPicks = s.lastPicks := rfl
@[simp] theorem updRing_periods : (s.updRing u n f).periods = s.periods := rfl
@[simp] theorem updRing_calls : (s.updRing u n f).calls = s.calls := rfl
@[simp] theorem updRing_held : (s.updRing u n f).held = s.held := rfl
@[simp] theorem updRing_dailies : (s.updRing u n f).dailies = s.dailies := rfl
@[simp] theorem updRing_hubid : (s.updRing u n f).hubid = s.hubid := rfl
@[simp] theorem updRing_hubidSet : (s.updRing u n f).hubidSet = s.hubidSet := rfl
@[simp] theorem updRing_links : (s.updRing u n f).links = s.links := rfl
@[simp] theorem updRing_homeWins : (s.updRing u n f).homeWins = s.homeWins := rfl
@[simp] theorem updRing_beatSent : (s.updRing u n f).beatSent = s.beatSent := rfl
@[simp] theorem updRing_beatStop : (s.updRing u n f).beatStop = s.beatStop := rfl
@[simp] theorem updRing_fw : (s.updRing u n f).fw = s.fw := rfl
@[simp] theorem updRing_power : (s.updRing u n f).power = s.power := rfl
@[simp] theorem updRing_mgmt : (s.updRing u n f).mgmt = s.mgmt := rfl
@[simp] theorem updRing_hubCycle : (s.updRing u n f).hubCycle = s.hubCycle := rfl
@[simp] theorem updRing_agenda : (s.updRing u n f).agenda = s.agenda := rfl
@[simp] theorem updRing_choices : (s.updRing u n f).choices = s.choices := rfl
@[simp] theorem updRing_issue : (s.updRing u n f).issue = s.issue := rfl
@[simp] theorem updRing_second : (s.updRing u n f).second = s.second := rfl
@[simp] theorem updRing_turn : (s.updRing u n f).turn = s.turn := rfl
@[simp] theorem updRing_clkAcc : (s.updRing u n f).clkAcc = s.clkAcc := rfl
@[simp] theorem updRing_nextId : (s.updRing u n f).nextId = s.nextId := rfl
@[simp] theorem updRing_news : (s.updRing u n f).news = s.news := rfl
end updRing

section scratchWrite
variable (s : State) (u a : Nat) (bs : List Byte)
@[simp] theorem scratchWrite_mem : (s.scratchWrite u a bs).mem = s.mem := rfl
@[simp] theorem scratchWrite_reqs : (s.scratchWrite u a bs).reqs = s.reqs := rfl
@[simp] theorem scratchWrite_seqs : (s.scratchWrite u a bs).seqs = s.seqs := rfl
@[simp] theorem scratchWrite_retakes : (s.scratchWrite u a bs).retakes = s.retakes := rfl
@[simp] theorem scratchWrite_copies : (s.scratchWrite u a bs).copies = s.copies := rfl
@[simp] theorem scratchWrite_stage : (s.scratchWrite u a bs).stage = s.stage := rfl
@[simp] theorem scratchWrite_slates : (s.scratchWrite u a bs).slates = s.slates := rfl
@[simp] theorem scratchWrite_experts : (s.scratchWrite u a bs).experts = s.experts := rfl
@[simp] theorem scratchWrite_takes : (s.scratchWrite u a bs).takes = s.takes := rfl
@[simp] theorem scratchWrite_invals : (s.scratchWrite u a bs).invals = s.invals := rfl
@[simp] theorem scratchWrite_faults : (s.scratchWrite u a bs).faults = s.faults := rfl
@[simp] theorem scratchWrite_ckpt : (s.scratchWrite u a bs).ckpt = s.ckpt := rfl
@[simp] theorem scratchWrite_agents : (s.scratchWrite u a bs).agents = s.agents := rfl
@[simp] theorem scratchWrite_poison : (s.scratchWrite u a bs).poison = s.poison := rfl
@[simp] theorem scratchWrite_badRegs : (s.scratchWrite u a bs).badRegs = s.badRegs := rfl
@[simp] theorem scratchWrite_l1 : (s.scratchWrite u a bs).l1 = s.l1 := rfl
@[simp] theorem scratchWrite_l2 : (s.scratchWrite u a bs).l2 = s.l2 := rfl
@[simp] theorem scratchWrite_dir : (s.scratchWrite u a bs).dir = s.dir := rfl
@[simp] theorem scratchWrite_hostCache : (s.scratchWrite u a bs).hostCache = s.hostCache := rfl
@[simp] theorem scratchWrite_recs : (s.scratchWrite u a bs).recs = s.recs := rfl
@[simp] theorem scratchWrite_intents : (s.scratchWrite u a bs).intents = s.intents := rfl
@[simp] theorem scratchWrite_ib : (s.scratchWrite u a bs).ib = s.ib := rfl
@[simp] theorem scratchWrite_tlb : (s.scratchWrite u a bs).tlb = s.tlb := rfl
@[simp] theorem scratchWrite_walks : (s.scratchWrite u a bs).walks = s.walks := rfl
@[simp] theorem scratchWrite_cores : (s.scratchWrite u a bs).cores = s.cores := rfl
@[simp] theorem scratchWrite_dies : (s.scratchWrite u a bs).dies = s.dies := rfl
@[simp] theorem scratchWrite_launches : (s.scratchWrite u a bs).launches = s.launches := rfl
@[simp] theorem scratchWrite_ctxs : (s.scratchWrite u a bs).ctxs = s.ctxs := rfl
@[simp] theorem scratchWrite_queues : (s.scratchWrite u a bs).queues = s.queues := rfl
@[simp] theorem scratchWrite_lastPicks : (s.scratchWrite u a bs).lastPicks = s.lastPicks := rfl
@[simp] theorem scratchWrite_periods : (s.scratchWrite u a bs).periods = s.periods := rfl
@[simp] theorem scratchWrite_calls : (s.scratchWrite u a bs).calls = s.calls := rfl
@[simp] theorem scratchWrite_held : (s.scratchWrite u a bs).held = s.held := rfl
@[simp] theorem scratchWrite_dailies : (s.scratchWrite u a bs).dailies = s.dailies := rfl
@[simp] theorem scratchWrite_hubid : (s.scratchWrite u a bs).hubid = s.hubid := rfl
@[simp] theorem scratchWrite_hubidSet : (s.scratchWrite u a bs).hubidSet = s.hubidSet := rfl
@[simp] theorem scratchWrite_links : (s.scratchWrite u a bs).links = s.links := rfl
@[simp] theorem scratchWrite_homeWins : (s.scratchWrite u a bs).homeWins = s.homeWins := rfl
@[simp] theorem scratchWrite_beatSent : (s.scratchWrite u a bs).beatSent = s.beatSent := rfl
@[simp] theorem scratchWrite_beatStop : (s.scratchWrite u a bs).beatStop = s.beatStop := rfl
@[simp] theorem scratchWrite_fw : (s.scratchWrite u a bs).fw = s.fw := rfl
@[simp] theorem scratchWrite_power : (s.scratchWrite u a bs).power = s.power := rfl
@[simp] theorem scratchWrite_mgmt : (s.scratchWrite u a bs).mgmt = s.mgmt := rfl
@[simp] theorem scratchWrite_hubCycle : (s.scratchWrite u a bs).hubCycle = s.hubCycle := rfl
@[simp] theorem scratchWrite_agenda : (s.scratchWrite u a bs).agenda = s.agenda := rfl
@[simp] theorem scratchWrite_choices : (s.scratchWrite u a bs).choices = s.choices := rfl
@[simp] theorem scratchWrite_issue : (s.scratchWrite u a bs).issue = s.issue := rfl
@[simp] theorem scratchWrite_second : (s.scratchWrite u a bs).second = s.second := rfl
@[simp] theorem scratchWrite_turn : (s.scratchWrite u a bs).turn = s.turn := rfl
@[simp] theorem scratchWrite_clkAcc : (s.scratchWrite u a bs).clkAcc = s.clkAcc := rfl
@[simp] theorem scratchWrite_nextId : (s.scratchWrite u a bs).nextId = s.nextId := rfl
@[simp] theorem scratchWrite_news : (s.scratchWrite u a bs).news = s.news := rfl
end scratchWrite

section updCtx
variable (s : State) (n : Nat) (f : Context → Context)
@[simp] theorem updCtx_mem : (s.updCtx n f).mem = s.mem := rfl
@[simp] theorem updCtx_reqs : (s.updCtx n f).reqs = s.reqs := rfl
@[simp] theorem updCtx_seqs : (s.updCtx n f).seqs = s.seqs := rfl
@[simp] theorem updCtx_retakes : (s.updCtx n f).retakes = s.retakes := rfl
@[simp] theorem updCtx_copies : (s.updCtx n f).copies = s.copies := rfl
@[simp] theorem updCtx_stage : (s.updCtx n f).stage = s.stage := rfl
@[simp] theorem updCtx_slates : (s.updCtx n f).slates = s.slates := rfl
@[simp] theorem updCtx_experts : (s.updCtx n f).experts = s.experts := rfl
@[simp] theorem updCtx_takes : (s.updCtx n f).takes = s.takes := rfl
@[simp] theorem updCtx_invals : (s.updCtx n f).invals = s.invals := rfl
@[simp] theorem updCtx_faults : (s.updCtx n f).faults = s.faults := rfl
@[simp] theorem updCtx_ckpt : (s.updCtx n f).ckpt = s.ckpt := rfl
@[simp] theorem updCtx_agents : (s.updCtx n f).agents = s.agents := rfl
@[simp] theorem updCtx_poison : (s.updCtx n f).poison = s.poison := rfl
@[simp] theorem updCtx_badRegs : (s.updCtx n f).badRegs = s.badRegs := rfl
@[simp] theorem updCtx_l1 : (s.updCtx n f).l1 = s.l1 := rfl
@[simp] theorem updCtx_l2 : (s.updCtx n f).l2 = s.l2 := rfl
@[simp] theorem updCtx_dir : (s.updCtx n f).dir = s.dir := rfl
@[simp] theorem updCtx_hostCache : (s.updCtx n f).hostCache = s.hostCache := rfl
@[simp] theorem updCtx_recs : (s.updCtx n f).recs = s.recs := rfl
@[simp] theorem updCtx_intents : (s.updCtx n f).intents = s.intents := rfl
@[simp] theorem updCtx_ib : (s.updCtx n f).ib = s.ib := rfl
@[simp] theorem updCtx_tlb : (s.updCtx n f).tlb = s.tlb := rfl
@[simp] theorem updCtx_walks : (s.updCtx n f).walks = s.walks := rfl
@[simp] theorem updCtx_cores : (s.updCtx n f).cores = s.cores := rfl
@[simp] theorem updCtx_dies : (s.updCtx n f).dies = s.dies := rfl
@[simp] theorem updCtx_blocks : (s.updCtx n f).blocks = s.blocks := rfl
@[simp] theorem updCtx_launches : (s.updCtx n f).launches = s.launches := rfl
@[simp] theorem updCtx_queues : (s.updCtx n f).queues = s.queues := rfl
@[simp] theorem updCtx_lastPicks : (s.updCtx n f).lastPicks = s.lastPicks := rfl
@[simp] theorem updCtx_periods : (s.updCtx n f).periods = s.periods := rfl
@[simp] theorem updCtx_calls : (s.updCtx n f).calls = s.calls := rfl
@[simp] theorem updCtx_held : (s.updCtx n f).held = s.held := rfl
@[simp] theorem updCtx_dailies : (s.updCtx n f).dailies = s.dailies := rfl
@[simp] theorem updCtx_hubid : (s.updCtx n f).hubid = s.hubid := rfl
@[simp] theorem updCtx_hubidSet : (s.updCtx n f).hubidSet = s.hubidSet := rfl
@[simp] theorem updCtx_links : (s.updCtx n f).links = s.links := rfl
@[simp] theorem updCtx_homeWins : (s.updCtx n f).homeWins = s.homeWins := rfl
@[simp] theorem updCtx_beatSent : (s.updCtx n f).beatSent = s.beatSent := rfl
@[simp] theorem updCtx_beatStop : (s.updCtx n f).beatStop = s.beatStop := rfl
@[simp] theorem updCtx_fw : (s.updCtx n f).fw = s.fw := rfl
@[simp] theorem updCtx_power : (s.updCtx n f).power = s.power := rfl
@[simp] theorem updCtx_mgmt : (s.updCtx n f).mgmt = s.mgmt := rfl
@[simp] theorem updCtx_hubCycle : (s.updCtx n f).hubCycle = s.hubCycle := rfl
@[simp] theorem updCtx_agenda : (s.updCtx n f).agenda = s.agenda := rfl
@[simp] theorem updCtx_choices : (s.updCtx n f).choices = s.choices := rfl
@[simp] theorem updCtx_issue : (s.updCtx n f).issue = s.issue := rfl
@[simp] theorem updCtx_second : (s.updCtx n f).second = s.second := rfl
@[simp] theorem updCtx_turn : (s.updCtx n f).turn = s.turn := rfl
@[simp] theorem updCtx_clkAcc : (s.updCtx n f).clkAcc = s.clkAcc := rfl
@[simp] theorem updCtx_nextId : (s.updCtx n f).nextId = s.nextId := rfl
@[simp] theorem updCtx_news : (s.updCtx n f).news = s.news := rfl
end updCtx

section putPkg
variable (s : State) (n : Nat) (p : PkgHub)
@[simp] theorem putPkg_mem : (s.putPkg n p).mem = s.mem := rfl
@[simp] theorem putPkg_reqs : (s.putPkg n p).reqs = s.reqs := rfl
@[simp] theorem putPkg_seqs : (s.putPkg n p).seqs = s.seqs := rfl
@[simp] theorem putPkg_retakes : (s.putPkg n p).retakes = s.retakes := rfl
@[simp] theorem putPkg_copies : (s.putPkg n p).copies = s.copies := rfl
@[simp] theorem putPkg_stage : (s.putPkg n p).stage = s.stage := rfl
@[simp] theorem putPkg_slates : (s.putPkg n p).slates = s.slates := rfl
@[simp] theorem putPkg_experts : (s.putPkg n p).experts = s.experts := rfl
@[simp] theorem putPkg_takes : (s.putPkg n p).takes = s.takes := rfl
@[simp] theorem putPkg_invals : (s.putPkg n p).invals = s.invals := rfl
@[simp] theorem putPkg_faults : (s.putPkg n p).faults = s.faults := rfl
@[simp] theorem putPkg_ckpt : (s.putPkg n p).ckpt = s.ckpt := rfl
@[simp] theorem putPkg_agents : (s.putPkg n p).agents = s.agents := rfl
@[simp] theorem putPkg_poison : (s.putPkg n p).poison = s.poison := rfl
@[simp] theorem putPkg_badRegs : (s.putPkg n p).badRegs = s.badRegs := rfl
@[simp] theorem putPkg_l1 : (s.putPkg n p).l1 = s.l1 := rfl
@[simp] theorem putPkg_l2 : (s.putPkg n p).l2 = s.l2 := rfl
@[simp] theorem putPkg_dir : (s.putPkg n p).dir = s.dir := rfl
@[simp] theorem putPkg_hostCache : (s.putPkg n p).hostCache = s.hostCache := rfl
@[simp] theorem putPkg_recs : (s.putPkg n p).recs = s.recs := rfl
@[simp] theorem putPkg_intents : (s.putPkg n p).intents = s.intents := rfl
@[simp] theorem putPkg_ib : (s.putPkg n p).ib = s.ib := rfl
@[simp] theorem putPkg_tlb : (s.putPkg n p).tlb = s.tlb := rfl
@[simp] theorem putPkg_walks : (s.putPkg n p).walks = s.walks := rfl
@[simp] theorem putPkg_cores : (s.putPkg n p).cores = s.cores := rfl
@[simp] theorem putPkg_dies : (s.putPkg n p).dies = s.dies := rfl
@[simp] theorem putPkg_blocks : (s.putPkg n p).blocks = s.blocks := rfl
@[simp] theorem putPkg_launches : (s.putPkg n p).launches = s.launches := rfl
@[simp] theorem putPkg_queues : (s.putPkg n p).queues = s.queues := rfl
@[simp] theorem putPkg_lastPicks : (s.putPkg n p).lastPicks = s.lastPicks := rfl
@[simp] theorem putPkg_periods : (s.putPkg n p).periods = s.periods := rfl
@[simp] theorem putPkg_calls : (s.putPkg n p).calls = s.calls := rfl
@[simp] theorem putPkg_held : (s.putPkg n p).held = s.held := rfl
@[simp] theorem putPkg_dailies : (s.putPkg n p).dailies = s.dailies := rfl
@[simp] theorem putPkg_hubid : (s.putPkg n p).hubid = s.hubid := rfl
@[simp] theorem putPkg_hubidSet : (s.putPkg n p).hubidSet = s.hubidSet := rfl
@[simp] theorem putPkg_links : (s.putPkg n p).links = s.links := rfl
@[simp] theorem putPkg_homeWins : (s.putPkg n p).homeWins = s.homeWins := rfl
@[simp] theorem putPkg_beatSent : (s.putPkg n p).beatSent = s.beatSent := rfl
@[simp] theorem putPkg_beatStop : (s.putPkg n p).beatStop = s.beatStop := rfl
@[simp] theorem putPkg_fw : (s.putPkg n p).fw = s.fw := rfl
@[simp] theorem putPkg_power : (s.putPkg n p).power = s.power := rfl
@[simp] theorem putPkg_mgmt : (s.putPkg n p).mgmt = s.mgmt := rfl
@[simp] theorem putPkg_hubCycle : (s.putPkg n p).hubCycle = s.hubCycle := rfl
@[simp] theorem putPkg_agenda : (s.putPkg n p).agenda = s.agenda := rfl
@[simp] theorem putPkg_choices : (s.putPkg n p).choices = s.choices := rfl
@[simp] theorem putPkg_issue : (s.putPkg n p).issue = s.issue := rfl
@[simp] theorem putPkg_second : (s.putPkg n p).second = s.second := rfl
@[simp] theorem putPkg_turn : (s.putPkg n p).turn = s.turn := rfl
@[simp] theorem putPkg_clkAcc : (s.putPkg n p).clkAcc = s.clkAcc := rfl
@[simp] theorem putPkg_nextId : (s.putPkg n p).nextId = s.nextId := rfl
@[simp] theorem putPkg_news : (s.putPkg n p).news = s.news := rfl
end putPkg

section updLaunch
variable (s : State) (n : Nat) (f : Launch → Launch)
@[simp] theorem updLaunch_mem : (s.updLaunch n f).mem = s.mem := rfl
@[simp] theorem updLaunch_reqs : (s.updLaunch n f).reqs = s.reqs := rfl
@[simp] theorem updLaunch_seqs : (s.updLaunch n f).seqs = s.seqs := rfl
@[simp] theorem updLaunch_retakes : (s.updLaunch n f).retakes = s.retakes := rfl
@[simp] theorem updLaunch_copies : (s.updLaunch n f).copies = s.copies := rfl
@[simp] theorem updLaunch_stage : (s.updLaunch n f).stage = s.stage := rfl
@[simp] theorem updLaunch_slates : (s.updLaunch n f).slates = s.slates := rfl
@[simp] theorem updLaunch_experts : (s.updLaunch n f).experts = s.experts := rfl
@[simp] theorem updLaunch_takes : (s.updLaunch n f).takes = s.takes := rfl
@[simp] theorem updLaunch_invals : (s.updLaunch n f).invals = s.invals := rfl
@[simp] theorem updLaunch_faults : (s.updLaunch n f).faults = s.faults := rfl
@[simp] theorem updLaunch_ckpt : (s.updLaunch n f).ckpt = s.ckpt := rfl
@[simp] theorem updLaunch_agents : (s.updLaunch n f).agents = s.agents := rfl
@[simp] theorem updLaunch_poison : (s.updLaunch n f).poison = s.poison := rfl
@[simp] theorem updLaunch_badRegs : (s.updLaunch n f).badRegs = s.badRegs := rfl
@[simp] theorem updLaunch_l1 : (s.updLaunch n f).l1 = s.l1 := rfl
@[simp] theorem updLaunch_l2 : (s.updLaunch n f).l2 = s.l2 := rfl
@[simp] theorem updLaunch_dir : (s.updLaunch n f).dir = s.dir := rfl
@[simp] theorem updLaunch_hostCache : (s.updLaunch n f).hostCache = s.hostCache := rfl
@[simp] theorem updLaunch_recs : (s.updLaunch n f).recs = s.recs := rfl
@[simp] theorem updLaunch_intents : (s.updLaunch n f).intents = s.intents := rfl
@[simp] theorem updLaunch_ib : (s.updLaunch n f).ib = s.ib := rfl
@[simp] theorem updLaunch_tlb : (s.updLaunch n f).tlb = s.tlb := rfl
@[simp] theorem updLaunch_walks : (s.updLaunch n f).walks = s.walks := rfl
@[simp] theorem updLaunch_cores : (s.updLaunch n f).cores = s.cores := rfl
@[simp] theorem updLaunch_dies : (s.updLaunch n f).dies = s.dies := rfl
@[simp] theorem updLaunch_blocks : (s.updLaunch n f).blocks = s.blocks := rfl
@[simp] theorem updLaunch_ctxs : (s.updLaunch n f).ctxs = s.ctxs := rfl
@[simp] theorem updLaunch_queues : (s.updLaunch n f).queues = s.queues := rfl
@[simp] theorem updLaunch_lastPicks : (s.updLaunch n f).lastPicks = s.lastPicks := rfl
@[simp] theorem updLaunch_periods : (s.updLaunch n f).periods = s.periods := rfl
@[simp] theorem updLaunch_calls : (s.updLaunch n f).calls = s.calls := rfl
@[simp] theorem updLaunch_held : (s.updLaunch n f).held = s.held := rfl
@[simp] theorem updLaunch_dailies : (s.updLaunch n f).dailies = s.dailies := rfl
@[simp] theorem updLaunch_hubid : (s.updLaunch n f).hubid = s.hubid := rfl
@[simp] theorem updLaunch_hubidSet : (s.updLaunch n f).hubidSet = s.hubidSet := rfl
@[simp] theorem updLaunch_links : (s.updLaunch n f).links = s.links := rfl
@[simp] theorem updLaunch_homeWins : (s.updLaunch n f).homeWins = s.homeWins := rfl
@[simp] theorem updLaunch_beatSent : (s.updLaunch n f).beatSent = s.beatSent := rfl
@[simp] theorem updLaunch_beatStop : (s.updLaunch n f).beatStop = s.beatStop := rfl
@[simp] theorem updLaunch_fw : (s.updLaunch n f).fw = s.fw := rfl
@[simp] theorem updLaunch_power : (s.updLaunch n f).power = s.power := rfl
@[simp] theorem updLaunch_mgmt : (s.updLaunch n f).mgmt = s.mgmt := rfl
@[simp] theorem updLaunch_hubCycle : (s.updLaunch n f).hubCycle = s.hubCycle := rfl
@[simp] theorem updLaunch_agenda : (s.updLaunch n f).agenda = s.agenda := rfl
@[simp] theorem updLaunch_choices : (s.updLaunch n f).choices = s.choices := rfl
@[simp] theorem updLaunch_issue : (s.updLaunch n f).issue = s.issue := rfl
@[simp] theorem updLaunch_second : (s.updLaunch n f).second = s.second := rfl
@[simp] theorem updLaunch_turn : (s.updLaunch n f).turn = s.turn := rfl
@[simp] theorem updLaunch_clkAcc : (s.updLaunch n f).clkAcc = s.clkAcc := rfl
@[simp] theorem updLaunch_nextId : (s.updLaunch n f).nextId = s.nextId := rfl
@[simp] theorem updLaunch_news : (s.updLaunch n f).news = s.news := rfl
end updLaunch

section updCast
variable (s : State) (n c : Nat) (f : CastHub → CastHub)
@[simp] theorem updCast_mem : (s.updCast n c f).mem = s.mem := rfl
@[simp] theorem updCast_reqs : (s.updCast n c f).reqs = s.reqs := rfl
@[simp] theorem updCast_seqs : (s.updCast n c f).seqs = s.seqs := rfl
@[simp] theorem updCast_retakes : (s.updCast n c f).retakes = s.retakes := rfl
@[simp] theorem updCast_copies : (s.updCast n c f).copies = s.copies := rfl
@[simp] theorem updCast_stage : (s.updCast n c f).stage = s.stage := rfl
@[simp] theorem updCast_slates : (s.updCast n c f).slates = s.slates := rfl
@[simp] theorem updCast_experts : (s.updCast n c f).experts = s.experts := rfl
@[simp] theorem updCast_takes : (s.updCast n c f).takes = s.takes := rfl
@[simp] theorem updCast_invals : (s.updCast n c f).invals = s.invals := rfl
@[simp] theorem updCast_faults : (s.updCast n c f).faults = s.faults := rfl
@[simp] theorem updCast_ckpt : (s.updCast n c f).ckpt = s.ckpt := rfl
@[simp] theorem updCast_agents : (s.updCast n c f).agents = s.agents := rfl
@[simp] theorem updCast_poison : (s.updCast n c f).poison = s.poison := rfl
@[simp] theorem updCast_badRegs : (s.updCast n c f).badRegs = s.badRegs := rfl
@[simp] theorem updCast_l1 : (s.updCast n c f).l1 = s.l1 := rfl
@[simp] theorem updCast_l2 : (s.updCast n c f).l2 = s.l2 := rfl
@[simp] theorem updCast_dir : (s.updCast n c f).dir = s.dir := rfl
@[simp] theorem updCast_hostCache : (s.updCast n c f).hostCache = s.hostCache := rfl
@[simp] theorem updCast_recs : (s.updCast n c f).recs = s.recs := rfl
@[simp] theorem updCast_intents : (s.updCast n c f).intents = s.intents := rfl
@[simp] theorem updCast_ib : (s.updCast n c f).ib = s.ib := rfl
@[simp] theorem updCast_tlb : (s.updCast n c f).tlb = s.tlb := rfl
@[simp] theorem updCast_walks : (s.updCast n c f).walks = s.walks := rfl
@[simp] theorem updCast_cores : (s.updCast n c f).cores = s.cores := rfl
@[simp] theorem updCast_dies : (s.updCast n c f).dies = s.dies := rfl
@[simp] theorem updCast_blocks : (s.updCast n c f).blocks = s.blocks := rfl
@[simp] theorem updCast_ctxs : (s.updCast n c f).ctxs = s.ctxs := rfl
@[simp] theorem updCast_queues : (s.updCast n c f).queues = s.queues := rfl
@[simp] theorem updCast_lastPicks : (s.updCast n c f).lastPicks = s.lastPicks := rfl
@[simp] theorem updCast_periods : (s.updCast n c f).periods = s.periods := rfl
@[simp] theorem updCast_calls : (s.updCast n c f).calls = s.calls := rfl
@[simp] theorem updCast_held : (s.updCast n c f).held = s.held := rfl
@[simp] theorem updCast_dailies : (s.updCast n c f).dailies = s.dailies := rfl
@[simp] theorem updCast_hubid : (s.updCast n c f).hubid = s.hubid := rfl
@[simp] theorem updCast_hubidSet : (s.updCast n c f).hubidSet = s.hubidSet := rfl
@[simp] theorem updCast_links : (s.updCast n c f).links = s.links := rfl
@[simp] theorem updCast_homeWins : (s.updCast n c f).homeWins = s.homeWins := rfl
@[simp] theorem updCast_beatSent : (s.updCast n c f).beatSent = s.beatSent := rfl
@[simp] theorem updCast_beatStop : (s.updCast n c f).beatStop = s.beatStop := rfl
@[simp] theorem updCast_fw : (s.updCast n c f).fw = s.fw := rfl
@[simp] theorem updCast_power : (s.updCast n c f).power = s.power := rfl
@[simp] theorem updCast_mgmt : (s.updCast n c f).mgmt = s.mgmt := rfl
@[simp] theorem updCast_hubCycle : (s.updCast n c f).hubCycle = s.hubCycle := rfl
@[simp] theorem updCast_agenda : (s.updCast n c f).agenda = s.agenda := rfl
@[simp] theorem updCast_choices : (s.updCast n c f).choices = s.choices := rfl
@[simp] theorem updCast_issue : (s.updCast n c f).issue = s.issue := rfl
@[simp] theorem updCast_second : (s.updCast n c f).second = s.second := rfl
@[simp] theorem updCast_turn : (s.updCast n c f).turn = s.turn := rfl
@[simp] theorem updCast_clkAcc : (s.updCast n c f).clkAcc = s.clkAcc := rfl
@[simp] theorem updCast_nextId : (s.updCast n c f).nextId = s.nextId := rfl
@[simp] theorem updCast_news : (s.updCast n c f).news = s.news := rfl
end updCast

section updCore
variable (s : State) (n : Nat) (f : CoreSt → CoreSt)
@[simp] theorem updCore_mem : (s.updCore n f).mem = s.mem := rfl
@[simp] theorem updCore_reqs : (s.updCore n f).reqs = s.reqs := rfl
@[simp] theorem updCore_seqs : (s.updCore n f).seqs = s.seqs := rfl
@[simp] theorem updCore_retakes : (s.updCore n f).retakes = s.retakes := rfl
@[simp] theorem updCore_copies : (s.updCore n f).copies = s.copies := rfl
@[simp] theorem updCore_stage : (s.updCore n f).stage = s.stage := rfl
@[simp] theorem updCore_slates : (s.updCore n f).slates = s.slates := rfl
@[simp] theorem updCore_experts : (s.updCore n f).experts = s.experts := rfl
@[simp] theorem updCore_takes : (s.updCore n f).takes = s.takes := rfl
@[simp] theorem updCore_invals : (s.updCore n f).invals = s.invals := rfl
@[simp] theorem updCore_faults : (s.updCore n f).faults = s.faults := rfl
@[simp] theorem updCore_ckpt : (s.updCore n f).ckpt = s.ckpt := rfl
@[simp] theorem updCore_agents : (s.updCore n f).agents = s.agents := rfl
@[simp] theorem updCore_poison : (s.updCore n f).poison = s.poison := rfl
@[simp] theorem updCore_badRegs : (s.updCore n f).badRegs = s.badRegs := rfl
@[simp] theorem updCore_l1 : (s.updCore n f).l1 = s.l1 := rfl
@[simp] theorem updCore_l2 : (s.updCore n f).l2 = s.l2 := rfl
@[simp] theorem updCore_dir : (s.updCore n f).dir = s.dir := rfl
@[simp] theorem updCore_hostCache : (s.updCore n f).hostCache = s.hostCache := rfl
@[simp] theorem updCore_recs : (s.updCore n f).recs = s.recs := rfl
@[simp] theorem updCore_intents : (s.updCore n f).intents = s.intents := rfl
@[simp] theorem updCore_ib : (s.updCore n f).ib = s.ib := rfl
@[simp] theorem updCore_tlb : (s.updCore n f).tlb = s.tlb := rfl
@[simp] theorem updCore_walks : (s.updCore n f).walks = s.walks := rfl
@[simp] theorem updCore_dies : (s.updCore n f).dies = s.dies := rfl
@[simp] theorem updCore_blocks : (s.updCore n f).blocks = s.blocks := rfl
@[simp] theorem updCore_launches : (s.updCore n f).launches = s.launches := rfl
@[simp] theorem updCore_ctxs : (s.updCore n f).ctxs = s.ctxs := rfl
@[simp] theorem updCore_queues : (s.updCore n f).queues = s.queues := rfl
@[simp] theorem updCore_lastPicks : (s.updCore n f).lastPicks = s.lastPicks := rfl
@[simp] theorem updCore_periods : (s.updCore n f).periods = s.periods := rfl
@[simp] theorem updCore_calls : (s.updCore n f).calls = s.calls := rfl
@[simp] theorem updCore_held : (s.updCore n f).held = s.held := rfl
@[simp] theorem updCore_dailies : (s.updCore n f).dailies = s.dailies := rfl
@[simp] theorem updCore_hubid : (s.updCore n f).hubid = s.hubid := rfl
@[simp] theorem updCore_hubidSet : (s.updCore n f).hubidSet = s.hubidSet := rfl
@[simp] theorem updCore_links : (s.updCore n f).links = s.links := rfl
@[simp] theorem updCore_homeWins : (s.updCore n f).homeWins = s.homeWins := rfl
@[simp] theorem updCore_beatSent : (s.updCore n f).beatSent = s.beatSent := rfl
@[simp] theorem updCore_beatStop : (s.updCore n f).beatStop = s.beatStop := rfl
@[simp] theorem updCore_fw : (s.updCore n f).fw = s.fw := rfl
@[simp] theorem updCore_power : (s.updCore n f).power = s.power := rfl
@[simp] theorem updCore_mgmt : (s.updCore n f).mgmt = s.mgmt := rfl
@[simp] theorem updCore_hubCycle : (s.updCore n f).hubCycle = s.hubCycle := rfl
@[simp] theorem updCore_agenda : (s.updCore n f).agenda = s.agenda := rfl
@[simp] theorem updCore_choices : (s.updCore n f).choices = s.choices := rfl
@[simp] theorem updCore_issue : (s.updCore n f).issue = s.issue := rfl
@[simp] theorem updCore_second : (s.updCore n f).second = s.second := rfl
@[simp] theorem updCore_turn : (s.updCore n f).turn = s.turn := rfl
@[simp] theorem updCore_clkAcc : (s.updCore n f).clkAcc = s.clkAcc := rfl
@[simp] theorem updCore_nextId : (s.updCore n f).nextId = s.nextId := rfl
@[simp] theorem updCore_news : (s.updCore n f).news = s.news := rfl
end updCore

section freeArray
variable (s : State) (n : Nat)
@[simp] theorem freeArray_mem : (s.freeArray n).mem = s.mem := rfl
@[simp] theorem freeArray_reqs : (s.freeArray n).reqs = s.reqs := rfl
@[simp] theorem freeArray_seqs : (s.freeArray n).seqs = s.seqs := rfl
@[simp] theorem freeArray_retakes : (s.freeArray n).retakes = s.retakes := rfl
@[simp] theorem freeArray_copies : (s.freeArray n).copies = s.copies := rfl
@[simp] theorem freeArray_stage : (s.freeArray n).stage = s.stage := rfl
@[simp] theorem freeArray_slates : (s.freeArray n).slates = s.slates := rfl
@[simp] theorem freeArray_experts : (s.freeArray n).experts = s.experts := rfl
@[simp] theorem freeArray_takes : (s.freeArray n).takes = s.takes := rfl
@[simp] theorem freeArray_invals : (s.freeArray n).invals = s.invals := rfl
@[simp] theorem freeArray_faults : (s.freeArray n).faults = s.faults := rfl
@[simp] theorem freeArray_ckpt : (s.freeArray n).ckpt = s.ckpt := rfl
@[simp] theorem freeArray_agents : (s.freeArray n).agents = s.agents := rfl
@[simp] theorem freeArray_poison : (s.freeArray n).poison = s.poison := rfl
@[simp] theorem freeArray_badRegs : (s.freeArray n).badRegs = s.badRegs := rfl
@[simp] theorem freeArray_l1 : (s.freeArray n).l1 = s.l1 := rfl
@[simp] theorem freeArray_l2 : (s.freeArray n).l2 = s.l2 := rfl
@[simp] theorem freeArray_dir : (s.freeArray n).dir = s.dir := rfl
@[simp] theorem freeArray_hostCache : (s.freeArray n).hostCache = s.hostCache := rfl
@[simp] theorem freeArray_recs : (s.freeArray n).recs = s.recs := rfl
@[simp] theorem freeArray_intents : (s.freeArray n).intents = s.intents := rfl
@[simp] theorem freeArray_ib : (s.freeArray n).ib = s.ib := rfl
@[simp] theorem freeArray_tlb : (s.freeArray n).tlb = s.tlb := rfl
@[simp] theorem freeArray_walks : (s.freeArray n).walks = s.walks := rfl
@[simp] theorem freeArray_dies : (s.freeArray n).dies = s.dies := rfl
@[simp] theorem freeArray_blocks : (s.freeArray n).blocks = s.blocks := rfl
@[simp] theorem freeArray_launches : (s.freeArray n).launches = s.launches := rfl
@[simp] theorem freeArray_ctxs : (s.freeArray n).ctxs = s.ctxs := rfl
@[simp] theorem freeArray_queues : (s.freeArray n).queues = s.queues := rfl
@[simp] theorem freeArray_lastPicks : (s.freeArray n).lastPicks = s.lastPicks := rfl
@[simp] theorem freeArray_periods : (s.freeArray n).periods = s.periods := rfl
@[simp] theorem freeArray_calls : (s.freeArray n).calls = s.calls := rfl
@[simp] theorem freeArray_held : (s.freeArray n).held = s.held := rfl
@[simp] theorem freeArray_dailies : (s.freeArray n).dailies = s.dailies := rfl
@[simp] theorem freeArray_hubid : (s.freeArray n).hubid = s.hubid := rfl
@[simp] theorem freeArray_hubidSet : (s.freeArray n).hubidSet = s.hubidSet := rfl
@[simp] theorem freeArray_links : (s.freeArray n).links = s.links := rfl
@[simp] theorem freeArray_homeWins : (s.freeArray n).homeWins = s.homeWins := rfl
@[simp] theorem freeArray_beatSent : (s.freeArray n).beatSent = s.beatSent := rfl
@[simp] theorem freeArray_beatStop : (s.freeArray n).beatStop = s.beatStop := rfl
@[simp] theorem freeArray_fw : (s.freeArray n).fw = s.fw := rfl
@[simp] theorem freeArray_power : (s.freeArray n).power = s.power := rfl
@[simp] theorem freeArray_mgmt : (s.freeArray n).mgmt = s.mgmt := rfl
@[simp] theorem freeArray_hubCycle : (s.freeArray n).hubCycle = s.hubCycle := rfl
@[simp] theorem freeArray_agenda : (s.freeArray n).agenda = s.agenda := rfl
@[simp] theorem freeArray_choices : (s.freeArray n).choices = s.choices := rfl
@[simp] theorem freeArray_issue : (s.freeArray n).issue = s.issue := rfl
@[simp] theorem freeArray_second : (s.freeArray n).second = s.second := rfl
@[simp] theorem freeArray_turn : (s.freeArray n).turn = s.turn := rfl
@[simp] theorem freeArray_clkAcc : (s.freeArray n).clkAcc = s.clkAcc := rfl
@[simp] theorem freeArray_nextId : (s.freeArray n).nextId = s.nextId := rfl
@[simp] theorem freeArray_news : (s.freeArray n).news = s.news := rfl
end freeArray

section updDie
variable (s : State) (n : Nat) (f : DieSt → DieSt)
@[simp] theorem updDie_mem : (s.updDie n f).mem = s.mem := rfl
@[simp] theorem updDie_reqs : (s.updDie n f).reqs = s.reqs := rfl
@[simp] theorem updDie_seqs : (s.updDie n f).seqs = s.seqs := rfl
@[simp] theorem updDie_retakes : (s.updDie n f).retakes = s.retakes := rfl
@[simp] theorem updDie_copies : (s.updDie n f).copies = s.copies := rfl
@[simp] theorem updDie_stage : (s.updDie n f).stage = s.stage := rfl
@[simp] theorem updDie_slates : (s.updDie n f).slates = s.slates := rfl
@[simp] theorem updDie_experts : (s.updDie n f).experts = s.experts := rfl
@[simp] theorem updDie_takes : (s.updDie n f).takes = s.takes := rfl
@[simp] theorem updDie_invals : (s.updDie n f).invals = s.invals := rfl
@[simp] theorem updDie_faults : (s.updDie n f).faults = s.faults := rfl
@[simp] theorem updDie_ckpt : (s.updDie n f).ckpt = s.ckpt := rfl
@[simp] theorem updDie_agents : (s.updDie n f).agents = s.agents := rfl
@[simp] theorem updDie_poison : (s.updDie n f).poison = s.poison := rfl
@[simp] theorem updDie_badRegs : (s.updDie n f).badRegs = s.badRegs := rfl
@[simp] theorem updDie_l1 : (s.updDie n f).l1 = s.l1 := rfl
@[simp] theorem updDie_l2 : (s.updDie n f).l2 = s.l2 := rfl
@[simp] theorem updDie_dir : (s.updDie n f).dir = s.dir := rfl
@[simp] theorem updDie_hostCache : (s.updDie n f).hostCache = s.hostCache := rfl
@[simp] theorem updDie_recs : (s.updDie n f).recs = s.recs := rfl
@[simp] theorem updDie_intents : (s.updDie n f).intents = s.intents := rfl
@[simp] theorem updDie_ib : (s.updDie n f).ib = s.ib := rfl
@[simp] theorem updDie_tlb : (s.updDie n f).tlb = s.tlb := rfl
@[simp] theorem updDie_walks : (s.updDie n f).walks = s.walks := rfl
@[simp] theorem updDie_cores : (s.updDie n f).cores = s.cores := rfl
@[simp] theorem updDie_blocks : (s.updDie n f).blocks = s.blocks := rfl
@[simp] theorem updDie_launches : (s.updDie n f).launches = s.launches := rfl
@[simp] theorem updDie_ctxs : (s.updDie n f).ctxs = s.ctxs := rfl
@[simp] theorem updDie_queues : (s.updDie n f).queues = s.queues := rfl
@[simp] theorem updDie_lastPicks : (s.updDie n f).lastPicks = s.lastPicks := rfl
@[simp] theorem updDie_periods : (s.updDie n f).periods = s.periods := rfl
@[simp] theorem updDie_calls : (s.updDie n f).calls = s.calls := rfl
@[simp] theorem updDie_held : (s.updDie n f).held = s.held := rfl
@[simp] theorem updDie_dailies : (s.updDie n f).dailies = s.dailies := rfl
@[simp] theorem updDie_hubid : (s.updDie n f).hubid = s.hubid := rfl
@[simp] theorem updDie_hubidSet : (s.updDie n f).hubidSet = s.hubidSet := rfl
@[simp] theorem updDie_links : (s.updDie n f).links = s.links := rfl
@[simp] theorem updDie_homeWins : (s.updDie n f).homeWins = s.homeWins := rfl
@[simp] theorem updDie_beatSent : (s.updDie n f).beatSent = s.beatSent := rfl
@[simp] theorem updDie_beatStop : (s.updDie n f).beatStop = s.beatStop := rfl
@[simp] theorem updDie_fw : (s.updDie n f).fw = s.fw := rfl
@[simp] theorem updDie_power : (s.updDie n f).power = s.power := rfl
@[simp] theorem updDie_mgmt : (s.updDie n f).mgmt = s.mgmt := rfl
@[simp] theorem updDie_hubCycle : (s.updDie n f).hubCycle = s.hubCycle := rfl
@[simp] theorem updDie_agenda : (s.updDie n f).agenda = s.agenda := rfl
@[simp] theorem updDie_choices : (s.updDie n f).choices = s.choices := rfl
@[simp] theorem updDie_issue : (s.updDie n f).issue = s.issue := rfl
@[simp] theorem updDie_second : (s.updDie n f).second = s.second := rfl
@[simp] theorem updDie_turn : (s.updDie n f).turn = s.turn := rfl
@[simp] theorem updDie_clkAcc : (s.updDie n f).clkAcc = s.clkAcc := rfl
@[simp] theorem updDie_nextId : (s.updDie n f).nextId = s.nextId := rfl
@[simp] theorem updDie_news : (s.updDie n f).news = s.news := rfl
end updDie

section setAgent
variable (s : State) (n : Nat) (a : Agent)
@[simp] theorem setAgent_mem : (s.setAgent n a).mem = s.mem := rfl
@[simp] theorem setAgent_reqs : (s.setAgent n a).reqs = s.reqs := rfl
@[simp] theorem setAgent_seqs : (s.setAgent n a).seqs = s.seqs := rfl
@[simp] theorem setAgent_retakes : (s.setAgent n a).retakes = s.retakes := rfl
@[simp] theorem setAgent_copies : (s.setAgent n a).copies = s.copies := rfl
@[simp] theorem setAgent_stage : (s.setAgent n a).stage = s.stage := rfl
@[simp] theorem setAgent_slates : (s.setAgent n a).slates = s.slates := rfl
@[simp] theorem setAgent_experts : (s.setAgent n a).experts = s.experts := rfl
@[simp] theorem setAgent_takes : (s.setAgent n a).takes = s.takes := rfl
@[simp] theorem setAgent_invals : (s.setAgent n a).invals = s.invals := rfl
@[simp] theorem setAgent_faults : (s.setAgent n a).faults = s.faults := rfl
@[simp] theorem setAgent_ckpt : (s.setAgent n a).ckpt = s.ckpt := rfl
@[simp] theorem setAgent_poison : (s.setAgent n a).poison = s.poison := rfl
@[simp] theorem setAgent_badRegs : (s.setAgent n a).badRegs = s.badRegs := rfl
@[simp] theorem setAgent_l1 : (s.setAgent n a).l1 = s.l1 := rfl
@[simp] theorem setAgent_l2 : (s.setAgent n a).l2 = s.l2 := rfl
@[simp] theorem setAgent_dir : (s.setAgent n a).dir = s.dir := rfl
@[simp] theorem setAgent_hostCache : (s.setAgent n a).hostCache = s.hostCache := rfl
@[simp] theorem setAgent_recs : (s.setAgent n a).recs = s.recs := rfl
@[simp] theorem setAgent_intents : (s.setAgent n a).intents = s.intents := rfl
@[simp] theorem setAgent_ib : (s.setAgent n a).ib = s.ib := rfl
@[simp] theorem setAgent_tlb : (s.setAgent n a).tlb = s.tlb := rfl
@[simp] theorem setAgent_walks : (s.setAgent n a).walks = s.walks := rfl
@[simp] theorem setAgent_cores : (s.setAgent n a).cores = s.cores := rfl
@[simp] theorem setAgent_dies : (s.setAgent n a).dies = s.dies := rfl
@[simp] theorem setAgent_blocks : (s.setAgent n a).blocks = s.blocks := rfl
@[simp] theorem setAgent_launches : (s.setAgent n a).launches = s.launches := rfl
@[simp] theorem setAgent_ctxs : (s.setAgent n a).ctxs = s.ctxs := rfl
@[simp] theorem setAgent_queues : (s.setAgent n a).queues = s.queues := rfl
@[simp] theorem setAgent_lastPicks : (s.setAgent n a).lastPicks = s.lastPicks := rfl
@[simp] theorem setAgent_periods : (s.setAgent n a).periods = s.periods := rfl
@[simp] theorem setAgent_calls : (s.setAgent n a).calls = s.calls := rfl
@[simp] theorem setAgent_held : (s.setAgent n a).held = s.held := rfl
@[simp] theorem setAgent_dailies : (s.setAgent n a).dailies = s.dailies := rfl
@[simp] theorem setAgent_hubid : (s.setAgent n a).hubid = s.hubid := rfl
@[simp] theorem setAgent_hubidSet : (s.setAgent n a).hubidSet = s.hubidSet := rfl
@[simp] theorem setAgent_links : (s.setAgent n a).links = s.links := rfl
@[simp] theorem setAgent_homeWins : (s.setAgent n a).homeWins = s.homeWins := rfl
@[simp] theorem setAgent_beatSent : (s.setAgent n a).beatSent = s.beatSent := rfl
@[simp] theorem setAgent_beatStop : (s.setAgent n a).beatStop = s.beatStop := rfl
@[simp] theorem setAgent_fw : (s.setAgent n a).fw = s.fw := rfl
@[simp] theorem setAgent_power : (s.setAgent n a).power = s.power := rfl
@[simp] theorem setAgent_mgmt : (s.setAgent n a).mgmt = s.mgmt := rfl
@[simp] theorem setAgent_hubCycle : (s.setAgent n a).hubCycle = s.hubCycle := rfl
@[simp] theorem setAgent_agenda : (s.setAgent n a).agenda = s.agenda := rfl
@[simp] theorem setAgent_choices : (s.setAgent n a).choices = s.choices := rfl
@[simp] theorem setAgent_issue : (s.setAgent n a).issue = s.issue := rfl
@[simp] theorem setAgent_second : (s.setAgent n a).second = s.second := rfl
@[simp] theorem setAgent_turn : (s.setAgent n a).turn = s.turn := rfl
@[simp] theorem setAgent_clkAcc : (s.setAgent n a).clkAcc = s.clkAcc := rfl
@[simp] theorem setAgent_nextId : (s.setAgent n a).nextId = s.nextId := rfl
@[simp] theorem setAgent_news : (s.setAgent n a).news = s.news := rfl
end setAgent

section putQueue
variable (s : State) (n : Nat) (q : Queue)
@[simp] theorem putQueue_mem : (s.putQueue n q).mem = s.mem := rfl
@[simp] theorem putQueue_reqs : (s.putQueue n q).reqs = s.reqs := rfl
@[simp] theorem putQueue_seqs : (s.putQueue n q).seqs = s.seqs := rfl
@[simp] theorem putQueue_retakes : (s.putQueue n q).retakes = s.retakes := rfl
@[simp] theorem putQueue_copies : (s.putQueue n q).copies = s.copies := rfl
@[simp] theorem putQueue_stage : (s.putQueue n q).stage = s.stage := rfl
@[simp] theorem putQueue_slates : (s.putQueue n q).slates = s.slates := rfl
@[simp] theorem putQueue_experts : (s.putQueue n q).experts = s.experts := rfl
@[simp] theorem putQueue_takes : (s.putQueue n q).takes = s.takes := rfl
@[simp] theorem putQueue_invals : (s.putQueue n q).invals = s.invals := rfl
@[simp] theorem putQueue_faults : (s.putQueue n q).faults = s.faults := rfl
@[simp] theorem putQueue_ckpt : (s.putQueue n q).ckpt = s.ckpt := rfl
@[simp] theorem putQueue_agents : (s.putQueue n q).agents = s.agents := rfl
@[simp] theorem putQueue_poison : (s.putQueue n q).poison = s.poison := rfl
@[simp] theorem putQueue_badRegs : (s.putQueue n q).badRegs = s.badRegs := rfl
@[simp] theorem putQueue_l1 : (s.putQueue n q).l1 = s.l1 := rfl
@[simp] theorem putQueue_l2 : (s.putQueue n q).l2 = s.l2 := rfl
@[simp] theorem putQueue_dir : (s.putQueue n q).dir = s.dir := rfl
@[simp] theorem putQueue_hostCache : (s.putQueue n q).hostCache = s.hostCache := rfl
@[simp] theorem putQueue_recs : (s.putQueue n q).recs = s.recs := rfl
@[simp] theorem putQueue_intents : (s.putQueue n q).intents = s.intents := rfl
@[simp] theorem putQueue_ib : (s.putQueue n q).ib = s.ib := rfl
@[simp] theorem putQueue_tlb : (s.putQueue n q).tlb = s.tlb := rfl
@[simp] theorem putQueue_walks : (s.putQueue n q).walks = s.walks := rfl
@[simp] theorem putQueue_cores : (s.putQueue n q).cores = s.cores := rfl
@[simp] theorem putQueue_dies : (s.putQueue n q).dies = s.dies := rfl
@[simp] theorem putQueue_blocks : (s.putQueue n q).blocks = s.blocks := rfl
@[simp] theorem putQueue_launches : (s.putQueue n q).launches = s.launches := rfl
@[simp] theorem putQueue_ctxs : (s.putQueue n q).ctxs = s.ctxs := rfl
@[simp] theorem putQueue_lastPicks : (s.putQueue n q).lastPicks = s.lastPicks := rfl
@[simp] theorem putQueue_periods : (s.putQueue n q).periods = s.periods := rfl
@[simp] theorem putQueue_calls : (s.putQueue n q).calls = s.calls := rfl
@[simp] theorem putQueue_held : (s.putQueue n q).held = s.held := rfl
@[simp] theorem putQueue_dailies : (s.putQueue n q).dailies = s.dailies := rfl
@[simp] theorem putQueue_hubid : (s.putQueue n q).hubid = s.hubid := rfl
@[simp] theorem putQueue_hubidSet : (s.putQueue n q).hubidSet = s.hubidSet := rfl
@[simp] theorem putQueue_links : (s.putQueue n q).links = s.links := rfl
@[simp] theorem putQueue_homeWins : (s.putQueue n q).homeWins = s.homeWins := rfl
@[simp] theorem putQueue_beatSent : (s.putQueue n q).beatSent = s.beatSent := rfl
@[simp] theorem putQueue_beatStop : (s.putQueue n q).beatStop = s.beatStop := rfl
@[simp] theorem putQueue_fw : (s.putQueue n q).fw = s.fw := rfl
@[simp] theorem putQueue_power : (s.putQueue n q).power = s.power := rfl
@[simp] theorem putQueue_mgmt : (s.putQueue n q).mgmt = s.mgmt := rfl
@[simp] theorem putQueue_hubCycle : (s.putQueue n q).hubCycle = s.hubCycle := rfl
@[simp] theorem putQueue_agenda : (s.putQueue n q).agenda = s.agenda := rfl
@[simp] theorem putQueue_choices : (s.putQueue n q).choices = s.choices := rfl
@[simp] theorem putQueue_issue : (s.putQueue n q).issue = s.issue := rfl
@[simp] theorem putQueue_second : (s.putQueue n q).second = s.second := rfl
@[simp] theorem putQueue_turn : (s.putQueue n q).turn = s.turn := rfl
@[simp] theorem putQueue_clkAcc : (s.putQueue n q).clkAcc = s.clkAcc := rfl
@[simp] theorem putQueue_nextId : (s.putQueue n q).nextId = s.nextId := rfl
@[simp] theorem putQueue_news : (s.putQueue n q).news = s.news := rfl
end putQueue

section updCopy
variable (s : State) (n : Nat) (f : Copy → Copy)
@[simp] theorem updCopy_mem : (s.updCopy n f).mem = s.mem := rfl
@[simp] theorem updCopy_reqs : (s.updCopy n f).reqs = s.reqs := rfl
@[simp] theorem updCopy_seqs : (s.updCopy n f).seqs = s.seqs := rfl
@[simp] theorem updCopy_retakes : (s.updCopy n f).retakes = s.retakes := rfl
@[simp] theorem updCopy_stage : (s.updCopy n f).stage = s.stage := rfl
@[simp] theorem updCopy_slates : (s.updCopy n f).slates = s.slates := rfl
@[simp] theorem updCopy_experts : (s.updCopy n f).experts = s.experts := rfl
@[simp] theorem updCopy_takes : (s.updCopy n f).takes = s.takes := rfl
@[simp] theorem updCopy_invals : (s.updCopy n f).invals = s.invals := rfl
@[simp] theorem updCopy_faults : (s.updCopy n f).faults = s.faults := rfl
@[simp] theorem updCopy_ckpt : (s.updCopy n f).ckpt = s.ckpt := rfl
@[simp] theorem updCopy_agents : (s.updCopy n f).agents = s.agents := rfl
@[simp] theorem updCopy_poison : (s.updCopy n f).poison = s.poison := rfl
@[simp] theorem updCopy_badRegs : (s.updCopy n f).badRegs = s.badRegs := rfl
@[simp] theorem updCopy_l1 : (s.updCopy n f).l1 = s.l1 := rfl
@[simp] theorem updCopy_l2 : (s.updCopy n f).l2 = s.l2 := rfl
@[simp] theorem updCopy_dir : (s.updCopy n f).dir = s.dir := rfl
@[simp] theorem updCopy_hostCache : (s.updCopy n f).hostCache = s.hostCache := rfl
@[simp] theorem updCopy_recs : (s.updCopy n f).recs = s.recs := rfl
@[simp] theorem updCopy_intents : (s.updCopy n f).intents = s.intents := rfl
@[simp] theorem updCopy_ib : (s.updCopy n f).ib = s.ib := rfl
@[simp] theorem updCopy_tlb : (s.updCopy n f).tlb = s.tlb := rfl
@[simp] theorem updCopy_walks : (s.updCopy n f).walks = s.walks := rfl
@[simp] theorem updCopy_cores : (s.updCopy n f).cores = s.cores := rfl
@[simp] theorem updCopy_dies : (s.updCopy n f).dies = s.dies := rfl
@[simp] theorem updCopy_blocks : (s.updCopy n f).blocks = s.blocks := rfl
@[simp] theorem updCopy_launches : (s.updCopy n f).launches = s.launches := rfl
@[simp] theorem updCopy_ctxs : (s.updCopy n f).ctxs = s.ctxs := rfl
@[simp] theorem updCopy_queues : (s.updCopy n f).queues = s.queues := rfl
@[simp] theorem updCopy_lastPicks : (s.updCopy n f).lastPicks = s.lastPicks := rfl
@[simp] theorem updCopy_periods : (s.updCopy n f).periods = s.periods := rfl
@[simp] theorem updCopy_calls : (s.updCopy n f).calls = s.calls := rfl
@[simp] theorem updCopy_held : (s.updCopy n f).held = s.held := rfl
@[simp] theorem updCopy_dailies : (s.updCopy n f).dailies = s.dailies := rfl
@[simp] theorem updCopy_hubid : (s.updCopy n f).hubid = s.hubid := rfl
@[simp] theorem updCopy_hubidSet : (s.updCopy n f).hubidSet = s.hubidSet := rfl
@[simp] theorem updCopy_links : (s.updCopy n f).links = s.links := rfl
@[simp] theorem updCopy_homeWins : (s.updCopy n f).homeWins = s.homeWins := rfl
@[simp] theorem updCopy_beatSent : (s.updCopy n f).beatSent = s.beatSent := rfl
@[simp] theorem updCopy_beatStop : (s.updCopy n f).beatStop = s.beatStop := rfl
@[simp] theorem updCopy_fw : (s.updCopy n f).fw = s.fw := rfl
@[simp] theorem updCopy_power : (s.updCopy n f).power = s.power := rfl
@[simp] theorem updCopy_mgmt : (s.updCopy n f).mgmt = s.mgmt := rfl
@[simp] theorem updCopy_hubCycle : (s.updCopy n f).hubCycle = s.hubCycle := rfl
@[simp] theorem updCopy_agenda : (s.updCopy n f).agenda = s.agenda := rfl
@[simp] theorem updCopy_choices : (s.updCopy n f).choices = s.choices := rfl
@[simp] theorem updCopy_issue : (s.updCopy n f).issue = s.issue := rfl
@[simp] theorem updCopy_second : (s.updCopy n f).second = s.second := rfl
@[simp] theorem updCopy_turn : (s.updCopy n f).turn = s.turn := rfl
@[simp] theorem updCopy_clkAcc : (s.updCopy n f).clkAcc = s.clkAcc := rfl
@[simp] theorem updCopy_nextId : (s.updCopy n f).nextId = s.nextId := rfl
@[simp] theorem updCopy_news : (s.updCopy n f).news = s.news := rfl
end updCopy

section updCkpt
variable (s : State) (f : Checkpoint → Checkpoint)
@[simp] theorem updCkpt_mem : (s.updCkpt f).mem = s.mem := rfl
@[simp] theorem updCkpt_reqs : (s.updCkpt f).reqs = s.reqs := rfl
@[simp] theorem updCkpt_seqs : (s.updCkpt f).seqs = s.seqs := rfl
@[simp] theorem updCkpt_retakes : (s.updCkpt f).retakes = s.retakes := rfl
@[simp] theorem updCkpt_copies : (s.updCkpt f).copies = s.copies := rfl
@[simp] theorem updCkpt_stage : (s.updCkpt f).stage = s.stage := rfl
@[simp] theorem updCkpt_slates : (s.updCkpt f).slates = s.slates := rfl
@[simp] theorem updCkpt_experts : (s.updCkpt f).experts = s.experts := rfl
@[simp] theorem updCkpt_takes : (s.updCkpt f).takes = s.takes := rfl
@[simp] theorem updCkpt_invals : (s.updCkpt f).invals = s.invals := rfl
@[simp] theorem updCkpt_faults : (s.updCkpt f).faults = s.faults := rfl
@[simp] theorem updCkpt_agents : (s.updCkpt f).agents = s.agents := rfl
@[simp] theorem updCkpt_poison : (s.updCkpt f).poison = s.poison := rfl
@[simp] theorem updCkpt_badRegs : (s.updCkpt f).badRegs = s.badRegs := rfl
@[simp] theorem updCkpt_l1 : (s.updCkpt f).l1 = s.l1 := rfl
@[simp] theorem updCkpt_l2 : (s.updCkpt f).l2 = s.l2 := rfl
@[simp] theorem updCkpt_dir : (s.updCkpt f).dir = s.dir := rfl
@[simp] theorem updCkpt_hostCache : (s.updCkpt f).hostCache = s.hostCache := rfl
@[simp] theorem updCkpt_recs : (s.updCkpt f).recs = s.recs := rfl
@[simp] theorem updCkpt_intents : (s.updCkpt f).intents = s.intents := rfl
@[simp] theorem updCkpt_ib : (s.updCkpt f).ib = s.ib := rfl
@[simp] theorem updCkpt_tlb : (s.updCkpt f).tlb = s.tlb := rfl
@[simp] theorem updCkpt_walks : (s.updCkpt f).walks = s.walks := rfl
@[simp] theorem updCkpt_cores : (s.updCkpt f).cores = s.cores := rfl
@[simp] theorem updCkpt_dies : (s.updCkpt f).dies = s.dies := rfl
@[simp] theorem updCkpt_blocks : (s.updCkpt f).blocks = s.blocks := rfl
@[simp] theorem updCkpt_launches : (s.updCkpt f).launches = s.launches := rfl
@[simp] theorem updCkpt_ctxs : (s.updCkpt f).ctxs = s.ctxs := rfl
@[simp] theorem updCkpt_queues : (s.updCkpt f).queues = s.queues := rfl
@[simp] theorem updCkpt_lastPicks : (s.updCkpt f).lastPicks = s.lastPicks := rfl
@[simp] theorem updCkpt_periods : (s.updCkpt f).periods = s.periods := rfl
@[simp] theorem updCkpt_calls : (s.updCkpt f).calls = s.calls := rfl
@[simp] theorem updCkpt_held : (s.updCkpt f).held = s.held := rfl
@[simp] theorem updCkpt_dailies : (s.updCkpt f).dailies = s.dailies := rfl
@[simp] theorem updCkpt_hubid : (s.updCkpt f).hubid = s.hubid := rfl
@[simp] theorem updCkpt_hubidSet : (s.updCkpt f).hubidSet = s.hubidSet := rfl
@[simp] theorem updCkpt_links : (s.updCkpt f).links = s.links := rfl
@[simp] theorem updCkpt_homeWins : (s.updCkpt f).homeWins = s.homeWins := rfl
@[simp] theorem updCkpt_beatSent : (s.updCkpt f).beatSent = s.beatSent := rfl
@[simp] theorem updCkpt_beatStop : (s.updCkpt f).beatStop = s.beatStop := rfl
@[simp] theorem updCkpt_fw : (s.updCkpt f).fw = s.fw := rfl
@[simp] theorem updCkpt_power : (s.updCkpt f).power = s.power := rfl
@[simp] theorem updCkpt_mgmt : (s.updCkpt f).mgmt = s.mgmt := rfl
@[simp] theorem updCkpt_hubCycle : (s.updCkpt f).hubCycle = s.hubCycle := rfl
@[simp] theorem updCkpt_agenda : (s.updCkpt f).agenda = s.agenda := rfl
@[simp] theorem updCkpt_choices : (s.updCkpt f).choices = s.choices := rfl
@[simp] theorem updCkpt_issue : (s.updCkpt f).issue = s.issue := rfl
@[simp] theorem updCkpt_second : (s.updCkpt f).second = s.second := rfl
@[simp] theorem updCkpt_turn : (s.updCkpt f).turn = s.turn := rfl
@[simp] theorem updCkpt_clkAcc : (s.updCkpt f).clkAcc = s.clkAcc := rfl
@[simp] theorem updCkpt_nextId : (s.updCkpt f).nextId = s.nextId := rfl
@[simp] theorem updCkpt_news : (s.updCkpt f).news = s.news := rfl
end updCkpt

section updLink
variable (s : State) (n : Nat) (f : Link → Link)
@[simp] theorem updLink_mem : (s.updLink n f).mem = s.mem := rfl
@[simp] theorem updLink_reqs : (s.updLink n f).reqs = s.reqs := rfl
@[simp] theorem updLink_seqs : (s.updLink n f).seqs = s.seqs := rfl
@[simp] theorem updLink_retakes : (s.updLink n f).retakes = s.retakes := rfl
@[simp] theorem updLink_copies : (s.updLink n f).copies = s.copies := rfl
@[simp] theorem updLink_stage : (s.updLink n f).stage = s.stage := rfl
@[simp] theorem updLink_slates : (s.updLink n f).slates = s.slates := rfl
@[simp] theorem updLink_experts : (s.updLink n f).experts = s.experts := rfl
@[simp] theorem updLink_takes : (s.updLink n f).takes = s.takes := rfl
@[simp] theorem updLink_invals : (s.updLink n f).invals = s.invals := rfl
@[simp] theorem updLink_faults : (s.updLink n f).faults = s.faults := rfl
@[simp] theorem updLink_ckpt : (s.updLink n f).ckpt = s.ckpt := rfl
@[simp] theorem updLink_agents : (s.updLink n f).agents = s.agents := rfl
@[simp] theorem updLink_poison : (s.updLink n f).poison = s.poison := rfl
@[simp] theorem updLink_badRegs : (s.updLink n f).badRegs = s.badRegs := rfl
@[simp] theorem updLink_l1 : (s.updLink n f).l1 = s.l1 := rfl
@[simp] theorem updLink_l2 : (s.updLink n f).l2 = s.l2 := rfl
@[simp] theorem updLink_dir : (s.updLink n f).dir = s.dir := rfl
@[simp] theorem updLink_hostCache : (s.updLink n f).hostCache = s.hostCache := rfl
@[simp] theorem updLink_recs : (s.updLink n f).recs = s.recs := rfl
@[simp] theorem updLink_intents : (s.updLink n f).intents = s.intents := rfl
@[simp] theorem updLink_ib : (s.updLink n f).ib = s.ib := rfl
@[simp] theorem updLink_tlb : (s.updLink n f).tlb = s.tlb := rfl
@[simp] theorem updLink_walks : (s.updLink n f).walks = s.walks := rfl
@[simp] theorem updLink_cores : (s.updLink n f).cores = s.cores := rfl
@[simp] theorem updLink_dies : (s.updLink n f).dies = s.dies := rfl
@[simp] theorem updLink_blocks : (s.updLink n f).blocks = s.blocks := rfl
@[simp] theorem updLink_launches : (s.updLink n f).launches = s.launches := rfl
@[simp] theorem updLink_ctxs : (s.updLink n f).ctxs = s.ctxs := rfl
@[simp] theorem updLink_queues : (s.updLink n f).queues = s.queues := rfl
@[simp] theorem updLink_lastPicks : (s.updLink n f).lastPicks = s.lastPicks := rfl
@[simp] theorem updLink_periods : (s.updLink n f).periods = s.periods := rfl
@[simp] theorem updLink_calls : (s.updLink n f).calls = s.calls := rfl
@[simp] theorem updLink_held : (s.updLink n f).held = s.held := rfl
@[simp] theorem updLink_dailies : (s.updLink n f).dailies = s.dailies := rfl
@[simp] theorem updLink_hubid : (s.updLink n f).hubid = s.hubid := rfl
@[simp] theorem updLink_hubidSet : (s.updLink n f).hubidSet = s.hubidSet := rfl
@[simp] theorem updLink_homeWins : (s.updLink n f).homeWins = s.homeWins := rfl
@[simp] theorem updLink_beatSent : (s.updLink n f).beatSent = s.beatSent := rfl
@[simp] theorem updLink_beatStop : (s.updLink n f).beatStop = s.beatStop := rfl
@[simp] theorem updLink_fw : (s.updLink n f).fw = s.fw := rfl
@[simp] theorem updLink_power : (s.updLink n f).power = s.power := rfl
@[simp] theorem updLink_mgmt : (s.updLink n f).mgmt = s.mgmt := rfl
@[simp] theorem updLink_hubCycle : (s.updLink n f).hubCycle = s.hubCycle := rfl
@[simp] theorem updLink_agenda : (s.updLink n f).agenda = s.agenda := rfl
@[simp] theorem updLink_choices : (s.updLink n f).choices = s.choices := rfl
@[simp] theorem updLink_issue : (s.updLink n f).issue = s.issue := rfl
@[simp] theorem updLink_second : (s.updLink n f).second = s.second := rfl
@[simp] theorem updLink_turn : (s.updLink n f).turn = s.turn := rfl
@[simp] theorem updLink_clkAcc : (s.updLink n f).clkAcc = s.clkAcc := rfl
@[simp] theorem updLink_nextId : (s.updLink n f).nextId = s.nextId := rfl
@[simp] theorem updLink_news : (s.updLink n f).news = s.news := rfl
end updLink

section updLinksTo
variable (s : State) (n : Nat) (f : Link → Link)
@[simp] theorem updLinksTo_mem : (s.updLinksTo n f).mem = s.mem := rfl
@[simp] theorem updLinksTo_reqs : (s.updLinksTo n f).reqs = s.reqs := rfl
@[simp] theorem updLinksTo_seqs : (s.updLinksTo n f).seqs = s.seqs := rfl
@[simp] theorem updLinksTo_retakes : (s.updLinksTo n f).retakes = s.retakes := rfl
@[simp] theorem updLinksTo_copies : (s.updLinksTo n f).copies = s.copies := rfl
@[simp] theorem updLinksTo_stage : (s.updLinksTo n f).stage = s.stage := rfl
@[simp] theorem updLinksTo_slates : (s.updLinksTo n f).slates = s.slates := rfl
@[simp] theorem updLinksTo_experts : (s.updLinksTo n f).experts = s.experts := rfl
@[simp] theorem updLinksTo_takes : (s.updLinksTo n f).takes = s.takes := rfl
@[simp] theorem updLinksTo_invals : (s.updLinksTo n f).invals = s.invals := rfl
@[simp] theorem updLinksTo_faults : (s.updLinksTo n f).faults = s.faults := rfl
@[simp] theorem updLinksTo_ckpt : (s.updLinksTo n f).ckpt = s.ckpt := rfl
@[simp] theorem updLinksTo_agents : (s.updLinksTo n f).agents = s.agents := rfl
@[simp] theorem updLinksTo_poison : (s.updLinksTo n f).poison = s.poison := rfl
@[simp] theorem updLinksTo_badRegs : (s.updLinksTo n f).badRegs = s.badRegs := rfl
@[simp] theorem updLinksTo_l1 : (s.updLinksTo n f).l1 = s.l1 := rfl
@[simp] theorem updLinksTo_l2 : (s.updLinksTo n f).l2 = s.l2 := rfl
@[simp] theorem updLinksTo_dir : (s.updLinksTo n f).dir = s.dir := rfl
@[simp] theorem updLinksTo_hostCache : (s.updLinksTo n f).hostCache = s.hostCache := rfl
@[simp] theorem updLinksTo_recs : (s.updLinksTo n f).recs = s.recs := rfl
@[simp] theorem updLinksTo_intents : (s.updLinksTo n f).intents = s.intents := rfl
@[simp] theorem updLinksTo_ib : (s.updLinksTo n f).ib = s.ib := rfl
@[simp] theorem updLinksTo_tlb : (s.updLinksTo n f).tlb = s.tlb := rfl
@[simp] theorem updLinksTo_walks : (s.updLinksTo n f).walks = s.walks := rfl
@[simp] theorem updLinksTo_cores : (s.updLinksTo n f).cores = s.cores := rfl
@[simp] theorem updLinksTo_dies : (s.updLinksTo n f).dies = s.dies := rfl
@[simp] theorem updLinksTo_blocks : (s.updLinksTo n f).blocks = s.blocks := rfl
@[simp] theorem updLinksTo_launches : (s.updLinksTo n f).launches = s.launches := rfl
@[simp] theorem updLinksTo_ctxs : (s.updLinksTo n f).ctxs = s.ctxs := rfl
@[simp] theorem updLinksTo_queues : (s.updLinksTo n f).queues = s.queues := rfl
@[simp] theorem updLinksTo_lastPicks : (s.updLinksTo n f).lastPicks = s.lastPicks := rfl
@[simp] theorem updLinksTo_periods : (s.updLinksTo n f).periods = s.periods := rfl
@[simp] theorem updLinksTo_calls : (s.updLinksTo n f).calls = s.calls := rfl
@[simp] theorem updLinksTo_held : (s.updLinksTo n f).held = s.held := rfl
@[simp] theorem updLinksTo_dailies : (s.updLinksTo n f).dailies = s.dailies := rfl
@[simp] theorem updLinksTo_hubid : (s.updLinksTo n f).hubid = s.hubid := rfl
@[simp] theorem updLinksTo_hubidSet : (s.updLinksTo n f).hubidSet = s.hubidSet := rfl
@[simp] theorem updLinksTo_homeWins : (s.updLinksTo n f).homeWins = s.homeWins := rfl
@[simp] theorem updLinksTo_beatSent : (s.updLinksTo n f).beatSent = s.beatSent := rfl
@[simp] theorem updLinksTo_beatStop : (s.updLinksTo n f).beatStop = s.beatStop := rfl
@[simp] theorem updLinksTo_fw : (s.updLinksTo n f).fw = s.fw := rfl
@[simp] theorem updLinksTo_power : (s.updLinksTo n f).power = s.power := rfl
@[simp] theorem updLinksTo_mgmt : (s.updLinksTo n f).mgmt = s.mgmt := rfl
@[simp] theorem updLinksTo_hubCycle : (s.updLinksTo n f).hubCycle = s.hubCycle := rfl
@[simp] theorem updLinksTo_agenda : (s.updLinksTo n f).agenda = s.agenda := rfl
@[simp] theorem updLinksTo_choices : (s.updLinksTo n f).choices = s.choices := rfl
@[simp] theorem updLinksTo_issue : (s.updLinksTo n f).issue = s.issue := rfl
@[simp] theorem updLinksTo_second : (s.updLinksTo n f).second = s.second := rfl
@[simp] theorem updLinksTo_turn : (s.updLinksTo n f).turn = s.turn := rfl
@[simp] theorem updLinksTo_clkAcc : (s.updLinksTo n f).clkAcc = s.clkAcc := rfl
@[simp] theorem updLinksTo_nextId : (s.updLinksTo n f).nextId = s.nextId := rfl
@[simp] theorem updLinksTo_news : (s.updLinksTo n f).news = s.news := rfl
end updLinksTo

section updElem
variable (s : State) (n i : Nat) (f : ReqElem → ReqElem)
@[simp] theorem updElem_mem : (s.updElem n i f).mem = s.mem := rfl
@[simp] theorem updElem_seqs : (s.updElem n i f).seqs = s.seqs := rfl
@[simp] theorem updElem_retakes : (s.updElem n i f).retakes = s.retakes := rfl
@[simp] theorem updElem_copies : (s.updElem n i f).copies = s.copies := rfl
@[simp] theorem updElem_stage : (s.updElem n i f).stage = s.stage := rfl
@[simp] theorem updElem_slates : (s.updElem n i f).slates = s.slates := rfl
@[simp] theorem updElem_experts : (s.updElem n i f).experts = s.experts := rfl
@[simp] theorem updElem_takes : (s.updElem n i f).takes = s.takes := rfl
@[simp] theorem updElem_invals : (s.updElem n i f).invals = s.invals := rfl
@[simp] theorem updElem_faults : (s.updElem n i f).faults = s.faults := rfl
@[simp] theorem updElem_ckpt : (s.updElem n i f).ckpt = s.ckpt := rfl
@[simp] theorem updElem_agents : (s.updElem n i f).agents = s.agents := rfl
@[simp] theorem updElem_poison : (s.updElem n i f).poison = s.poison := rfl
@[simp] theorem updElem_badRegs : (s.updElem n i f).badRegs = s.badRegs := rfl
@[simp] theorem updElem_l1 : (s.updElem n i f).l1 = s.l1 := rfl
@[simp] theorem updElem_l2 : (s.updElem n i f).l2 = s.l2 := rfl
@[simp] theorem updElem_dir : (s.updElem n i f).dir = s.dir := rfl
@[simp] theorem updElem_hostCache : (s.updElem n i f).hostCache = s.hostCache := rfl
@[simp] theorem updElem_recs : (s.updElem n i f).recs = s.recs := rfl
@[simp] theorem updElem_intents : (s.updElem n i f).intents = s.intents := rfl
@[simp] theorem updElem_ib : (s.updElem n i f).ib = s.ib := rfl
@[simp] theorem updElem_tlb : (s.updElem n i f).tlb = s.tlb := rfl
@[simp] theorem updElem_walks : (s.updElem n i f).walks = s.walks := rfl
@[simp] theorem updElem_cores : (s.updElem n i f).cores = s.cores := rfl
@[simp] theorem updElem_dies : (s.updElem n i f).dies = s.dies := rfl
@[simp] theorem updElem_blocks : (s.updElem n i f).blocks = s.blocks := rfl
@[simp] theorem updElem_launches : (s.updElem n i f).launches = s.launches := rfl
@[simp] theorem updElem_ctxs : (s.updElem n i f).ctxs = s.ctxs := rfl
@[simp] theorem updElem_queues : (s.updElem n i f).queues = s.queues := rfl
@[simp] theorem updElem_lastPicks : (s.updElem n i f).lastPicks = s.lastPicks := rfl
@[simp] theorem updElem_periods : (s.updElem n i f).periods = s.periods := rfl
@[simp] theorem updElem_calls : (s.updElem n i f).calls = s.calls := rfl
@[simp] theorem updElem_held : (s.updElem n i f).held = s.held := rfl
@[simp] theorem updElem_dailies : (s.updElem n i f).dailies = s.dailies := rfl
@[simp] theorem updElem_hubid : (s.updElem n i f).hubid = s.hubid := rfl
@[simp] theorem updElem_hubidSet : (s.updElem n i f).hubidSet = s.hubidSet := rfl
@[simp] theorem updElem_links : (s.updElem n i f).links = s.links := rfl
@[simp] theorem updElem_homeWins : (s.updElem n i f).homeWins = s.homeWins := rfl
@[simp] theorem updElem_beatSent : (s.updElem n i f).beatSent = s.beatSent := rfl
@[simp] theorem updElem_beatStop : (s.updElem n i f).beatStop = s.beatStop := rfl
@[simp] theorem updElem_fw : (s.updElem n i f).fw = s.fw := rfl
@[simp] theorem updElem_power : (s.updElem n i f).power = s.power := rfl
@[simp] theorem updElem_mgmt : (s.updElem n i f).mgmt = s.mgmt := rfl
@[simp] theorem updElem_hubCycle : (s.updElem n i f).hubCycle = s.hubCycle := rfl
@[simp] theorem updElem_agenda : (s.updElem n i f).agenda = s.agenda := rfl
@[simp] theorem updElem_choices : (s.updElem n i f).choices = s.choices := rfl
@[simp] theorem updElem_issue : (s.updElem n i f).issue = s.issue := rfl
@[simp] theorem updElem_second : (s.updElem n i f).second = s.second := rfl
@[simp] theorem updElem_turn : (s.updElem n i f).turn = s.turn := rfl
@[simp] theorem updElem_clkAcc : (s.updElem n i f).clkAcc = s.clkAcc := rfl
@[simp] theorem updElem_nextId : (s.updElem n i f).nextId = s.nextId := rfl
@[simp] theorem updElem_news : (s.updElem n i f).news = s.news := rfl
end updElem

section updExpert
variable (s : State) (e : Expert)
@[simp] theorem updExpert_mem : (s.updExpert e).mem = s.mem := rfl
@[simp] theorem updExpert_reqs : (s.updExpert e).reqs = s.reqs := rfl
@[simp] theorem updExpert_seqs : (s.updExpert e).seqs = s.seqs := rfl
@[simp] theorem updExpert_retakes : (s.updExpert e).retakes = s.retakes := rfl
@[simp] theorem updExpert_copies : (s.updExpert e).copies = s.copies := rfl
@[simp] theorem updExpert_stage : (s.updExpert e).stage = s.stage := rfl
@[simp] theorem updExpert_slates : (s.updExpert e).slates = s.slates := rfl
@[simp] theorem updExpert_takes : (s.updExpert e).takes = s.takes := rfl
@[simp] theorem updExpert_invals : (s.updExpert e).invals = s.invals := rfl
@[simp] theorem updExpert_faults : (s.updExpert e).faults = s.faults := rfl
@[simp] theorem updExpert_ckpt : (s.updExpert e).ckpt = s.ckpt := rfl
@[simp] theorem updExpert_agents : (s.updExpert e).agents = s.agents := rfl
@[simp] theorem updExpert_poison : (s.updExpert e).poison = s.poison := rfl
@[simp] theorem updExpert_badRegs : (s.updExpert e).badRegs = s.badRegs := rfl
@[simp] theorem updExpert_l1 : (s.updExpert e).l1 = s.l1 := rfl
@[simp] theorem updExpert_l2 : (s.updExpert e).l2 = s.l2 := rfl
@[simp] theorem updExpert_dir : (s.updExpert e).dir = s.dir := rfl
@[simp] theorem updExpert_hostCache : (s.updExpert e).hostCache = s.hostCache := rfl
@[simp] theorem updExpert_recs : (s.updExpert e).recs = s.recs := rfl
@[simp] theorem updExpert_intents : (s.updExpert e).intents = s.intents := rfl
@[simp] theorem updExpert_ib : (s.updExpert e).ib = s.ib := rfl
@[simp] theorem updExpert_tlb : (s.updExpert e).tlb = s.tlb := rfl
@[simp] theorem updExpert_walks : (s.updExpert e).walks = s.walks := rfl
@[simp] theorem updExpert_cores : (s.updExpert e).cores = s.cores := rfl
@[simp] theorem updExpert_dies : (s.updExpert e).dies = s.dies := rfl
@[simp] theorem updExpert_blocks : (s.updExpert e).blocks = s.blocks := rfl
@[simp] theorem updExpert_launches : (s.updExpert e).launches = s.launches := rfl
@[simp] theorem updExpert_ctxs : (s.updExpert e).ctxs = s.ctxs := rfl
@[simp] theorem updExpert_queues : (s.updExpert e).queues = s.queues := rfl
@[simp] theorem updExpert_lastPicks : (s.updExpert e).lastPicks = s.lastPicks := rfl
@[simp] theorem updExpert_periods : (s.updExpert e).periods = s.periods := rfl
@[simp] theorem updExpert_calls : (s.updExpert e).calls = s.calls := rfl
@[simp] theorem updExpert_held : (s.updExpert e).held = s.held := rfl
@[simp] theorem updExpert_dailies : (s.updExpert e).dailies = s.dailies := rfl
@[simp] theorem updExpert_hubid : (s.updExpert e).hubid = s.hubid := rfl
@[simp] theorem updExpert_hubidSet : (s.updExpert e).hubidSet = s.hubidSet := rfl
@[simp] theorem updExpert_links : (s.updExpert e).links = s.links := rfl
@[simp] theorem updExpert_homeWins : (s.updExpert e).homeWins = s.homeWins := rfl
@[simp] theorem updExpert_beatSent : (s.updExpert e).beatSent = s.beatSent := rfl
@[simp] theorem updExpert_beatStop : (s.updExpert e).beatStop = s.beatStop := rfl
@[simp] theorem updExpert_fw : (s.updExpert e).fw = s.fw := rfl
@[simp] theorem updExpert_power : (s.updExpert e).power = s.power := rfl
@[simp] theorem updExpert_mgmt : (s.updExpert e).mgmt = s.mgmt := rfl
@[simp] theorem updExpert_hubCycle : (s.updExpert e).hubCycle = s.hubCycle := rfl
@[simp] theorem updExpert_agenda : (s.updExpert e).agenda = s.agenda := rfl
@[simp] theorem updExpert_choices : (s.updExpert e).choices = s.choices := rfl
@[simp] theorem updExpert_issue : (s.updExpert e).issue = s.issue := rfl
@[simp] theorem updExpert_second : (s.updExpert e).second = s.second := rfl
@[simp] theorem updExpert_turn : (s.updExpert e).turn = s.turn := rfl
@[simp] theorem updExpert_clkAcc : (s.updExpert e).clkAcc = s.clkAcc := rfl
@[simp] theorem updExpert_nextId : (s.updExpert e).nextId = s.nextId := rfl
@[simp] theorem updExpert_news : (s.updExpert e).news = s.news := rfl
end updExpert

section endWalk
variable (s : State) (n : Nat) (f : Option XFault) (l : Option Leaf)
@[simp] theorem endWalk_mem : (s.endWalk n f l).mem = s.mem := rfl
@[simp] theorem endWalk_reqs : (s.endWalk n f l).reqs = s.reqs := rfl
@[simp] theorem endWalk_seqs : (s.endWalk n f l).seqs = s.seqs := rfl
@[simp] theorem endWalk_retakes : (s.endWalk n f l).retakes = s.retakes := rfl
@[simp] theorem endWalk_copies : (s.endWalk n f l).copies = s.copies := rfl
@[simp] theorem endWalk_stage : (s.endWalk n f l).stage = s.stage := rfl
@[simp] theorem endWalk_slates : (s.endWalk n f l).slates = s.slates := rfl
@[simp] theorem endWalk_experts : (s.endWalk n f l).experts = s.experts := rfl
@[simp] theorem endWalk_takes : (s.endWalk n f l).takes = s.takes := rfl
@[simp] theorem endWalk_invals : (s.endWalk n f l).invals = s.invals := rfl
@[simp] theorem endWalk_faults : (s.endWalk n f l).faults = s.faults := rfl
@[simp] theorem endWalk_ckpt : (s.endWalk n f l).ckpt = s.ckpt := rfl
@[simp] theorem endWalk_agents : (s.endWalk n f l).agents = s.agents := rfl
@[simp] theorem endWalk_poison : (s.endWalk n f l).poison = s.poison := rfl
@[simp] theorem endWalk_badRegs : (s.endWalk n f l).badRegs = s.badRegs := rfl
@[simp] theorem endWalk_l1 : (s.endWalk n f l).l1 = s.l1 := rfl
@[simp] theorem endWalk_l2 : (s.endWalk n f l).l2 = s.l2 := rfl
@[simp] theorem endWalk_dir : (s.endWalk n f l).dir = s.dir := rfl
@[simp] theorem endWalk_hostCache : (s.endWalk n f l).hostCache = s.hostCache := rfl
@[simp] theorem endWalk_recs : (s.endWalk n f l).recs = s.recs := rfl
@[simp] theorem endWalk_intents : (s.endWalk n f l).intents = s.intents := rfl
@[simp] theorem endWalk_ib : (s.endWalk n f l).ib = s.ib := rfl
@[simp] theorem endWalk_tlb : (s.endWalk n f l).tlb = s.tlb := rfl
@[simp] theorem endWalk_cores : (s.endWalk n f l).cores = s.cores := rfl
@[simp] theorem endWalk_dies : (s.endWalk n f l).dies = s.dies := rfl
@[simp] theorem endWalk_blocks : (s.endWalk n f l).blocks = s.blocks := rfl
@[simp] theorem endWalk_launches : (s.endWalk n f l).launches = s.launches := rfl
@[simp] theorem endWalk_ctxs : (s.endWalk n f l).ctxs = s.ctxs := rfl
@[simp] theorem endWalk_queues : (s.endWalk n f l).queues = s.queues := rfl
@[simp] theorem endWalk_lastPicks : (s.endWalk n f l).lastPicks = s.lastPicks := rfl
@[simp] theorem endWalk_periods : (s.endWalk n f l).periods = s.periods := rfl
@[simp] theorem endWalk_calls : (s.endWalk n f l).calls = s.calls := rfl
@[simp] theorem endWalk_held : (s.endWalk n f l).held = s.held := rfl
@[simp] theorem endWalk_dailies : (s.endWalk n f l).dailies = s.dailies := rfl
@[simp] theorem endWalk_hubid : (s.endWalk n f l).hubid = s.hubid := rfl
@[simp] theorem endWalk_hubidSet : (s.endWalk n f l).hubidSet = s.hubidSet := rfl
@[simp] theorem endWalk_links : (s.endWalk n f l).links = s.links := rfl
@[simp] theorem endWalk_homeWins : (s.endWalk n f l).homeWins = s.homeWins := rfl
@[simp] theorem endWalk_beatSent : (s.endWalk n f l).beatSent = s.beatSent := rfl
@[simp] theorem endWalk_beatStop : (s.endWalk n f l).beatStop = s.beatStop := rfl
@[simp] theorem endWalk_fw : (s.endWalk n f l).fw = s.fw := rfl
@[simp] theorem endWalk_power : (s.endWalk n f l).power = s.power := rfl
@[simp] theorem endWalk_mgmt : (s.endWalk n f l).mgmt = s.mgmt := rfl
@[simp] theorem endWalk_hubCycle : (s.endWalk n f l).hubCycle = s.hubCycle := rfl
@[simp] theorem endWalk_agenda : (s.endWalk n f l).agenda = s.agenda := rfl
@[simp] theorem endWalk_choices : (s.endWalk n f l).choices = s.choices := rfl
@[simp] theorem endWalk_issue : (s.endWalk n f l).issue = s.issue := rfl
@[simp] theorem endWalk_second : (s.endWalk n f l).second = s.second := rfl
@[simp] theorem endWalk_turn : (s.endWalk n f l).turn = s.turn := rfl
@[simp] theorem endWalk_clkAcc : (s.endWalk n f l).clkAcc = s.clkAcc := rfl
@[simp] theorem endWalk_nextId : (s.endWalk n f l).nextId = s.nextId := rfl
@[simp] theorem endWalk_news : (s.endWalk n f l).news = s.news := rfl
end endWalk

section l1Drop
variable (s : State) (n c v : Nat)
@[simp] theorem l1Drop_mem : (s.l1Drop n c v).mem = s.mem := rfl
@[simp] theorem l1Drop_reqs : (s.l1Drop n c v).reqs = s.reqs := rfl
@[simp] theorem l1Drop_seqs : (s.l1Drop n c v).seqs = s.seqs := rfl
@[simp] theorem l1Drop_retakes : (s.l1Drop n c v).retakes = s.retakes := rfl
@[simp] theorem l1Drop_copies : (s.l1Drop n c v).copies = s.copies := rfl
@[simp] theorem l1Drop_stage : (s.l1Drop n c v).stage = s.stage := rfl
@[simp] theorem l1Drop_slates : (s.l1Drop n c v).slates = s.slates := rfl
@[simp] theorem l1Drop_experts : (s.l1Drop n c v).experts = s.experts := rfl
@[simp] theorem l1Drop_takes : (s.l1Drop n c v).takes = s.takes := rfl
@[simp] theorem l1Drop_invals : (s.l1Drop n c v).invals = s.invals := rfl
@[simp] theorem l1Drop_faults : (s.l1Drop n c v).faults = s.faults := rfl
@[simp] theorem l1Drop_ckpt : (s.l1Drop n c v).ckpt = s.ckpt := rfl
@[simp] theorem l1Drop_agents : (s.l1Drop n c v).agents = s.agents := rfl
@[simp] theorem l1Drop_poison : (s.l1Drop n c v).poison = s.poison := rfl
@[simp] theorem l1Drop_badRegs : (s.l1Drop n c v).badRegs = s.badRegs := rfl
@[simp] theorem l1Drop_l2 : (s.l1Drop n c v).l2 = s.l2 := rfl
@[simp] theorem l1Drop_dir : (s.l1Drop n c v).dir = s.dir := rfl
@[simp] theorem l1Drop_hostCache : (s.l1Drop n c v).hostCache = s.hostCache := rfl
@[simp] theorem l1Drop_recs : (s.l1Drop n c v).recs = s.recs := rfl
@[simp] theorem l1Drop_intents : (s.l1Drop n c v).intents = s.intents := rfl
@[simp] theorem l1Drop_ib : (s.l1Drop n c v).ib = s.ib := rfl
@[simp] theorem l1Drop_tlb : (s.l1Drop n c v).tlb = s.tlb := rfl
@[simp] theorem l1Drop_walks : (s.l1Drop n c v).walks = s.walks := rfl
@[simp] theorem l1Drop_cores : (s.l1Drop n c v).cores = s.cores := rfl
@[simp] theorem l1Drop_dies : (s.l1Drop n c v).dies = s.dies := rfl
@[simp] theorem l1Drop_blocks : (s.l1Drop n c v).blocks = s.blocks := rfl
@[simp] theorem l1Drop_launches : (s.l1Drop n c v).launches = s.launches := rfl
@[simp] theorem l1Drop_ctxs : (s.l1Drop n c v).ctxs = s.ctxs := rfl
@[simp] theorem l1Drop_queues : (s.l1Drop n c v).queues = s.queues := rfl
@[simp] theorem l1Drop_lastPicks : (s.l1Drop n c v).lastPicks = s.lastPicks := rfl
@[simp] theorem l1Drop_periods : (s.l1Drop n c v).periods = s.periods := rfl
@[simp] theorem l1Drop_calls : (s.l1Drop n c v).calls = s.calls := rfl
@[simp] theorem l1Drop_held : (s.l1Drop n c v).held = s.held := rfl
@[simp] theorem l1Drop_dailies : (s.l1Drop n c v).dailies = s.dailies := rfl
@[simp] theorem l1Drop_hubid : (s.l1Drop n c v).hubid = s.hubid := rfl
@[simp] theorem l1Drop_hubidSet : (s.l1Drop n c v).hubidSet = s.hubidSet := rfl
@[simp] theorem l1Drop_links : (s.l1Drop n c v).links = s.links := rfl
@[simp] theorem l1Drop_homeWins : (s.l1Drop n c v).homeWins = s.homeWins := rfl
@[simp] theorem l1Drop_beatSent : (s.l1Drop n c v).beatSent = s.beatSent := rfl
@[simp] theorem l1Drop_beatStop : (s.l1Drop n c v).beatStop = s.beatStop := rfl
@[simp] theorem l1Drop_fw : (s.l1Drop n c v).fw = s.fw := rfl
@[simp] theorem l1Drop_power : (s.l1Drop n c v).power = s.power := rfl
@[simp] theorem l1Drop_mgmt : (s.l1Drop n c v).mgmt = s.mgmt := rfl
@[simp] theorem l1Drop_hubCycle : (s.l1Drop n c v).hubCycle = s.hubCycle := rfl
@[simp] theorem l1Drop_agenda : (s.l1Drop n c v).agenda = s.agenda := rfl
@[simp] theorem l1Drop_choices : (s.l1Drop n c v).choices = s.choices := rfl
@[simp] theorem l1Drop_issue : (s.l1Drop n c v).issue = s.issue := rfl
@[simp] theorem l1Drop_second : (s.l1Drop n c v).second = s.second := rfl
@[simp] theorem l1Drop_turn : (s.l1Drop n c v).turn = s.turn := rfl
@[simp] theorem l1Drop_clkAcc : (s.l1Drop n c v).clkAcc = s.clkAcc := rfl
@[simp] theorem l1Drop_nextId : (s.l1Drop n c v).nextId = s.nextId := rfl
@[simp] theorem l1Drop_news : (s.l1Drop n c v).news = s.news := rfl
end l1Drop

section comeAgain
variable (s : State) (e : Instr)
@[simp] theorem comeAgain_mem : (s.comeAgain e).mem = s.mem := rfl
@[simp] theorem comeAgain_reqs : (s.comeAgain e).reqs = s.reqs := rfl
@[simp] theorem comeAgain_seqs : (s.comeAgain e).seqs = s.seqs := rfl
@[simp] theorem comeAgain_retakes : (s.comeAgain e).retakes = s.retakes := rfl
@[simp] theorem comeAgain_copies : (s.comeAgain e).copies = s.copies := rfl
@[simp] theorem comeAgain_stage : (s.comeAgain e).stage = s.stage := rfl
@[simp] theorem comeAgain_slates : (s.comeAgain e).slates = s.slates := rfl
@[simp] theorem comeAgain_experts : (s.comeAgain e).experts = s.experts := rfl
@[simp] theorem comeAgain_takes : (s.comeAgain e).takes = s.takes := rfl
@[simp] theorem comeAgain_invals : (s.comeAgain e).invals = s.invals := rfl
@[simp] theorem comeAgain_faults : (s.comeAgain e).faults = s.faults := rfl
@[simp] theorem comeAgain_ckpt : (s.comeAgain e).ckpt = s.ckpt := rfl
@[simp] theorem comeAgain_agents : (s.comeAgain e).agents = s.agents := rfl
@[simp] theorem comeAgain_poison : (s.comeAgain e).poison = s.poison := rfl
@[simp] theorem comeAgain_badRegs : (s.comeAgain e).badRegs = s.badRegs := rfl
@[simp] theorem comeAgain_l1 : (s.comeAgain e).l1 = s.l1 := rfl
@[simp] theorem comeAgain_l2 : (s.comeAgain e).l2 = s.l2 := rfl
@[simp] theorem comeAgain_dir : (s.comeAgain e).dir = s.dir := rfl
@[simp] theorem comeAgain_hostCache : (s.comeAgain e).hostCache = s.hostCache := rfl
@[simp] theorem comeAgain_recs : (s.comeAgain e).recs = s.recs := rfl
@[simp] theorem comeAgain_intents : (s.comeAgain e).intents = s.intents := rfl
@[simp] theorem comeAgain_ib : (s.comeAgain e).ib = s.ib := rfl
@[simp] theorem comeAgain_tlb : (s.comeAgain e).tlb = s.tlb := rfl
@[simp] theorem comeAgain_walks : (s.comeAgain e).walks = s.walks := rfl
@[simp] theorem comeAgain_cores : (s.comeAgain e).cores = s.cores := rfl
@[simp] theorem comeAgain_dies : (s.comeAgain e).dies = s.dies := rfl
@[simp] theorem comeAgain_blocks : (s.comeAgain e).blocks = s.blocks := rfl
@[simp] theorem comeAgain_launches : (s.comeAgain e).launches = s.launches := rfl
@[simp] theorem comeAgain_ctxs : (s.comeAgain e).ctxs = s.ctxs := rfl
@[simp] theorem comeAgain_queues : (s.comeAgain e).queues = s.queues := rfl
@[simp] theorem comeAgain_lastPicks : (s.comeAgain e).lastPicks = s.lastPicks := rfl
@[simp] theorem comeAgain_periods : (s.comeAgain e).periods = s.periods := rfl
@[simp] theorem comeAgain_calls : (s.comeAgain e).calls = s.calls := rfl
@[simp] theorem comeAgain_held : (s.comeAgain e).held = s.held := rfl
@[simp] theorem comeAgain_dailies : (s.comeAgain e).dailies = s.dailies := rfl
@[simp] theorem comeAgain_hubid : (s.comeAgain e).hubid = s.hubid := rfl
@[simp] theorem comeAgain_hubidSet : (s.comeAgain e).hubidSet = s.hubidSet := rfl
@[simp] theorem comeAgain_links : (s.comeAgain e).links = s.links := rfl
@[simp] theorem comeAgain_homeWins : (s.comeAgain e).homeWins = s.homeWins := rfl
@[simp] theorem comeAgain_beatSent : (s.comeAgain e).beatSent = s.beatSent := rfl
@[simp] theorem comeAgain_beatStop : (s.comeAgain e).beatStop = s.beatStop := rfl
@[simp] theorem comeAgain_fw : (s.comeAgain e).fw = s.fw := rfl
@[simp] theorem comeAgain_power : (s.comeAgain e).power = s.power := rfl
@[simp] theorem comeAgain_mgmt : (s.comeAgain e).mgmt = s.mgmt := rfl
@[simp] theorem comeAgain_hubCycle : (s.comeAgain e).hubCycle = s.hubCycle := rfl
@[simp] theorem comeAgain_choices : (s.comeAgain e).choices = s.choices := rfl
@[simp] theorem comeAgain_issue : (s.comeAgain e).issue = s.issue := rfl
@[simp] theorem comeAgain_second : (s.comeAgain e).second = s.second := rfl
@[simp] theorem comeAgain_turn : (s.comeAgain e).turn = s.turn := rfl
@[simp] theorem comeAgain_clkAcc : (s.comeAgain e).clkAcc = s.clkAcc := rfl
@[simp] theorem comeAgain_nextId : (s.comeAgain e).nextId = s.nextId := rfl
@[simp] theorem comeAgain_news : (s.comeAgain e).news = s.news := rfl
end comeAgain

section dropEnded
variable (s : State)
@[simp] theorem dropEnded_mem : (s.dropEnded).mem = s.mem := rfl
@[simp] theorem dropEnded_reqs : (s.dropEnded).reqs = s.reqs := rfl
@[simp] theorem dropEnded_seqs : (s.dropEnded).seqs = s.seqs := rfl
@[simp] theorem dropEnded_retakes : (s.dropEnded).retakes = s.retakes := rfl
@[simp] theorem dropEnded_copies : (s.dropEnded).copies = s.copies := rfl
@[simp] theorem dropEnded_stage : (s.dropEnded).stage = s.stage := rfl
@[simp] theorem dropEnded_slates : (s.dropEnded).slates = s.slates := rfl
@[simp] theorem dropEnded_experts : (s.dropEnded).experts = s.experts := rfl
@[simp] theorem dropEnded_takes : (s.dropEnded).takes = s.takes := rfl
@[simp] theorem dropEnded_invals : (s.dropEnded).invals = s.invals := rfl
@[simp] theorem dropEnded_faults : (s.dropEnded).faults = s.faults := rfl
@[simp] theorem dropEnded_ckpt : (s.dropEnded).ckpt = s.ckpt := rfl
@[simp] theorem dropEnded_agents : (s.dropEnded).agents = s.agents := rfl
@[simp] theorem dropEnded_poison : (s.dropEnded).poison = s.poison := rfl
@[simp] theorem dropEnded_badRegs : (s.dropEnded).badRegs = s.badRegs := rfl
@[simp] theorem dropEnded_l1 : (s.dropEnded).l1 = s.l1 := rfl
@[simp] theorem dropEnded_l2 : (s.dropEnded).l2 = s.l2 := rfl
@[simp] theorem dropEnded_dir : (s.dropEnded).dir = s.dir := rfl
@[simp] theorem dropEnded_hostCache : (s.dropEnded).hostCache = s.hostCache := rfl
@[simp] theorem dropEnded_recs : (s.dropEnded).recs = s.recs := rfl
@[simp] theorem dropEnded_intents : (s.dropEnded).intents = s.intents := rfl
@[simp] theorem dropEnded_ib : (s.dropEnded).ib = s.ib := rfl
@[simp] theorem dropEnded_tlb : (s.dropEnded).tlb = s.tlb := rfl
@[simp] theorem dropEnded_cores : (s.dropEnded).cores = s.cores := rfl
@[simp] theorem dropEnded_dies : (s.dropEnded).dies = s.dies := rfl
@[simp] theorem dropEnded_blocks : (s.dropEnded).blocks = s.blocks := rfl
@[simp] theorem dropEnded_launches : (s.dropEnded).launches = s.launches := rfl
@[simp] theorem dropEnded_ctxs : (s.dropEnded).ctxs = s.ctxs := rfl
@[simp] theorem dropEnded_queues : (s.dropEnded).queues = s.queues := rfl
@[simp] theorem dropEnded_lastPicks : (s.dropEnded).lastPicks = s.lastPicks := rfl
@[simp] theorem dropEnded_periods : (s.dropEnded).periods = s.periods := rfl
@[simp] theorem dropEnded_calls : (s.dropEnded).calls = s.calls := rfl
@[simp] theorem dropEnded_held : (s.dropEnded).held = s.held := rfl
@[simp] theorem dropEnded_dailies : (s.dropEnded).dailies = s.dailies := rfl
@[simp] theorem dropEnded_hubid : (s.dropEnded).hubid = s.hubid := rfl
@[simp] theorem dropEnded_hubidSet : (s.dropEnded).hubidSet = s.hubidSet := rfl
@[simp] theorem dropEnded_links : (s.dropEnded).links = s.links := rfl
@[simp] theorem dropEnded_homeWins : (s.dropEnded).homeWins = s.homeWins := rfl
@[simp] theorem dropEnded_beatSent : (s.dropEnded).beatSent = s.beatSent := rfl
@[simp] theorem dropEnded_beatStop : (s.dropEnded).beatStop = s.beatStop := rfl
@[simp] theorem dropEnded_fw : (s.dropEnded).fw = s.fw := rfl
@[simp] theorem dropEnded_power : (s.dropEnded).power = s.power := rfl
@[simp] theorem dropEnded_mgmt : (s.dropEnded).mgmt = s.mgmt := rfl
@[simp] theorem dropEnded_hubCycle : (s.dropEnded).hubCycle = s.hubCycle := rfl
@[simp] theorem dropEnded_agenda : (s.dropEnded).agenda = s.agenda := rfl
@[simp] theorem dropEnded_choices : (s.dropEnded).choices = s.choices := rfl
@[simp] theorem dropEnded_issue : (s.dropEnded).issue = s.issue := rfl
@[simp] theorem dropEnded_second : (s.dropEnded).second = s.second := rfl
@[simp] theorem dropEnded_turn : (s.dropEnded).turn = s.turn := rfl
@[simp] theorem dropEnded_clkAcc : (s.dropEnded).clkAcc = s.clkAcc := rfl
@[simp] theorem dropEnded_nextId : (s.dropEnded).nextId = s.nextId := rfl
@[simp] theorem dropEnded_news : (s.dropEnded).news = s.news := rfl
end dropEnded

section denied
variable (s : State)
@[simp] theorem denied_mem : (s.denied).mem = s.mem := rfl
@[simp] theorem denied_reqs : (s.denied).reqs = s.reqs := rfl
@[simp] theorem denied_seqs : (s.denied).seqs = s.seqs := rfl
@[simp] theorem denied_retakes : (s.denied).retakes = s.retakes := rfl
@[simp] theorem denied_copies : (s.denied).copies = s.copies := rfl
@[simp] theorem denied_stage : (s.denied).stage = s.stage := rfl
@[simp] theorem denied_slates : (s.denied).slates = s.slates := rfl
@[simp] theorem denied_experts : (s.denied).experts = s.experts := rfl
@[simp] theorem denied_takes : (s.denied).takes = s.takes := rfl
@[simp] theorem denied_invals : (s.denied).invals = s.invals := rfl
@[simp] theorem denied_faults : (s.denied).faults = s.faults := rfl
@[simp] theorem denied_ckpt : (s.denied).ckpt = s.ckpt := rfl
@[simp] theorem denied_agents : (s.denied).agents = s.agents := rfl
@[simp] theorem denied_poison : (s.denied).poison = s.poison := rfl
@[simp] theorem denied_badRegs : (s.denied).badRegs = s.badRegs := rfl
@[simp] theorem denied_l1 : (s.denied).l1 = s.l1 := rfl
@[simp] theorem denied_l2 : (s.denied).l2 = s.l2 := rfl
@[simp] theorem denied_dir : (s.denied).dir = s.dir := rfl
@[simp] theorem denied_hostCache : (s.denied).hostCache = s.hostCache := rfl
@[simp] theorem denied_recs : (s.denied).recs = s.recs := rfl
@[simp] theorem denied_intents : (s.denied).intents = s.intents := rfl
@[simp] theorem denied_ib : (s.denied).ib = s.ib := rfl
@[simp] theorem denied_tlb : (s.denied).tlb = s.tlb := rfl
@[simp] theorem denied_walks : (s.denied).walks = s.walks := rfl
@[simp] theorem denied_cores : (s.denied).cores = s.cores := rfl
@[simp] theorem denied_dies : (s.denied).dies = s.dies := rfl
@[simp] theorem denied_blocks : (s.denied).blocks = s.blocks := rfl
@[simp] theorem denied_launches : (s.denied).launches = s.launches := rfl
@[simp] theorem denied_ctxs : (s.denied).ctxs = s.ctxs := rfl
@[simp] theorem denied_queues : (s.denied).queues = s.queues := rfl
@[simp] theorem denied_lastPicks : (s.denied).lastPicks = s.lastPicks := rfl
@[simp] theorem denied_periods : (s.denied).periods = s.periods := rfl
@[simp] theorem denied_calls : (s.denied).calls = s.calls := rfl
@[simp] theorem denied_held : (s.denied).held = s.held := rfl
@[simp] theorem denied_dailies : (s.denied).dailies = s.dailies := rfl
@[simp] theorem denied_hubid : (s.denied).hubid = s.hubid := rfl
@[simp] theorem denied_hubidSet : (s.denied).hubidSet = s.hubidSet := rfl
@[simp] theorem denied_links : (s.denied).links = s.links := rfl
@[simp] theorem denied_homeWins : (s.denied).homeWins = s.homeWins := rfl
@[simp] theorem denied_beatSent : (s.denied).beatSent = s.beatSent := rfl
@[simp] theorem denied_beatStop : (s.denied).beatStop = s.beatStop := rfl
@[simp] theorem denied_fw : (s.denied).fw = s.fw := rfl
@[simp] theorem denied_power : (s.denied).power = s.power := rfl
@[simp] theorem denied_hubCycle : (s.denied).hubCycle = s.hubCycle := rfl
@[simp] theorem denied_agenda : (s.denied).agenda = s.agenda := rfl
@[simp] theorem denied_choices : (s.denied).choices = s.choices := rfl
@[simp] theorem denied_issue : (s.denied).issue = s.issue := rfl
@[simp] theorem denied_second : (s.denied).second = s.second := rfl
@[simp] theorem denied_turn : (s.denied).turn = s.turn := rfl
@[simp] theorem denied_clkAcc : (s.denied).clkAcc = s.clkAcc := rfl
@[simp] theorem denied_nextId : (s.denied).nextId = s.nextId := rfl
@[simp] theorem denied_news : (s.denied).news = s.news := rfl
end denied

section fresh
variable (s : State)
@[simp] theorem fresh_mem : (s.fresh.2).mem = s.mem := rfl
@[simp] theorem fresh_reqs : (s.fresh.2).reqs = s.reqs := rfl
@[simp] theorem fresh_seqs : (s.fresh.2).seqs = s.seqs := rfl
@[simp] theorem fresh_retakes : (s.fresh.2).retakes = s.retakes := rfl
@[simp] theorem fresh_copies : (s.fresh.2).copies = s.copies := rfl
@[simp] theorem fresh_stage : (s.fresh.2).stage = s.stage := rfl
@[simp] theorem fresh_slates : (s.fresh.2).slates = s.slates := rfl
@[simp] theorem fresh_experts : (s.fresh.2).experts = s.experts := rfl
@[simp] theorem fresh_takes : (s.fresh.2).takes = s.takes := rfl
@[simp] theorem fresh_invals : (s.fresh.2).invals = s.invals := rfl
@[simp] theorem fresh_faults : (s.fresh.2).faults = s.faults := rfl
@[simp] theorem fresh_ckpt : (s.fresh.2).ckpt = s.ckpt := rfl
@[simp] theorem fresh_agents : (s.fresh.2).agents = s.agents := rfl
@[simp] theorem fresh_poison : (s.fresh.2).poison = s.poison := rfl
@[simp] theorem fresh_badRegs : (s.fresh.2).badRegs = s.badRegs := rfl
@[simp] theorem fresh_l1 : (s.fresh.2).l1 = s.l1 := rfl
@[simp] theorem fresh_l2 : (s.fresh.2).l2 = s.l2 := rfl
@[simp] theorem fresh_dir : (s.fresh.2).dir = s.dir := rfl
@[simp] theorem fresh_hostCache : (s.fresh.2).hostCache = s.hostCache := rfl
@[simp] theorem fresh_recs : (s.fresh.2).recs = s.recs := rfl
@[simp] theorem fresh_intents : (s.fresh.2).intents = s.intents := rfl
@[simp] theorem fresh_ib : (s.fresh.2).ib = s.ib := rfl
@[simp] theorem fresh_tlb : (s.fresh.2).tlb = s.tlb := rfl
@[simp] theorem fresh_walks : (s.fresh.2).walks = s.walks := rfl
@[simp] theorem fresh_cores : (s.fresh.2).cores = s.cores := rfl
@[simp] theorem fresh_dies : (s.fresh.2).dies = s.dies := rfl
@[simp] theorem fresh_blocks : (s.fresh.2).blocks = s.blocks := rfl
@[simp] theorem fresh_launches : (s.fresh.2).launches = s.launches := rfl
@[simp] theorem fresh_ctxs : (s.fresh.2).ctxs = s.ctxs := rfl
@[simp] theorem fresh_queues : (s.fresh.2).queues = s.queues := rfl
@[simp] theorem fresh_lastPicks : (s.fresh.2).lastPicks = s.lastPicks := rfl
@[simp] theorem fresh_periods : (s.fresh.2).periods = s.periods := rfl
@[simp] theorem fresh_calls : (s.fresh.2).calls = s.calls := rfl
@[simp] theorem fresh_held : (s.fresh.2).held = s.held := rfl
@[simp] theorem fresh_dailies : (s.fresh.2).dailies = s.dailies := rfl
@[simp] theorem fresh_hubid : (s.fresh.2).hubid = s.hubid := rfl
@[simp] theorem fresh_hubidSet : (s.fresh.2).hubidSet = s.hubidSet := rfl
@[simp] theorem fresh_links : (s.fresh.2).links = s.links := rfl
@[simp] theorem fresh_homeWins : (s.fresh.2).homeWins = s.homeWins := rfl
@[simp] theorem fresh_beatSent : (s.fresh.2).beatSent = s.beatSent := rfl
@[simp] theorem fresh_beatStop : (s.fresh.2).beatStop = s.beatStop := rfl
@[simp] theorem fresh_fw : (s.fresh.2).fw = s.fw := rfl
@[simp] theorem fresh_power : (s.fresh.2).power = s.power := rfl
@[simp] theorem fresh_mgmt : (s.fresh.2).mgmt = s.mgmt := rfl
@[simp] theorem fresh_hubCycle : (s.fresh.2).hubCycle = s.hubCycle := rfl
@[simp] theorem fresh_agenda : (s.fresh.2).agenda = s.agenda := rfl
@[simp] theorem fresh_choices : (s.fresh.2).choices = s.choices := rfl
@[simp] theorem fresh_issue : (s.fresh.2).issue = s.issue := rfl
@[simp] theorem fresh_second : (s.fresh.2).second = s.second := rfl
@[simp] theorem fresh_turn : (s.fresh.2).turn = s.turn := rfl
@[simp] theorem fresh_clkAcc : (s.fresh.2).clkAcc = s.clkAcc := rfl
@[simp] theorem fresh_news : (s.fresh.2).news = s.news := rfl
end fresh

section updDir
variable (s : State) (n : Nat) (f : DirEntry → DirEntry)
@[simp] theorem updDir_mem : (s.updDir n f).mem = s.mem := rfl
@[simp] theorem updDir_reqs : (s.updDir n f).reqs = s.reqs := rfl
@[simp] theorem updDir_seqs : (s.updDir n f).seqs = s.seqs := rfl
@[simp] theorem updDir_retakes : (s.updDir n f).retakes = s.retakes := rfl
@[simp] theorem updDir_copies : (s.updDir n f).copies = s.copies := rfl
@[simp] theorem updDir_stage : (s.updDir n f).stage = s.stage := rfl
@[simp] theorem updDir_slates : (s.updDir n f).slates = s.slates := rfl
@[simp] theorem updDir_experts : (s.updDir n f).experts = s.experts := rfl
@[simp] theorem updDir_takes : (s.updDir n f).takes = s.takes := rfl
@[simp] theorem updDir_invals : (s.updDir n f).invals = s.invals := rfl
@[simp] theorem updDir_faults : (s.updDir n f).faults = s.faults := rfl
@[simp] theorem updDir_ckpt : (s.updDir n f).ckpt = s.ckpt := rfl
@[simp] theorem updDir_agents : (s.updDir n f).agents = s.agents := rfl
@[simp] theorem updDir_poison : (s.updDir n f).poison = s.poison := rfl
@[simp] theorem updDir_badRegs : (s.updDir n f).badRegs = s.badRegs := rfl
@[simp] theorem updDir_l1 : (s.updDir n f).l1 = s.l1 := rfl
@[simp] theorem updDir_l2 : (s.updDir n f).l2 = s.l2 := rfl
@[simp] theorem updDir_hostCache : (s.updDir n f).hostCache = s.hostCache := rfl
@[simp] theorem updDir_recs : (s.updDir n f).recs = s.recs := rfl
@[simp] theorem updDir_intents : (s.updDir n f).intents = s.intents := rfl
@[simp] theorem updDir_ib : (s.updDir n f).ib = s.ib := rfl
@[simp] theorem updDir_tlb : (s.updDir n f).tlb = s.tlb := rfl
@[simp] theorem updDir_walks : (s.updDir n f).walks = s.walks := rfl
@[simp] theorem updDir_cores : (s.updDir n f).cores = s.cores := rfl
@[simp] theorem updDir_dies : (s.updDir n f).dies = s.dies := rfl
@[simp] theorem updDir_blocks : (s.updDir n f).blocks = s.blocks := rfl
@[simp] theorem updDir_launches : (s.updDir n f).launches = s.launches := rfl
@[simp] theorem updDir_ctxs : (s.updDir n f).ctxs = s.ctxs := rfl
@[simp] theorem updDir_queues : (s.updDir n f).queues = s.queues := rfl
@[simp] theorem updDir_lastPicks : (s.updDir n f).lastPicks = s.lastPicks := rfl
@[simp] theorem updDir_periods : (s.updDir n f).periods = s.periods := rfl
@[simp] theorem updDir_calls : (s.updDir n f).calls = s.calls := rfl
@[simp] theorem updDir_held : (s.updDir n f).held = s.held := rfl
@[simp] theorem updDir_dailies : (s.updDir n f).dailies = s.dailies := rfl
@[simp] theorem updDir_hubid : (s.updDir n f).hubid = s.hubid := rfl
@[simp] theorem updDir_hubidSet : (s.updDir n f).hubidSet = s.hubidSet := rfl
@[simp] theorem updDir_links : (s.updDir n f).links = s.links := rfl
@[simp] theorem updDir_homeWins : (s.updDir n f).homeWins = s.homeWins := rfl
@[simp] theorem updDir_beatSent : (s.updDir n f).beatSent = s.beatSent := rfl
@[simp] theorem updDir_beatStop : (s.updDir n f).beatStop = s.beatStop := rfl
@[simp] theorem updDir_fw : (s.updDir n f).fw = s.fw := rfl
@[simp] theorem updDir_power : (s.updDir n f).power = s.power := rfl
@[simp] theorem updDir_mgmt : (s.updDir n f).mgmt = s.mgmt := rfl
@[simp] theorem updDir_hubCycle : (s.updDir n f).hubCycle = s.hubCycle := rfl
@[simp] theorem updDir_agenda : (s.updDir n f).agenda = s.agenda := rfl
@[simp] theorem updDir_choices : (s.updDir n f).choices = s.choices := rfl
@[simp] theorem updDir_issue : (s.updDir n f).issue = s.issue := rfl
@[simp] theorem updDir_second : (s.updDir n f).second = s.second := rfl
@[simp] theorem updDir_turn : (s.updDir n f).turn = s.turn := rfl
@[simp] theorem updDir_clkAcc : (s.updDir n f).clkAcc = s.clkAcc := rfl
@[simp] theorem updDir_nextId : (s.updDir n f).nextId = s.nextId := rfl
@[simp] theorem updDir_news : (s.updDir n f).news = s.news := rfl
end updDir

section slateStore
variable (s : State) (u va k : Nat) (bs : List Byte)
@[simp] theorem slateStore_mem : (s.slateStore u va k bs).mem = s.mem := by unfold State.slateStore; split <;> rfl
@[simp] theorem slateStore_reqs : (s.slateStore u va k bs).reqs = s.reqs := by unfold State.slateStore; split <;> rfl
@[simp] theorem slateStore_seqs : (s.slateStore u va k bs).seqs = s.seqs := by unfold State.slateStore; split <;> rfl
@[simp] theorem slateStore_retakes : (s.slateStore u va k bs).retakes = s.retakes := by unfold State.slateStore; split <;> rfl
@[simp] theorem slateStore_copies : (s.slateStore u va k bs).copies = s.copies := by unfold State.slateStore; split <;> rfl
@[simp] theorem slateStore_stage : (s.slateStore u va k bs).stage = s.stage := by unfold State.slateStore; split <;> rfl
@[simp] theorem slateStore_slates : (s.slateStore u va k bs).slates = s.slates := by unfold State.slateStore; split <;> rfl
@[simp] theorem slateStore_experts : (s.slateStore u va k bs).experts = s.experts := by unfold State.slateStore; split <;> rfl
@[simp] theorem slateStore_takes : (s.slateStore u va k bs).takes = s.takes := by unfold State.slateStore; split <;> rfl
@[simp] theorem slateStore_invals : (s.slateStore u va k bs).invals = s.invals := by unfold State.slateStore; split <;> rfl
@[simp] theorem slateStore_faults : (s.slateStore u va k bs).faults = s.faults := by unfold State.slateStore; split <;> rfl
@[simp] theorem slateStore_ckpt : (s.slateStore u va k bs).ckpt = s.ckpt := by unfold State.slateStore; split <;> rfl
@[simp] theorem slateStore_agents : (s.slateStore u va k bs).agents = s.agents := by unfold State.slateStore; split <;> rfl
@[simp] theorem slateStore_poison : (s.slateStore u va k bs).poison = s.poison := by unfold State.slateStore; split <;> rfl
@[simp] theorem slateStore_badRegs : (s.slateStore u va k bs).badRegs = s.badRegs := by unfold State.slateStore; split <;> rfl
@[simp] theorem slateStore_l1 : (s.slateStore u va k bs).l1 = s.l1 := by unfold State.slateStore; split <;> rfl
@[simp] theorem slateStore_l2 : (s.slateStore u va k bs).l2 = s.l2 := by unfold State.slateStore; split <;> rfl
@[simp] theorem slateStore_dir : (s.slateStore u va k bs).dir = s.dir := by unfold State.slateStore; split <;> rfl
@[simp] theorem slateStore_hostCache : (s.slateStore u va k bs).hostCache = s.hostCache := by unfold State.slateStore; split <;> rfl
@[simp] theorem slateStore_recs : (s.slateStore u va k bs).recs = s.recs := by unfold State.slateStore; split <;> rfl
@[simp] theorem slateStore_intents : (s.slateStore u va k bs).intents = s.intents := by unfold State.slateStore; split <;> rfl
@[simp] theorem slateStore_ib : (s.slateStore u va k bs).ib = s.ib := by unfold State.slateStore; split <;> rfl
@[simp] theorem slateStore_tlb : (s.slateStore u va k bs).tlb = s.tlb := by unfold State.slateStore; split <;> rfl
@[simp] theorem slateStore_walks : (s.slateStore u va k bs).walks = s.walks := by unfold State.slateStore; split <;> rfl
@[simp] theorem slateStore_cores : (s.slateStore u va k bs).cores = s.cores := by unfold State.slateStore; split <;> rfl
@[simp] theorem slateStore_dies : (s.slateStore u va k bs).dies = s.dies := by unfold State.slateStore; split <;> rfl
@[simp] theorem slateStore_launches : (s.slateStore u va k bs).launches = s.launches := by unfold State.slateStore; split <;> rfl
@[simp] theorem slateStore_ctxs : (s.slateStore u va k bs).ctxs = s.ctxs := by unfold State.slateStore; split <;> rfl
@[simp] theorem slateStore_queues : (s.slateStore u va k bs).queues = s.queues := by unfold State.slateStore; split <;> rfl
@[simp] theorem slateStore_lastPicks : (s.slateStore u va k bs).lastPicks = s.lastPicks := by unfold State.slateStore; split <;> rfl
@[simp] theorem slateStore_periods : (s.slateStore u va k bs).periods = s.periods := by unfold State.slateStore; split <;> rfl
@[simp] theorem slateStore_calls : (s.slateStore u va k bs).calls = s.calls := by unfold State.slateStore; split <;> rfl
@[simp] theorem slateStore_held : (s.slateStore u va k bs).held = s.held := by unfold State.slateStore; split <;> rfl
@[simp] theorem slateStore_dailies : (s.slateStore u va k bs).dailies = s.dailies := by unfold State.slateStore; split <;> rfl
@[simp] theorem slateStore_hubid : (s.slateStore u va k bs).hubid = s.hubid := by unfold State.slateStore; split <;> rfl
@[simp] theorem slateStore_hubidSet : (s.slateStore u va k bs).hubidSet = s.hubidSet := by unfold State.slateStore; split <;> rfl
@[simp] theorem slateStore_links : (s.slateStore u va k bs).links = s.links := by unfold State.slateStore; split <;> rfl
@[simp] theorem slateStore_homeWins : (s.slateStore u va k bs).homeWins = s.homeWins := by unfold State.slateStore; split <;> rfl
@[simp] theorem slateStore_beatSent : (s.slateStore u va k bs).beatSent = s.beatSent := by unfold State.slateStore; split <;> rfl
@[simp] theorem slateStore_beatStop : (s.slateStore u va k bs).beatStop = s.beatStop := by unfold State.slateStore; split <;> rfl
@[simp] theorem slateStore_fw : (s.slateStore u va k bs).fw = s.fw := by unfold State.slateStore; split <;> rfl
@[simp] theorem slateStore_power : (s.slateStore u va k bs).power = s.power := by unfold State.slateStore; split <;> rfl
@[simp] theorem slateStore_mgmt : (s.slateStore u va k bs).mgmt = s.mgmt := by unfold State.slateStore; split <;> rfl
@[simp] theorem slateStore_hubCycle : (s.slateStore u va k bs).hubCycle = s.hubCycle := by unfold State.slateStore; split <;> rfl
@[simp] theorem slateStore_agenda : (s.slateStore u va k bs).agenda = s.agenda := by unfold State.slateStore; split <;> rfl
@[simp] theorem slateStore_choices : (s.slateStore u va k bs).choices = s.choices := by unfold State.slateStore; split <;> rfl
@[simp] theorem slateStore_issue : (s.slateStore u va k bs).issue = s.issue := by unfold State.slateStore; split <;> rfl
@[simp] theorem slateStore_second : (s.slateStore u va k bs).second = s.second := by unfold State.slateStore; split <;> rfl
@[simp] theorem slateStore_turn : (s.slateStore u va k bs).turn = s.turn := by unfold State.slateStore; split <;> rfl
@[simp] theorem slateStore_clkAcc : (s.slateStore u va k bs).clkAcc = s.clkAcc := by unfold State.slateStore; split <;> rfl
@[simp] theorem slateStore_nextId : (s.slateStore u va k bs).nextId = s.nextId := by unfold State.slateStore; split <;> rfl
@[simp] theorem slateStore_news : (s.slateStore u va k bs).news = s.news := by unfold State.slateStore; split <;> rfl
end slateStore

/-! ### What traffic can change -/

/-- A state after messages, requests without an owner, and writes of agents to memory: what these can change, and nothing else. -/
def Traffic (s t : State) : Prop := ∃ mem l2 dir hostCache tlb ckpt reqs seqs links nextId choices, t = { s with mem, l2, dir, hostCache, tlb, ckpt, reqs, seqs, links, nextId, choices }

theorem Traffic.refl (s : State) : Traffic s s := ⟨_, _, _, _, _, _, _, _, _, _, _, rfl⟩

theorem Traffic.trans {s t u : State} (h : Traffic s t) (k : Traffic t u) : Traffic s u := by
  obtain ⟨_, _, _, _, _, _, _, _, _, _, _, rfl⟩ := h
  obtain ⟨_, _, _, _, _, _, _, _, _, _, _, rfl⟩ := k
  exact ⟨_, _, _, _, _, _, _, _, _, _, _, rfl⟩

theorem Traffic.foldl {β : Type} (f : State → β → State) (h : ∀ s x, Traffic s (f s x)) (l : List β) (s : State) :
    Traffic s (l.foldl f s) := by
  induction l generalizing s with
  | nil => exact .refl s
  | cons x r ih => exact (h s x).trans (ih _)

theorem Traffic.foldlFst {β γ : Type} (f : State × γ → β → State × γ) (h : ∀ a x, Traffic a.1 (f a x).1) (l : List β)
    (a : State × γ) : Traffic a.1 (l.foldl f a).1 := by
  induction l generalizing a with
  | nil => exact .refl a.1
  | cons x r ih => exact (h a x).trans (ih _)

theorem sendMsg_traffic (s : State) (a c l : Nat) (m : LinkMsg) : Traffic s (s.sendMsg a c l m) := by
  unfold State.sendMsg State.choose
  dsimp only
  split
  · split
    · split <;> exact ⟨_, _, _, _, _, _, _, _, _, _, _, rfl⟩
    · exact ⟨_, _, _, _, _, _, _, _, _, _, _, rfl⟩
  · exact .refl s

theorem snoopOut_traffic (s : State) (l : Nat) (b : Bool) : Traffic s (s.snoopOut l b) := by
  unfold State.snoopOut
  split
  · exact .refl s
  · exact .foldl _ (fun s a => sendMsg_traffic s a 2 l _) _ s

theorem sendElem_traffic (s : State) (e : ReqElem) : Traffic s (s.sendElem e).1 := by
  unfold State.sendElem
  dsimp only
  repeat' split
  all_goals exact ⟨_, _, _, _, _, _, _, _, _, _, _, rfl⟩

theorem sendElems_traffic (s : State) (es : List ReqElem) : Traffic s (s.sendElems es).1 := by
  unfold State.sendElems
  exact Traffic.foldlFst (γ := List ReqElem) _ (fun a e => sendElem_traffic a.1 e) es (s, [])

theorem carryElems_traffic (s : State) (i c : Nat) (a b : List ReqElem) : Traffic s (s.carryElems i c a b) := by
  refine .foldl _ (fun s p => ?_) _ s
  split
  · exact sendMsg_traffic s _ _ _ _
  · exact .refl s

/-- What posting a request of no lane can do. -/
theorem postReq_traffic (s : State) (copy : Option Nat) (pc next op clk act : Nat) (w : Fields) (es : List ReqElem) :
    Traffic s (s.postReq none copy pc next op clk act w es) := by
  unfold State.postReq
  dsimp only
  refine Traffic.trans ?_ (carryElems_traffic _ _ _ _ _)
  refine Traffic.trans (t := s.fresh.2) ⟨_, _, _, _, _, _, _, _, _, _, _, rfl⟩ ?_
  exact (sendElems_traffic _ es).trans ⟨_, _, _, _, _, _, _, _, _, _, _, rfl⟩

theorem postWrite_traffic (s : State) (k : Nat) (bs : List Byte) : Traffic s (s.postWrite k bs) := by
  unfold State.postWrite
  dsimp only
  split
  · exact .refl s
  · split
    · exact Traffic.trans ⟨_, _, _, _, _, _, _, _, _, _, _, rfl⟩ (postReq_traffic _ _ _ _ _ _ _ _ _)
    · exact postReq_traffic _ _ _ _ _ _ _ _ _

theorem dropHolders_traffic (s : State) (ls : List Nat) : Traffic s (s.dropHolders ls) :=
  (Traffic.foldl _ (fun s k => snoopOut_traffic s k true) ls s).trans ⟨_, _, _, _, _, _, _, _, _, _, _, rfl⟩

theorem peerWrite_traffic (s : State) (l k : Nat) (bs : List Byte) : Traffic s (s.peerWrite l k bs) := by
  unfold State.peerWrite
  dsimp only
  split
  · exact ⟨_, _, _, _, _, _, _, _, _, _, _, rfl⟩
  · split
    · exact Traffic.trans ⟨_, _, _, _, _, _, _, _, _, _, _, rfl⟩ (postWrite_traffic _ _ _)
    · exact postWrite_traffic _ _ _

/-- What a write of an agent at the home of its bytes can do (R212). -/
theorem homeWrite_traffic (s : State) (pa : Nat) (bs : List Byte) : Traffic s (s.homeWrite pa bs) := by
  unfold State.homeWrite
  dsimp only
  split
  · exact .foldl _ (fun s l => peerWrite_traffic s l _ _) _ s
  · exact (dropHolders_traffic s _).trans ⟨_, _, _, _, _, _, _, _, _, _, _, rfl⟩

theorem putDirty_traffic (s : State) (a : Nat) (d : Bool) : Traffic s (s.putDirty a d) :=
  (homeWrite_traffic s _ _).trans ⟨_, _, _, _, _, _, _, _, _, _, _, rfl⟩

theorem sendPages_traffic (s : State) (p : KPage) (n : Nat) (r : Nat × Nat) : Traffic s (s.sendPages p n r) :=
  .foldl _ (fun s _ => postReq_traffic s _ _ _ _ _ _ _ _) _ s

theorem examine_traffic (s : State) (p : KPage) (n : Nat) : Traffic s (s.examine p n) := by
  unfold State.examine
  dsimp only
  split
  · exact ⟨_, _, _, _, _, _, _, _, _, _, _, rfl⟩
  · split
    · refine Traffic.trans ?_ (putDirty_traffic _ _ _)
      refine Traffic.trans ?_ ⟨_, _, _, _, _, _, _, _, _, _, _, rfl⟩
      refine Traffic.trans ?_ (Traffic.foldl _ (fun s f => (sendPages_traffic s p _ f).trans ⟨_, _, _, _, _, _, _, _, _, _, _, rfl⟩) _ _)
      exact ⟨_, _, _, _, _, _, _, _, _, _, _, rfl⟩
    · exact ⟨_, _, _, _, _, _, _, _, _, _, _, rfl⟩

/-- What setting D can do: nothing, D put into the entry, or the page examined first (R354, R368). -/
theorem setDirty_cases (s : State) (l : Leaf) :
    s.setDirty l = s ∨ s.setDirty l = s.putDirty l.entryAddr true ∨
      ∃ p, s.setDirty l = (s.examine p l.level).putDirty l.entryAddr true := by
  unfold State.setDirty
  dsimp only
  split
  · exact .inr (.inr ⟨_, rfl⟩)
  · split
    · exact .inl rfl
    · exact .inr (.inl rfl)

theorem setDirty_traffic (s : State) (l : Leaf) : Traffic s (s.setDirty l) := by
  rcases setDirty_cases s l with h | h | ⟨p, h⟩ <;> rw [h]
  · exact .refl s
  · exact putDirty_traffic s _ _
  · exact (examine_traffic s p _).trans (putDirty_traffic _ _ _)

section sendMsg
variable (s : State) (i c n : Nat) (m : LinkMsg)
@[simp] theorem sendMsg_retakes : (s.sendMsg i c n m).retakes = s.retakes := by obtain ⟨_, _, _, _, _, _, _, _, _, _, _, h⟩ := sendMsg_traffic s i c n m; rw [h]
@[simp] theorem sendMsg_copies : (s.sendMsg i c n m).copies = s.copies := by obtain ⟨_, _, _, _, _, _, _, _, _, _, _, h⟩ := sendMsg_traffic s i c n m; rw [h]
@[simp] theorem sendMsg_stage : (s.sendMsg i c n m).stage = s.stage := by obtain ⟨_, _, _, _, _, _, _, _, _, _, _, h⟩ := sendMsg_traffic s i c n m; rw [h]
@[simp] theorem sendMsg_slates : (s.sendMsg i c n m).slates = s.slates := by obtain ⟨_, _, _, _, _, _, _, _, _, _, _, h⟩ := sendMsg_traffic s i c n m; rw [h]
@[simp] theorem sendMsg_experts : (s.sendMsg i c n m).experts = s.experts := by obtain ⟨_, _, _, _, _, _, _, _, _, _, _, h⟩ := sendMsg_traffic s i c n m; rw [h]
@[simp] theorem sendMsg_takes : (s.sendMsg i c n m).takes = s.takes := by obtain ⟨_, _, _, _, _, _, _, _, _, _, _, h⟩ := sendMsg_traffic s i c n m; rw [h]
@[simp] theorem sendMsg_invals : (s.sendMsg i c n m).invals = s.invals := by obtain ⟨_, _, _, _, _, _, _, _, _, _, _, h⟩ := sendMsg_traffic s i c n m; rw [h]
@[simp] theorem sendMsg_faults : (s.sendMsg i c n m).faults = s.faults := by obtain ⟨_, _, _, _, _, _, _, _, _, _, _, h⟩ := sendMsg_traffic s i c n m; rw [h]
@[simp] theorem sendMsg_agents : (s.sendMsg i c n m).agents = s.agents := by obtain ⟨_, _, _, _, _, _, _, _, _, _, _, h⟩ := sendMsg_traffic s i c n m; rw [h]
@[simp] theorem sendMsg_poison : (s.sendMsg i c n m).poison = s.poison := by obtain ⟨_, _, _, _, _, _, _, _, _, _, _, h⟩ := sendMsg_traffic s i c n m; rw [h]
@[simp] theorem sendMsg_badRegs : (s.sendMsg i c n m).badRegs = s.badRegs := by obtain ⟨_, _, _, _, _, _, _, _, _, _, _, h⟩ := sendMsg_traffic s i c n m; rw [h]
@[simp] theorem sendMsg_l1 : (s.sendMsg i c n m).l1 = s.l1 := by obtain ⟨_, _, _, _, _, _, _, _, _, _, _, h⟩ := sendMsg_traffic s i c n m; rw [h]
@[simp] theorem sendMsg_recs : (s.sendMsg i c n m).recs = s.recs := by obtain ⟨_, _, _, _, _, _, _, _, _, _, _, h⟩ := sendMsg_traffic s i c n m; rw [h]
@[simp] theorem sendMsg_intents : (s.sendMsg i c n m).intents = s.intents := by obtain ⟨_, _, _, _, _, _, _, _, _, _, _, h⟩ := sendMsg_traffic s i c n m; rw [h]
@[simp] theorem sendMsg_ib : (s.sendMsg i c n m).ib = s.ib := by obtain ⟨_, _, _, _, _, _, _, _, _, _, _, h⟩ := sendMsg_traffic s i c n m; rw [h]
@[simp] theorem sendMsg_walks : (s.sendMsg i c n m).walks = s.walks := by obtain ⟨_, _, _, _, _, _, _, _, _, _, _, h⟩ := sendMsg_traffic s i c n m; rw [h]
@[simp] theorem sendMsg_cores : (s.sendMsg i c n m).cores = s.cores := by obtain ⟨_, _, _, _, _, _, _, _, _, _, _, h⟩ := sendMsg_traffic s i c n m; rw [h]
@[simp] theorem sendMsg_dies : (s.sendMsg i c n m).dies = s.dies := by obtain ⟨_, _, _, _, _, _, _, _, _, _, _, h⟩ := sendMsg_traffic s i c n m; rw [h]
@[simp] theorem sendMsg_blocks : (s.sendMsg i c n m).blocks = s.blocks := by obtain ⟨_, _, _, _, _, _, _, _, _, _, _, h⟩ := sendMsg_traffic s i c n m; rw [h]
@[simp] theorem sendMsg_launches : (s.sendMsg i c n m).launches = s.launches := by obtain ⟨_, _, _, _, _, _, _, _, _, _, _, h⟩ := sendMsg_traffic s i c n m; rw [h]
@[simp] theorem sendMsg_ctxs : (s.sendMsg i c n m).ctxs = s.ctxs := by obtain ⟨_, _, _, _, _, _, _, _, _, _, _, h⟩ := sendMsg_traffic s i c n m; rw [h]
@[simp] theorem sendMsg_queues : (s.sendMsg i c n m).queues = s.queues := by obtain ⟨_, _, _, _, _, _, _, _, _, _, _, h⟩ := sendMsg_traffic s i c n m; rw [h]
@[simp] theorem sendMsg_lastPicks : (s.sendMsg i c n m).lastPicks = s.lastPicks := by obtain ⟨_, _, _, _, _, _, _, _, _, _, _, h⟩ := sendMsg_traffic s i c n m; rw [h]
@[simp] theorem sendMsg_periods : (s.sendMsg i c n m).periods = s.periods := by obtain ⟨_, _, _, _, _, _, _, _, _, _, _, h⟩ := sendMsg_traffic s i c n m; rw [h]
@[simp] theorem sendMsg_calls : (s.sendMsg i c n m).calls = s.calls := by obtain ⟨_, _, _, _, _, _, _, _, _, _, _, h⟩ := sendMsg_traffic s i c n m; rw [h]
@[simp] theorem sendMsg_held : (s.sendMsg i c n m).held = s.held := by obtain ⟨_, _, _, _, _, _, _, _, _, _, _, h⟩ := sendMsg_traffic s i c n m; rw [h]
@[simp] theorem sendMsg_dailies : (s.sendMsg i c n m).dailies = s.dailies := by obtain ⟨_, _, _, _, _, _, _, _, _, _, _, h⟩ := sendMsg_traffic s i c n m; rw [h]
@[simp] theorem sendMsg_hubid : (s.sendMsg i c n m).hubid = s.hubid := by obtain ⟨_, _, _, _, _, _, _, _, _, _, _, h⟩ := sendMsg_traffic s i c n m; rw [h]
@[simp] theorem sendMsg_hubidSet : (s.sendMsg i c n m).hubidSet = s.hubidSet := by obtain ⟨_, _, _, _, _, _, _, _, _, _, _, h⟩ := sendMsg_traffic s i c n m; rw [h]
@[simp] theorem sendMsg_homeWins : (s.sendMsg i c n m).homeWins = s.homeWins := by obtain ⟨_, _, _, _, _, _, _, _, _, _, _, h⟩ := sendMsg_traffic s i c n m; rw [h]
@[simp] theorem sendMsg_beatSent : (s.sendMsg i c n m).beatSent = s.beatSent := by obtain ⟨_, _, _, _, _, _, _, _, _, _, _, h⟩ := sendMsg_traffic s i c n m; rw [h]
@[simp] theorem sendMsg_beatStop : (s.sendMsg i c n m).beatStop = s.beatStop := by obtain ⟨_, _, _, _, _, _, _, _, _, _, _, h⟩ := sendMsg_traffic s i c n m; rw [h]
@[simp] theorem sendMsg_fw : (s.sendMsg i c n m).fw = s.fw := by obtain ⟨_, _, _, _, _, _, _, _, _, _, _, h⟩ := sendMsg_traffic s i c n m; rw [h]
@[simp] theorem sendMsg_power : (s.sendMsg i c n m).power = s.power := by obtain ⟨_, _, _, _, _, _, _, _, _, _, _, h⟩ := sendMsg_traffic s i c n m; rw [h]
@[simp] theorem sendMsg_mgmt : (s.sendMsg i c n m).mgmt = s.mgmt := by obtain ⟨_, _, _, _, _, _, _, _, _, _, _, h⟩ := sendMsg_traffic s i c n m; rw [h]
@[simp] theorem sendMsg_hubCycle : (s.sendMsg i c n m).hubCycle = s.hubCycle := by obtain ⟨_, _, _, _, _, _, _, _, _, _, _, h⟩ := sendMsg_traffic s i c n m; rw [h]
@[simp] theorem sendMsg_agenda : (s.sendMsg i c n m).agenda = s.agenda := by obtain ⟨_, _, _, _, _, _, _, _, _, _, _, h⟩ := sendMsg_traffic s i c n m; rw [h]
@[simp] theorem sendMsg_issue : (s.sendMsg i c n m).issue = s.issue := by obtain ⟨_, _, _, _, _, _, _, _, _, _, _, h⟩ := sendMsg_traffic s i c n m; rw [h]
@[simp] theorem sendMsg_second : (s.sendMsg i c n m).second = s.second := by obtain ⟨_, _, _, _, _, _, _, _, _, _, _, h⟩ := sendMsg_traffic s i c n m; rw [h]
@[simp] theorem sendMsg_turn : (s.sendMsg i c n m).turn = s.turn := by obtain ⟨_, _, _, _, _, _, _, _, _, _, _, h⟩ := sendMsg_traffic s i c n m; rw [h]
@[simp] theorem sendMsg_clkAcc : (s.sendMsg i c n m).clkAcc = s.clkAcc := by obtain ⟨_, _, _, _, _, _, _, _, _, _, _, h⟩ := sendMsg_traffic s i c n m; rw [h]
@[simp] theorem sendMsg_news : (s.sendMsg i c n m).news = s.news := by obtain ⟨_, _, _, _, _, _, _, _, _, _, _, h⟩ := sendMsg_traffic s i c n m; rw [h]
end sendMsg

section homeWrite
variable (s : State) (n : Nat) (bs : List Byte)
@[simp] theorem homeWrite_retakes : (s.homeWrite n bs).retakes = s.retakes := by obtain ⟨_, _, _, _, _, _, _, _, _, _, _, h⟩ := homeWrite_traffic s n bs; rw [h]
@[simp] theorem homeWrite_copies : (s.homeWrite n bs).copies = s.copies := by obtain ⟨_, _, _, _, _, _, _, _, _, _, _, h⟩ := homeWrite_traffic s n bs; rw [h]
@[simp] theorem homeWrite_stage : (s.homeWrite n bs).stage = s.stage := by obtain ⟨_, _, _, _, _, _, _, _, _, _, _, h⟩ := homeWrite_traffic s n bs; rw [h]
@[simp] theorem homeWrite_slates : (s.homeWrite n bs).slates = s.slates := by obtain ⟨_, _, _, _, _, _, _, _, _, _, _, h⟩ := homeWrite_traffic s n bs; rw [h]
@[simp] theorem homeWrite_experts : (s.homeWrite n bs).experts = s.experts := by obtain ⟨_, _, _, _, _, _, _, _, _, _, _, h⟩ := homeWrite_traffic s n bs; rw [h]
@[simp] theorem homeWrite_takes : (s.homeWrite n bs).takes = s.takes := by obtain ⟨_, _, _, _, _, _, _, _, _, _, _, h⟩ := homeWrite_traffic s n bs; rw [h]
@[simp] theorem homeWrite_invals : (s.homeWrite n bs).invals = s.invals := by obtain ⟨_, _, _, _, _, _, _, _, _, _, _, h⟩ := homeWrite_traffic s n bs; rw [h]
@[simp] theorem homeWrite_faults : (s.homeWrite n bs).faults = s.faults := by obtain ⟨_, _, _, _, _, _, _, _, _, _, _, h⟩ := homeWrite_traffic s n bs; rw [h]
@[simp] theorem homeWrite_agents : (s.homeWrite n bs).agents = s.agents := by obtain ⟨_, _, _, _, _, _, _, _, _, _, _, h⟩ := homeWrite_traffic s n bs; rw [h]
@[simp] theorem homeWrite_poison : (s.homeWrite n bs).poison = s.poison := by obtain ⟨_, _, _, _, _, _, _, _, _, _, _, h⟩ := homeWrite_traffic s n bs; rw [h]
@[simp] theorem homeWrite_badRegs : (s.homeWrite n bs).badRegs = s.badRegs := by obtain ⟨_, _, _, _, _, _, _, _, _, _, _, h⟩ := homeWrite_traffic s n bs; rw [h]
@[simp] theorem homeWrite_l1 : (s.homeWrite n bs).l1 = s.l1 := by obtain ⟨_, _, _, _, _, _, _, _, _, _, _, h⟩ := homeWrite_traffic s n bs; rw [h]
@[simp] theorem homeWrite_recs : (s.homeWrite n bs).recs = s.recs := by obtain ⟨_, _, _, _, _, _, _, _, _, _, _, h⟩ := homeWrite_traffic s n bs; rw [h]
@[simp] theorem homeWrite_intents : (s.homeWrite n bs).intents = s.intents := by obtain ⟨_, _, _, _, _, _, _, _, _, _, _, h⟩ := homeWrite_traffic s n bs; rw [h]
@[simp] theorem homeWrite_ib : (s.homeWrite n bs).ib = s.ib := by obtain ⟨_, _, _, _, _, _, _, _, _, _, _, h⟩ := homeWrite_traffic s n bs; rw [h]
@[simp] theorem homeWrite_walks : (s.homeWrite n bs).walks = s.walks := by obtain ⟨_, _, _, _, _, _, _, _, _, _, _, h⟩ := homeWrite_traffic s n bs; rw [h]
@[simp] theorem homeWrite_cores : (s.homeWrite n bs).cores = s.cores := by obtain ⟨_, _, _, _, _, _, _, _, _, _, _, h⟩ := homeWrite_traffic s n bs; rw [h]
@[simp] theorem homeWrite_dies : (s.homeWrite n bs).dies = s.dies := by obtain ⟨_, _, _, _, _, _, _, _, _, _, _, h⟩ := homeWrite_traffic s n bs; rw [h]
@[simp] theorem homeWrite_blocks : (s.homeWrite n bs).blocks = s.blocks := by obtain ⟨_, _, _, _, _, _, _, _, _, _, _, h⟩ := homeWrite_traffic s n bs; rw [h]
@[simp] theorem homeWrite_launches : (s.homeWrite n bs).launches = s.launches := by obtain ⟨_, _, _, _, _, _, _, _, _, _, _, h⟩ := homeWrite_traffic s n bs; rw [h]
@[simp] theorem homeWrite_ctxs : (s.homeWrite n bs).ctxs = s.ctxs := by obtain ⟨_, _, _, _, _, _, _, _, _, _, _, h⟩ := homeWrite_traffic s n bs; rw [h]
@[simp] theorem homeWrite_queues : (s.homeWrite n bs).queues = s.queues := by obtain ⟨_, _, _, _, _, _, _, _, _, _, _, h⟩ := homeWrite_traffic s n bs; rw [h]
@[simp] theorem homeWrite_lastPicks : (s.homeWrite n bs).lastPicks = s.lastPicks := by obtain ⟨_, _, _, _, _, _, _, _, _, _, _, h⟩ := homeWrite_traffic s n bs; rw [h]
@[simp] theorem homeWrite_periods : (s.homeWrite n bs).periods = s.periods := by obtain ⟨_, _, _, _, _, _, _, _, _, _, _, h⟩ := homeWrite_traffic s n bs; rw [h]
@[simp] theorem homeWrite_calls : (s.homeWrite n bs).calls = s.calls := by obtain ⟨_, _, _, _, _, _, _, _, _, _, _, h⟩ := homeWrite_traffic s n bs; rw [h]
@[simp] theorem homeWrite_held : (s.homeWrite n bs).held = s.held := by obtain ⟨_, _, _, _, _, _, _, _, _, _, _, h⟩ := homeWrite_traffic s n bs; rw [h]
@[simp] theorem homeWrite_dailies : (s.homeWrite n bs).dailies = s.dailies := by obtain ⟨_, _, _, _, _, _, _, _, _, _, _, h⟩ := homeWrite_traffic s n bs; rw [h]
@[simp] theorem homeWrite_hubid : (s.homeWrite n bs).hubid = s.hubid := by obtain ⟨_, _, _, _, _, _, _, _, _, _, _, h⟩ := homeWrite_traffic s n bs; rw [h]
@[simp] theorem homeWrite_hubidSet : (s.homeWrite n bs).hubidSet = s.hubidSet := by obtain ⟨_, _, _, _, _, _, _, _, _, _, _, h⟩ := homeWrite_traffic s n bs; rw [h]
@[simp] theorem homeWrite_homeWins : (s.homeWrite n bs).homeWins = s.homeWins := by obtain ⟨_, _, _, _, _, _, _, _, _, _, _, h⟩ := homeWrite_traffic s n bs; rw [h]
@[simp] theorem homeWrite_beatSent : (s.homeWrite n bs).beatSent = s.beatSent := by obtain ⟨_, _, _, _, _, _, _, _, _, _, _, h⟩ := homeWrite_traffic s n bs; rw [h]
@[simp] theorem homeWrite_beatStop : (s.homeWrite n bs).beatStop = s.beatStop := by obtain ⟨_, _, _, _, _, _, _, _, _, _, _, h⟩ := homeWrite_traffic s n bs; rw [h]
@[simp] theorem homeWrite_fw : (s.homeWrite n bs).fw = s.fw := by obtain ⟨_, _, _, _, _, _, _, _, _, _, _, h⟩ := homeWrite_traffic s n bs; rw [h]
@[simp] theorem homeWrite_power : (s.homeWrite n bs).power = s.power := by obtain ⟨_, _, _, _, _, _, _, _, _, _, _, h⟩ := homeWrite_traffic s n bs; rw [h]
@[simp] theorem homeWrite_mgmt : (s.homeWrite n bs).mgmt = s.mgmt := by obtain ⟨_, _, _, _, _, _, _, _, _, _, _, h⟩ := homeWrite_traffic s n bs; rw [h]
@[simp] theorem homeWrite_hubCycle : (s.homeWrite n bs).hubCycle = s.hubCycle := by obtain ⟨_, _, _, _, _, _, _, _, _, _, _, h⟩ := homeWrite_traffic s n bs; rw [h]
@[simp] theorem homeWrite_agenda : (s.homeWrite n bs).agenda = s.agenda := by obtain ⟨_, _, _, _, _, _, _, _, _, _, _, h⟩ := homeWrite_traffic s n bs; rw [h]
@[simp] theorem homeWrite_issue : (s.homeWrite n bs).issue = s.issue := by obtain ⟨_, _, _, _, _, _, _, _, _, _, _, h⟩ := homeWrite_traffic s n bs; rw [h]
@[simp] theorem homeWrite_second : (s.homeWrite n bs).second = s.second := by obtain ⟨_, _, _, _, _, _, _, _, _, _, _, h⟩ := homeWrite_traffic s n bs; rw [h]
@[simp] theorem homeWrite_turn : (s.homeWrite n bs).turn = s.turn := by obtain ⟨_, _, _, _, _, _, _, _, _, _, _, h⟩ := homeWrite_traffic s n bs; rw [h]
@[simp] theorem homeWrite_clkAcc : (s.homeWrite n bs).clkAcc = s.clkAcc := by obtain ⟨_, _, _, _, _, _, _, _, _, _, _, h⟩ := homeWrite_traffic s n bs; rw [h]
@[simp] theorem homeWrite_news : (s.homeWrite n bs).news = s.news := by obtain ⟨_, _, _, _, _, _, _, _, _, _, _, h⟩ := homeWrite_traffic s n bs; rw [h]
end homeWrite

section setDirty
variable (s : State) (l : Leaf)
@[simp] theorem setDirty_retakes : (s.setDirty l).retakes = s.retakes := by obtain ⟨_, _, _, _, _, _, _, _, _, _, _, h⟩ := setDirty_traffic s l; rw [h]
@[simp] theorem setDirty_copies : (s.setDirty l).copies = s.copies := by obtain ⟨_, _, _, _, _, _, _, _, _, _, _, h⟩ := setDirty_traffic s l; rw [h]
@[simp] theorem setDirty_stage : (s.setDirty l).stage = s.stage := by obtain ⟨_, _, _, _, _, _, _, _, _, _, _, h⟩ := setDirty_traffic s l; rw [h]
@[simp] theorem setDirty_slates : (s.setDirty l).slates = s.slates := by obtain ⟨_, _, _, _, _, _, _, _, _, _, _, h⟩ := setDirty_traffic s l; rw [h]
@[simp] theorem setDirty_experts : (s.setDirty l).experts = s.experts := by obtain ⟨_, _, _, _, _, _, _, _, _, _, _, h⟩ := setDirty_traffic s l; rw [h]
@[simp] theorem setDirty_takes : (s.setDirty l).takes = s.takes := by obtain ⟨_, _, _, _, _, _, _, _, _, _, _, h⟩ := setDirty_traffic s l; rw [h]
@[simp] theorem setDirty_invals : (s.setDirty l).invals = s.invals := by obtain ⟨_, _, _, _, _, _, _, _, _, _, _, h⟩ := setDirty_traffic s l; rw [h]
@[simp] theorem setDirty_faults : (s.setDirty l).faults = s.faults := by obtain ⟨_, _, _, _, _, _, _, _, _, _, _, h⟩ := setDirty_traffic s l; rw [h]
@[simp] theorem setDirty_agents : (s.setDirty l).agents = s.agents := by obtain ⟨_, _, _, _, _, _, _, _, _, _, _, h⟩ := setDirty_traffic s l; rw [h]
@[simp] theorem setDirty_poison : (s.setDirty l).poison = s.poison := by obtain ⟨_, _, _, _, _, _, _, _, _, _, _, h⟩ := setDirty_traffic s l; rw [h]
@[simp] theorem setDirty_badRegs : (s.setDirty l).badRegs = s.badRegs := by obtain ⟨_, _, _, _, _, _, _, _, _, _, _, h⟩ := setDirty_traffic s l; rw [h]
@[simp] theorem setDirty_l1 : (s.setDirty l).l1 = s.l1 := by obtain ⟨_, _, _, _, _, _, _, _, _, _, _, h⟩ := setDirty_traffic s l; rw [h]
@[simp] theorem setDirty_recs : (s.setDirty l).recs = s.recs := by obtain ⟨_, _, _, _, _, _, _, _, _, _, _, h⟩ := setDirty_traffic s l; rw [h]
@[simp] theorem setDirty_intents : (s.setDirty l).intents = s.intents := by obtain ⟨_, _, _, _, _, _, _, _, _, _, _, h⟩ := setDirty_traffic s l; rw [h]
@[simp] theorem setDirty_ib : (s.setDirty l).ib = s.ib := by obtain ⟨_, _, _, _, _, _, _, _, _, _, _, h⟩ := setDirty_traffic s l; rw [h]
@[simp] theorem setDirty_walks : (s.setDirty l).walks = s.walks := by obtain ⟨_, _, _, _, _, _, _, _, _, _, _, h⟩ := setDirty_traffic s l; rw [h]
@[simp] theorem setDirty_cores : (s.setDirty l).cores = s.cores := by obtain ⟨_, _, _, _, _, _, _, _, _, _, _, h⟩ := setDirty_traffic s l; rw [h]
@[simp] theorem setDirty_dies : (s.setDirty l).dies = s.dies := by obtain ⟨_, _, _, _, _, _, _, _, _, _, _, h⟩ := setDirty_traffic s l; rw [h]
@[simp] theorem setDirty_blocks : (s.setDirty l).blocks = s.blocks := by obtain ⟨_, _, _, _, _, _, _, _, _, _, _, h⟩ := setDirty_traffic s l; rw [h]
@[simp] theorem setDirty_launches : (s.setDirty l).launches = s.launches := by obtain ⟨_, _, _, _, _, _, _, _, _, _, _, h⟩ := setDirty_traffic s l; rw [h]
@[simp] theorem setDirty_ctxs : (s.setDirty l).ctxs = s.ctxs := by obtain ⟨_, _, _, _, _, _, _, _, _, _, _, h⟩ := setDirty_traffic s l; rw [h]
@[simp] theorem setDirty_queues : (s.setDirty l).queues = s.queues := by obtain ⟨_, _, _, _, _, _, _, _, _, _, _, h⟩ := setDirty_traffic s l; rw [h]
@[simp] theorem setDirty_lastPicks : (s.setDirty l).lastPicks = s.lastPicks := by obtain ⟨_, _, _, _, _, _, _, _, _, _, _, h⟩ := setDirty_traffic s l; rw [h]
@[simp] theorem setDirty_periods : (s.setDirty l).periods = s.periods := by obtain ⟨_, _, _, _, _, _, _, _, _, _, _, h⟩ := setDirty_traffic s l; rw [h]
@[simp] theorem setDirty_calls : (s.setDirty l).calls = s.calls := by obtain ⟨_, _, _, _, _, _, _, _, _, _, _, h⟩ := setDirty_traffic s l; rw [h]
@[simp] theorem setDirty_held : (s.setDirty l).held = s.held := by obtain ⟨_, _, _, _, _, _, _, _, _, _, _, h⟩ := setDirty_traffic s l; rw [h]
@[simp] theorem setDirty_dailies : (s.setDirty l).dailies = s.dailies := by obtain ⟨_, _, _, _, _, _, _, _, _, _, _, h⟩ := setDirty_traffic s l; rw [h]
@[simp] theorem setDirty_hubid : (s.setDirty l).hubid = s.hubid := by obtain ⟨_, _, _, _, _, _, _, _, _, _, _, h⟩ := setDirty_traffic s l; rw [h]
@[simp] theorem setDirty_hubidSet : (s.setDirty l).hubidSet = s.hubidSet := by obtain ⟨_, _, _, _, _, _, _, _, _, _, _, h⟩ := setDirty_traffic s l; rw [h]
@[simp] theorem setDirty_homeWins : (s.setDirty l).homeWins = s.homeWins := by obtain ⟨_, _, _, _, _, _, _, _, _, _, _, h⟩ := setDirty_traffic s l; rw [h]
@[simp] theorem setDirty_beatSent : (s.setDirty l).beatSent = s.beatSent := by obtain ⟨_, _, _, _, _, _, _, _, _, _, _, h⟩ := setDirty_traffic s l; rw [h]
@[simp] theorem setDirty_beatStop : (s.setDirty l).beatStop = s.beatStop := by obtain ⟨_, _, _, _, _, _, _, _, _, _, _, h⟩ := setDirty_traffic s l; rw [h]
@[simp] theorem setDirty_fw : (s.setDirty l).fw = s.fw := by obtain ⟨_, _, _, _, _, _, _, _, _, _, _, h⟩ := setDirty_traffic s l; rw [h]
@[simp] theorem setDirty_power : (s.setDirty l).power = s.power := by obtain ⟨_, _, _, _, _, _, _, _, _, _, _, h⟩ := setDirty_traffic s l; rw [h]
@[simp] theorem setDirty_mgmt : (s.setDirty l).mgmt = s.mgmt := by obtain ⟨_, _, _, _, _, _, _, _, _, _, _, h⟩ := setDirty_traffic s l; rw [h]
@[simp] theorem setDirty_hubCycle : (s.setDirty l).hubCycle = s.hubCycle := by obtain ⟨_, _, _, _, _, _, _, _, _, _, _, h⟩ := setDirty_traffic s l; rw [h]
@[simp] theorem setDirty_agenda : (s.setDirty l).agenda = s.agenda := by obtain ⟨_, _, _, _, _, _, _, _, _, _, _, h⟩ := setDirty_traffic s l; rw [h]
@[simp] theorem setDirty_issue : (s.setDirty l).issue = s.issue := by obtain ⟨_, _, _, _, _, _, _, _, _, _, _, h⟩ := setDirty_traffic s l; rw [h]
@[simp] theorem setDirty_second : (s.setDirty l).second = s.second := by obtain ⟨_, _, _, _, _, _, _, _, _, _, _, h⟩ := setDirty_traffic s l; rw [h]
@[simp] theorem setDirty_turn : (s.setDirty l).turn = s.turn := by obtain ⟨_, _, _, _, _, _, _, _, _, _, _, h⟩ := setDirty_traffic s l; rw [h]
@[simp] theorem setDirty_clkAcc : (s.setDirty l).clkAcc = s.clkAcc := by obtain ⟨_, _, _, _, _, _, _, _, _, _, _, h⟩ := setDirty_traffic s l; rw [h]
@[simp] theorem setDirty_news : (s.setDirty l).news = s.news := by obtain ⟨_, _, _, _, _, _, _, _, _, _, _, h⟩ := setDirty_traffic s l; rw [h]
end setDirty

/-- A reel none of whose nodes is spilled changes its block alone (R164). -/
theorem setReel_window (s : State) (u : Nat) (r : Reel) (h : r.nodes.any (·.spilled) = false) :
    s.setReel u r = s.updBlock u fun b => { b with body := { b.body with reel := r } } := by
  unfold State.setReel; split <;> simp [h]

section Block_updCrew
variable (b : Block) (i : Nat) (f : Crew → Crew)
@[simp] theorem Block_updCrew_uid : (b.updCrew i f).uid = b.uid := rfl
@[simp] theorem Block_updCrew_ctx : (b.updCrew i f).ctx = b.ctx := rfl
@[simp] theorem Block_updCrew_launch : (b.updCrew i f).launch = b.launch := rfl
@[simp] theorem Block_updCrew_lin : (b.updCrew i f).lin = b.lin := rfl
@[simp] theorem Block_updCrew_attempt : (b.updCrew i f).attempt = b.attempt := rfl
@[simp] theorem Block_updCrew_state : (b.updCrew i f).state = b.state := rfl
@[simp] theorem Block_updCrew_die : (b.updCrew i f).die = b.die := rfl
@[simp] theorem Block_updCrew_core : (b.updCrew i f).core = b.core := rfl
@[simp] theorem Block_updCrew_rslot : (b.updCrew i f).rslot = b.rslot := rfl
@[simp] theorem Block_updCrew_sheet : (b.updCrew i f).sheet = b.sheet := rfl
@[simp] theorem Block_updCrew_isDirector : (b.updCrew i f).isDirector = b.isDirector := rfl
@[simp] theorem Block_updCrew_privBack : (b.updCrew i f).privBack = b.privBack := rfl
@[simp] theorem Block_updCrew_inside : (b.updCrew i f).inside = b.inside := rfl
@[simp] theorem Block_updCrew_snap : (b.updCrew i f).snap = b.snap := rfl
@[simp] theorem Block_updCrew_deferred : (b.updCrew i f).deferred = b.deferred := rfl
@[simp] theorem Block_updCrew_heldStage : (b.updCrew i f).heldStage = b.heldStage := rfl
@[simp] theorem Block_updCrew_tiles : (b.updCrew i f).tiles = b.tiles := rfl
@[simp] theorem Block_updCrew_cmds : (b.updCrew i f).cmds = b.cmds := rfl
@[simp] theorem Block_updCrew_late : (b.updCrew i f).late = b.late := rfl
@[simp] theorem Block_updCrew_vclock : (b.updCrew i f).vclock = b.vclock := rfl
@[simp] theorem Block_updCrew_wantsArray : (b.updCrew i f).wantsArray = b.wantsArray := rfl
end Block_updCrew

section Block_updTile
variable (b : Block) (n : Nat) (f : Tile → Tile)
@[simp] theorem Block_updTile_uid : (b.updTile n f).uid = b.uid := rfl
@[simp] theorem Block_updTile_ctx : (b.updTile n f).ctx = b.ctx := rfl
@[simp] theorem Block_updTile_launch : (b.updTile n f).launch = b.launch := rfl
@[simp] theorem Block_updTile_lin : (b.updTile n f).lin = b.lin := rfl
@[simp] theorem Block_updTile_attempt : (b.updTile n f).attempt = b.attempt := rfl
@[simp] theorem Block_updTile_state : (b.updTile n f).state = b.state := rfl
@[simp] theorem Block_updTile_die : (b.updTile n f).die = b.die := rfl
@[simp] theorem Block_updTile_core : (b.updTile n f).core = b.core := rfl
@[simp] theorem Block_updTile_rslot : (b.updTile n f).rslot = b.rslot := rfl
@[simp] theorem Block_updTile_sheet : (b.updTile n f).sheet = b.sheet := rfl
@[simp] theorem Block_updTile_isDirector : (b.updTile n f).isDirector = b.isDirector := rfl
@[simp] theorem Block_updTile_body : (b.updTile n f).body = b.body := rfl
@[simp] theorem Block_updTile_privBack : (b.updTile n f).privBack = b.privBack := rfl
@[simp] theorem Block_updTile_inside : (b.updTile n f).inside = b.inside := rfl
@[simp] theorem Block_updTile_snap : (b.updTile n f).snap = b.snap := rfl
@[simp] theorem Block_updTile_deferred : (b.updTile n f).deferred = b.deferred := rfl
@[simp] theorem Block_updTile_heldStage : (b.updTile n f).heldStage = b.heldStage := rfl
@[simp] theorem Block_updTile_cmds : (b.updTile n f).cmds = b.cmds := rfl
@[simp] theorem Block_updTile_late : (b.updTile n f).late = b.late := rfl
@[simp] theorem Block_updTile_vclock : (b.updTile n f).vclock = b.vclock := rfl
@[simp] theorem Block_updTile_wantsArray : (b.updTile n f).wantsArray = b.wantsArray := rfl
end Block_updTile

section Crew_updThread
variable (c : Crew) (l : Nat) (f : Thread → Thread)
@[simp] theorem Crew_updThread_idx : (c.updThread l f).idx = c.idx := rfl
@[simp] theorem Crew_updThread_live : (c.updThread l f).live = c.live := rfl
@[simp] theorem Crew_updThread_k : (c.updThread l f).k = c.k := rfl
@[simp] theorem Crew_updThread_j : (c.updThread l f).j = c.j := rfl
@[simp] theorem Crew_updThread_fstat : (c.updThread l f).fstat = c.fstat := rfl
@[simp] theorem Crew_updThread_fmask : (c.updThread l f).fmask = c.fmask := rfl
@[simp] theorem Crew_updThread_role : (c.updThread l f).role = c.role := rfl
@[simp] theorem Crew_updThread_slice : (c.updThread l f).slice = c.slice := rfl
@[simp] theorem Crew_updThread_slot : (c.updThread l f).slot = c.slot := rfl
@[simp] theorem Crew_updThread_bundles : (c.updThread l f).bundles = c.bundles := rfl
@[simp] theorem Crew_updThread_lastPick : (c.updThread l f).lastPick = c.lastPick := rfl
@[simp] theorem Crew_updThread_holdFor : (c.updThread l f).holdFor = c.holdFor := rfl
@[simp] theorem Crew_updThread_heldPicks : (c.updThread l f).heldPicks = c.heldPicks := rfl
@[simp] theorem Crew_updThread_skipCycle : (c.updThread l f).skipCycle = c.skipCycle := rfl
@[simp] theorem Crew_updThread_cyc : (c.updThread l f).cyc = c.cyc := rfl
@[simp] theorem Crew_updThread_cycFstat : (c.updThread l f).cycFstat = c.cycFstat := rfl
@[simp] theorem Crew_updThread_cycFmask : (c.updThread l f).cycFmask = c.cycFmask := rfl
@[simp] theorem Crew_updThread_cycClr : (c.updThread l f).cycClr = c.cycClr := rfl
@[simp] theorem Crew_updThread_cycFaults : (c.updThread l f).cycFaults = c.cycFaults := rfl
@[simp] theorem Crew_updThread_tmr : (c.updThread l f).tmr = c.tmr := rfl
@[simp] theorem Crew_updThread_fired : (c.updThread l f).fired = c.fired := rfl
@[simp] theorem Crew_updThread_owed : (c.updThread l f).owed = c.owed := rfl
@[simp] theorem Crew_updThread_dailies : (c.updThread l f).dailies = c.dailies := rfl
@[simp] theorem Crew_updThread_dailyAge : (c.updThread l f).dailyAge = c.dailyAge := rfl
end Crew_updThread

section Crew_removeFromMasks
variable (c : Crew) (j m : Nat)
@[simp] theorem Crew_removeFromMasks_idx : (c.removeFromMasks j m).idx = c.idx := rfl
@[simp] theorem Crew_removeFromMasks_live : (c.removeFromMasks j m).live = c.live := rfl
@[simp] theorem Crew_removeFromMasks_k : (c.removeFromMasks j m).k = c.k := rfl
@[simp] theorem Crew_removeFromMasks_fstat : (c.removeFromMasks j m).fstat = c.fstat := rfl
@[simp] theorem Crew_removeFromMasks_fmask : (c.removeFromMasks j m).fmask = c.fmask := rfl
@[simp] theorem Crew_removeFromMasks_role : (c.removeFromMasks j m).role = c.role := rfl
@[simp] theorem Crew_removeFromMasks_slice : (c.removeFromMasks j m).slice = c.slice := rfl
@[simp] theorem Crew_removeFromMasks_slot : (c.removeFromMasks j m).slot = c.slot := rfl
@[simp] theorem Crew_removeFromMasks_threads : (c.removeFromMasks j m).threads = c.threads := rfl
@[simp] theorem Crew_removeFromMasks_bundles : (c.removeFromMasks j m).bundles = c.bundles := rfl
@[simp] theorem Crew_removeFromMasks_lastPick : (c.removeFromMasks j m).lastPick = c.lastPick := rfl
@[simp] theorem Crew_removeFromMasks_holdFor : (c.removeFromMasks j m).holdFor = c.holdFor := rfl
@[simp] theorem Crew_removeFromMasks_heldPicks : (c.removeFromMasks j m).heldPicks = c.heldPicks := rfl
@[simp] theorem Crew_removeFromMasks_skipCycle : (c.removeFromMasks j m).skipCycle = c.skipCycle := rfl
@[simp] theorem Crew_removeFromMasks_cyc : (c.removeFromMasks j m).cyc = c.cyc := rfl
@[simp] theorem Crew_removeFromMasks_cycFstat : (c.removeFromMasks j m).cycFstat = c.cycFstat := rfl
@[simp] theorem Crew_removeFromMasks_cycFmask : (c.removeFromMasks j m).cycFmask = c.cycFmask := rfl
@[simp] theorem Crew_removeFromMasks_cycClr : (c.removeFromMasks j m).cycClr = c.cycClr := rfl
@[simp] theorem Crew_removeFromMasks_cycFaults : (c.removeFromMasks j m).cycFaults = c.cycFaults := rfl
@[simp] theorem Crew_removeFromMasks_tmr : (c.removeFromMasks j m).tmr = c.tmr := rfl
@[simp] theorem Crew_removeFromMasks_fired : (c.removeFromMasks j m).fired = c.fired := rfl
@[simp] theorem Crew_removeFromMasks_owed : (c.removeFromMasks j m).owed = c.owed := rfl
@[simp] theorem Crew_removeFromMasks_dailies : (c.removeFromMasks j m).dailies = c.dailies := rfl
@[simp] theorem Crew_removeFromMasks_dailyAge : (c.removeFromMasks j m).dailyAge = c.dailyAge := rfl
end Crew_removeFromMasks

section Crew_clearMask
variable (c : Crew) (n : Nat)
@[simp] theorem Crew_clearMask_idx : (c.clearMask n).idx = c.idx := rfl
@[simp] theorem Crew_clearMask_live : (c.clearMask n).live = c.live := rfl
@[simp] theorem Crew_clearMask_k : (c.clearMask n).k = c.k := rfl
@[simp] theorem Crew_clearMask_fstat : (c.clearMask n).fstat = c.fstat := rfl
@[simp] theorem Crew_clearMask_fmask : (c.clearMask n).fmask = c.fmask := rfl
@[simp] theorem Crew_clearMask_role : (c.clearMask n).role = c.role := rfl
@[simp] theorem Crew_clearMask_slice : (c.clearMask n).slice = c.slice := rfl
@[simp] theorem Crew_clearMask_slot : (c.clearMask n).slot = c.slot := rfl
@[simp] theorem Crew_clearMask_threads : (c.clearMask n).threads = c.threads := rfl
@[simp] theorem Crew_clearMask_bundles : (c.clearMask n).bundles = c.bundles := rfl
@[simp] theorem Crew_clearMask_lastPick : (c.clearMask n).lastPick = c.lastPick := rfl
@[simp] theorem Crew_clearMask_holdFor : (c.clearMask n).holdFor = c.holdFor := rfl
@[simp] theorem Crew_clearMask_heldPicks : (c.clearMask n).heldPicks = c.heldPicks := rfl
@[simp] theorem Crew_clearMask_skipCycle : (c.clearMask n).skipCycle = c.skipCycle := rfl
@[simp] theorem Crew_clearMask_cyc : (c.clearMask n).cyc = c.cyc := rfl
@[simp] theorem Crew_clearMask_cycFstat : (c.clearMask n).cycFstat = c.cycFstat := rfl
@[simp] theorem Crew_clearMask_cycFmask : (c.clearMask n).cycFmask = c.cycFmask := rfl
@[simp] theorem Crew_clearMask_cycFaults : (c.clearMask n).cycFaults = c.cycFaults := rfl
@[simp] theorem Crew_clearMask_tmr : (c.clearMask n).tmr = c.tmr := rfl
@[simp] theorem Crew_clearMask_fired : (c.clearMask n).fired = c.fired := rfl
@[simp] theorem Crew_clearMask_owed : (c.clearMask n).owed = c.owed := rfl
@[simp] theorem Crew_clearMask_dailies : (c.clearMask n).dailies = c.dailies := rfl
@[simp] theorem Crew_clearMask_dailyAge : (c.clearMask n).dailyAge = c.dailyAge := rfl
end Crew_clearMask

section Crew_setFmask
variable (c : Crew) (m : Nat)
@[simp] theorem Crew_setFmask_idx : (c.setFmask m).idx = c.idx := rfl
@[simp] theorem Crew_setFmask_live : (c.setFmask m).live = c.live := rfl
@[simp] theorem Crew_setFmask_k : (c.setFmask m).k = c.k := rfl
@[simp] theorem Crew_setFmask_j : (c.setFmask m).j = c.j := rfl
@[simp] theorem Crew_setFmask_fstat : (c.setFmask m).fstat = c.fstat := rfl
@[simp] theorem Crew_setFmask_role : (c.setFmask m).role = c.role := rfl
@[simp] theorem Crew_setFmask_slice : (c.setFmask m).slice = c.slice := rfl
@[simp] theorem Crew_setFmask_slot : (c.setFmask m).slot = c.slot := rfl
@[simp] theorem Crew_setFmask_threads : (c.setFmask m).threads = c.threads := rfl
@[simp] theorem Crew_setFmask_bundles : (c.setFmask m).bundles = c.bundles := rfl
@[simp] theorem Crew_setFmask_lastPick : (c.setFmask m).lastPick = c.lastPick := rfl
@[simp] theorem Crew_setFmask_holdFor : (c.setFmask m).holdFor = c.holdFor := rfl
@[simp] theorem Crew_setFmask_heldPicks : (c.setFmask m).heldPicks = c.heldPicks := rfl
@[simp] theorem Crew_setFmask_skipCycle : (c.setFmask m).skipCycle = c.skipCycle := rfl
@[simp] theorem Crew_setFmask_cyc : (c.setFmask m).cyc = c.cyc := rfl
@[simp] theorem Crew_setFmask_cycFstat : (c.setFmask m).cycFstat = c.cycFstat := rfl
@[simp] theorem Crew_setFmask_cycClr : (c.setFmask m).cycClr = c.cycClr := rfl
@[simp] theorem Crew_setFmask_cycFaults : (c.setFmask m).cycFaults = c.cycFaults := rfl
@[simp] theorem Crew_setFmask_tmr : (c.setFmask m).tmr = c.tmr := rfl
@[simp] theorem Crew_setFmask_fired : (c.setFmask m).fired = c.fired := rfl
@[simp] theorem Crew_setFmask_owed : (c.setFmask m).owed = c.owed := rfl
@[simp] theorem Crew_setFmask_dailies : (c.setFmask m).dailies = c.dailies := rfl
@[simp] theorem Crew_setFmask_dailyAge : (c.setFmask m).dailyAge = c.dailyAge := rfl
end Crew_setFmask

section Thread_loseLatches
variable (t : Thread) 
@[simp] theorem Thread_loseLatches_pc : (t.loseLatches).pc = t.pc := rfl
@[simp] theorem Thread_loseLatches_g : (t.loseLatches).g = t.g := rfl
@[simp] theorem Thread_loseLatches_o : (t.loseLatches).o = t.o := rfl
@[simp] theorem Thread_loseLatches_q : (t.loseLatches).q = t.q := rfl
@[simp] theorem Thread_loseLatches_p : (t.loseLatches).p = t.p := rfl
@[simp] theorem Thread_loseLatches_rand : (t.loseLatches).rand = t.rand := rfl
@[simp] theorem Thread_loseLatches_batch : (t.loseLatches).batch = t.batch := rfl
@[simp] theorem Thread_loseLatches_depth : (t.loseLatches).depth = t.depth := rfl
@[simp] theorem Thread_loseLatches_st : (t.loseLatches).st = t.st := rfl
@[simp] theorem Thread_loseLatches_age : (t.loseLatches).age = t.age := rfl
@[simp] theorem Thread_loseLatches_stale : (t.loseLatches).stale = t.stale := rfl
@[simp] theorem Thread_loseLatches_lastIb : (t.loseLatches).lastIb = t.lastIb := rfl
@[simp] theorem Thread_loseLatches_stallUntil : (t.loseLatches).stallUntil = t.stallUntil := rfl
@[simp] theorem Thread_loseLatches_yielded : (t.loseLatches).yielded = t.yielded := rfl
@[simp] theorem Thread_loseLatches_ecause : (t.loseLatches).ecause = t.ecause := rfl
@[simp] theorem Thread_loseLatches_epc : (t.loseLatches).epc = t.epc := rfl
@[simp] theorem Thread_loseLatches_eaddr : (t.loseLatches).eaddr = t.eaddr := rfl
@[simp] theorem Thread_loseLatches_einfo : (t.loseLatches).einfo = t.einfo := rfl
@[simp] theorem Thread_loseLatches_emask : (t.loseLatches).emask = t.emask := rfl
@[simp] theorem Thread_loseLatches_elanes : (t.loseLatches).elanes = t.elanes := rfl
@[simp] theorem Thread_loseLatches_hmode : (t.loseLatches).hmode = t.hmode := rfl
@[simp] theorem Thread_loseLatches_reqs : (t.loseLatches).reqs = t.reqs := rfl
@[simp] theorem Thread_loseLatches_sweepI : (t.loseLatches).sweepI = t.sweepI := rfl
@[simp] theorem Thread_loseLatches_resumeI : (t.loseLatches).resumeI = t.resumeI := rfl
@[simp] theorem Thread_loseLatches_keep : (t.loseLatches).keep = t.keep := rfl
@[simp] theorem Thread_loseLatches_again : (t.loseLatches).again = t.again := rfl
end Thread_loseLatches

section Thread_push
variable (t : Thread) (v : Nat) (b : Bool)
@[simp] theorem Thread_push_pc : (t.push v b).pc = t.pc := rfl
@[simp] theorem Thread_push_g : (t.push v b).g = t.g := rfl
@[simp] theorem Thread_push_o : (t.push v b).o = t.o := rfl
@[simp] theorem Thread_push_q : (t.push v b).q = t.q := rfl
@[simp] theorem Thread_push_p : (t.push v b).p = t.p := rfl
@[simp] theorem Thread_push_rand : (t.push v b).rand = t.rand := rfl
@[simp] theorem Thread_push_batch : (t.push v b).batch = t.batch := rfl
@[simp] theorem Thread_push_depth : (t.push v b).depth = t.depth := rfl
@[simp] theorem Thread_push_st : (t.push v b).st = t.st := rfl
@[simp] theorem Thread_push_age : (t.push v b).age = t.age := rfl
@[simp] theorem Thread_push_stale : (t.push v b).stale = t.stale := rfl
@[simp] theorem Thread_push_lastIb : (t.push v b).lastIb = t.lastIb := rfl
@[simp] theorem Thread_push_stallUntil : (t.push v b).stallUntil = t.stallUntil := rfl
@[simp] theorem Thread_push_yielded : (t.push v b).yielded = t.yielded := rfl
@[simp] theorem Thread_push_ecause : (t.push v b).ecause = t.ecause := rfl
@[simp] theorem Thread_push_epc : (t.push v b).epc = t.epc := rfl
@[simp] theorem Thread_push_eaddr : (t.push v b).eaddr = t.eaddr := rfl
@[simp] theorem Thread_push_einfo : (t.push v b).einfo = t.einfo := rfl
@[simp] theorem Thread_push_emask : (t.push v b).emask = t.emask := rfl
@[simp] theorem Thread_push_elanes : (t.push v b).elanes = t.elanes := rfl
@[simp] theorem Thread_push_hmode : (t.push v b).hmode = t.hmode := rfl
@[simp] theorem Thread_push_reqs : (t.push v b).reqs = t.reqs := rfl
@[simp] theorem Thread_push_sweepI : (t.push v b).sweepI = t.sweepI := rfl
@[simp] theorem Thread_push_resumeI : (t.push v b).resumeI = t.resumeI := rfl
@[simp] theorem Thread_push_keep : (t.push v b).keep = t.keep := rfl
@[simp] theorem Thread_push_keepLost : (t.push v b).keepLost = t.keepLost := rfl
@[simp] theorem Thread_push_again : (t.push v b).again = t.again := rfl
end Thread_push

section Thread_setQ
variable (t : Thread) (n : Nat) (v : QReg)
@[simp] theorem Thread_setQ_pc : (t.setQ n v).pc = t.pc := rfl
@[simp] theorem Thread_setQ_g : (t.setQ n v).g = t.g := rfl
@[simp] theorem Thread_setQ_o : (t.setQ n v).o = t.o := rfl
@[simp] theorem Thread_setQ_p : (t.setQ n v).p = t.p := rfl
@[simp] theorem Thread_setQ_latches : (t.setQ n v).latches = t.latches := rfl
@[simp] theorem Thread_setQ_rand : (t.setQ n v).rand = t.rand := rfl
@[simp] theorem Thread_setQ_batch : (t.setQ n v).batch = t.batch := rfl
@[simp] theorem Thread_setQ_depth : (t.setQ n v).depth = t.depth := rfl
@[simp] theorem Thread_setQ_st : (t.setQ n v).st = t.st := rfl
@[simp] theorem Thread_setQ_age : (t.setQ n v).age = t.age := rfl
@[simp] theorem Thread_setQ_stale : (t.setQ n v).stale = t.stale := rfl
@[simp] theorem Thread_setQ_lastIb : (t.setQ n v).lastIb = t.lastIb := rfl
@[simp] theorem Thread_setQ_stallUntil : (t.setQ n v).stallUntil = t.stallUntil := rfl
@[simp] theorem Thread_setQ_yielded : (t.setQ n v).yielded = t.yielded := rfl
@[simp] theorem Thread_setQ_ecause : (t.setQ n v).ecause = t.ecause := rfl
@[simp] theorem Thread_setQ_epc : (t.setQ n v).epc = t.epc := rfl
@[simp] theorem Thread_setQ_eaddr : (t.setQ n v).eaddr = t.eaddr := rfl
@[simp] theorem Thread_setQ_einfo : (t.setQ n v).einfo = t.einfo := rfl
@[simp] theorem Thread_setQ_emask : (t.setQ n v).emask = t.emask := rfl
@[simp] theorem Thread_setQ_elanes : (t.setQ n v).elanes = t.elanes := rfl
@[simp] theorem Thread_setQ_hmode : (t.setQ n v).hmode = t.hmode := rfl
@[simp] theorem Thread_setQ_reqs : (t.setQ n v).reqs = t.reqs := rfl
@[simp] theorem Thread_setQ_sweepI : (t.setQ n v).sweepI = t.sweepI := rfl
@[simp] theorem Thread_setQ_resumeI : (t.setQ n v).resumeI = t.resumeI := rfl
@[simp] theorem Thread_setQ_keep : (t.setQ n v).keep = t.keep := rfl
@[simp] theorem Thread_setQ_keepLost : (t.setQ n v).keepLost = t.keepLost := rfl
@[simp] theorem Thread_setQ_again : (t.setQ n v).again = t.again := rfl
end Thread_setQ

section Thread_resumeAfter
variable (t : Thread) (a n : Nat)
@[simp] theorem Thread_resumeAfter_g : (t.resumeAfter a n).g = t.g := rfl
@[simp] theorem Thread_resumeAfter_o : (t.resumeAfter a n).o = t.o := rfl
@[simp] theorem Thread_resumeAfter_q : (t.resumeAfter a n).q = t.q := rfl
@[simp] theorem Thread_resumeAfter_p : (t.resumeAfter a n).p = t.p := rfl
@[simp] theorem Thread_resumeAfter_latches : (t.resumeAfter a n).latches = t.latches := rfl
@[simp] theorem Thread_resumeAfter_rand : (t.resumeAfter a n).rand = t.rand := rfl
@[simp] theorem Thread_resumeAfter_batch : (t.resumeAfter a n).batch = t.batch := rfl
@[simp] theorem Thread_resumeAfter_depth : (t.resumeAfter a n).depth = t.depth := rfl
@[simp] theorem Thread_resumeAfter_age : (t.resumeAfter a n).age = t.age := rfl
@[simp] theorem Thread_resumeAfter_stale : (t.resumeAfter a n).stale = t.stale := rfl
@[simp] theorem Thread_resumeAfter_lastIb : (t.resumeAfter a n).lastIb = t.lastIb := rfl
@[simp] theorem Thread_resumeAfter_stallUntil : (t.resumeAfter a n).stallUntil = t.stallUntil := rfl
@[simp] theorem Thread_resumeAfter_yielded : (t.resumeAfter a n).yielded = t.yielded := rfl
@[simp] theorem Thread_resumeAfter_ecause : (t.resumeAfter a n).ecause = t.ecause := rfl
@[simp] theorem Thread_resumeAfter_epc : (t.resumeAfter a n).epc = t.epc := rfl
@[simp] theorem Thread_resumeAfter_eaddr : (t.resumeAfter a n).eaddr = t.eaddr := rfl
@[simp] theorem Thread_resumeAfter_einfo : (t.resumeAfter a n).einfo = t.einfo := rfl
@[simp] theorem Thread_resumeAfter_emask : (t.resumeAfter a n).emask = t.emask := rfl
@[simp] theorem Thread_resumeAfter_elanes : (t.resumeAfter a n).elanes = t.elanes := rfl
@[simp] theorem Thread_resumeAfter_hmode : (t.resumeAfter a n).hmode = t.hmode := rfl
@[simp] theorem Thread_resumeAfter_reqs : (t.resumeAfter a n).reqs = t.reqs := rfl
@[simp] theorem Thread_resumeAfter_resumeI : (t.resumeAfter a n).resumeI = t.resumeI := rfl
@[simp] theorem Thread_resumeAfter_keep : (t.resumeAfter a n).keep = t.keep := rfl
@[simp] theorem Thread_resumeAfter_keepLost : (t.resumeAfter a n).keepLost = t.keepLost := rfl
@[simp] theorem Thread_resumeAfter_again : (t.resumeAfter a n).again = t.again := rfl
end Thread_resumeAfter

section Thread_setPred
variable (t : Thread) (n : Nat) (v : Bool)
@[simp] theorem Thread_setPred_pc : (t.setPred n v).pc = t.pc := by unfold Thread.setPred; split <;> rfl
@[simp] theorem Thread_setPred_g : (t.setPred n v).g = t.g := by unfold Thread.setPred; split <;> rfl
@[simp] theorem Thread_setPred_o : (t.setPred n v).o = t.o := by unfold Thread.setPred; split <;> rfl
@[simp] theorem Thread_setPred_q : (t.setPred n v).q = t.q := by unfold Thread.setPred; split <;> rfl
@[simp] theorem Thread_setPred_latches : (t.setPred n v).latches = t.latches := by unfold Thread.setPred; split <;> rfl
@[simp] theorem Thread_setPred_rand : (t.setPred n v).rand = t.rand := by unfold Thread.setPred; split <;> rfl
@[simp] theorem Thread_setPred_batch : (t.setPred n v).batch = t.batch := by unfold Thread.setPred; split <;> rfl
@[simp] theorem Thread_setPred_depth : (t.setPred n v).depth = t.depth := by unfold Thread.setPred; split <;> rfl
@[simp] theorem Thread_setPred_st : (t.setPred n v).st = t.st := by unfold Thread.setPred; split <;> rfl
@[simp] theorem Thread_setPred_age : (t.setPred n v).age = t.age := by unfold Thread.setPred; split <;> rfl
@[simp] theorem Thread_setPred_stale : (t.setPred n v).stale = t.stale := by unfold Thread.setPred; split <;> rfl
@[simp] theorem Thread_setPred_lastIb : (t.setPred n v).lastIb = t.lastIb := by unfold Thread.setPred; split <;> rfl
@[simp] theorem Thread_setPred_stallUntil : (t.setPred n v).stallUntil = t.stallUntil := by unfold Thread.setPred; split <;> rfl
@[simp] theorem Thread_setPred_yielded : (t.setPred n v).yielded = t.yielded := by unfold Thread.setPred; split <;> rfl
@[simp] theorem Thread_setPred_ecause : (t.setPred n v).ecause = t.ecause := by unfold Thread.setPred; split <;> rfl
@[simp] theorem Thread_setPred_epc : (t.setPred n v).epc = t.epc := by unfold Thread.setPred; split <;> rfl
@[simp] theorem Thread_setPred_eaddr : (t.setPred n v).eaddr = t.eaddr := by unfold Thread.setPred; split <;> rfl
@[simp] theorem Thread_setPred_einfo : (t.setPred n v).einfo = t.einfo := by unfold Thread.setPred; split <;> rfl
@[simp] theorem Thread_setPred_emask : (t.setPred n v).emask = t.emask := by unfold Thread.setPred; split <;> rfl
@[simp] theorem Thread_setPred_elanes : (t.setPred n v).elanes = t.elanes := by unfold Thread.setPred; split <;> rfl
@[simp] theorem Thread_setPred_hmode : (t.setPred n v).hmode = t.hmode := by unfold Thread.setPred; split <;> rfl
@[simp] theorem Thread_setPred_reqs : (t.setPred n v).reqs = t.reqs := by unfold Thread.setPred; split <;> rfl
@[simp] theorem Thread_setPred_sweepI : (t.setPred n v).sweepI = t.sweepI := by unfold Thread.setPred; split <;> rfl
@[simp] theorem Thread_setPred_resumeI : (t.setPred n v).resumeI = t.resumeI := by unfold Thread.setPred; split <;> rfl
@[simp] theorem Thread_setPred_keep : (t.setPred n v).keep = t.keep := by unfold Thread.setPred; split <;> rfl
@[simp] theorem Thread_setPred_keepLost : (t.setPred n v).keepLost = t.keepLost := by unfold Thread.setPred; split <;> rfl
@[simp] theorem Thread_setPred_again : (t.setPred n v).again = t.again := by unfold Thread.setPred; split <;> rfl
end Thread_setPred

/-- Element `j` of a list changed at `i`. -/
theorem updAt_getElem? {α : Type} (xs : List α) (i j : Nat) (f : α → α) :
    (updAt xs i f)[j]? = if j = i then xs[j]?.map f else xs[j]? := by
  induction xs generalizing i j with
  | nil => simp [updAt]
  | cons x r ih => cases i <;> cases j <;> simp [updAt, ih]

@[simp] theorem updAt_length {α : Type} (xs : List α) (i : Nat) (f : α → α) : (updAt xs i f).length = xs.length := by
  induction xs generalizing i with
  | nil => rfl
  | cons x r ih => cases i <;> simp [updAt, ih]

@[simp] theorem mapWhere_length {α : Type} (p : α → Bool) (f : α → α) (xs : List α) : (mapWhere p f xs).length = xs.length := by
  simp [mapWhere]

/-- The block of a number after an update that keeps numbers: the changed one, or as it was. -/
theorem updBlock_block? (s : State) (u v : Nat) (f : Block → Block) (h : ∀ b, (f b).uid = b.uid) :
    (s.updBlock u f).block? v = if v = u then (s.block? v).map f else s.block? v := by
  unfold State.updBlock State.block? mapWhere
  induction s.blocks with
  | nil => simp
  | cons b r ih =>
    by_cases hb : b.uid = u <;> by_cases hv : b.uid = v <;> by_cases e : v = u <;> simp_all

/-- A crew after an update of a crew. -/
theorem updCrew_crew? (s : State) (u i v j : Nat) (f : Crew → Crew) :
    (s.updCrew u i f).crew? v j = if v = u ∧ j = i then (s.crew? v j).map f else s.crew? v j := by
  unfold State.updCrew State.crew?
  rw [updBlock_block? s u v (fun b => b.updCrew i f) fun _ => rfl]
  by_cases e : v = u
  · subst e; cases s.block? v <;> simp [Block.crew?, Block.updCrew, updAt_getElem?]
  · simp [e]

/-- A thread after an update of a thread. -/
theorem updThread_thread? (s : State) (u i l v j m : Nat) (f : Thread → Thread) :
    (s.updThread u i l f).thread? v j m = if v = u ∧ j = i ∧ m = l then (s.thread? v j m).map f else s.thread? v j m := by
  unfold State.updThread State.thread?
  rw [updCrew_crew?]
  by_cases e : v = u ∧ j = i
  · obtain ⟨rfl, rfl⟩ := e; cases s.crew? v j <;> simp [Crew.updThread, updAt_getElem?]
  · simp only [e, if_false]; split
    · rename_i h; exact absurd ⟨h.1, h.2.1⟩ e
    · rfl

end Sys2Proof.Machine
end

