-- ==== Sys2Proof/Tests/Slice0.lean ====
section
/-! SUPPORT. Tests of the model: terms that the encoding checks refuse, words written out from the spec's encodings, single steps with
the spec's worked results, and for each statement states and operands that meet its hypotheses. -/

namespace Sys2Proof.Tests
set_option Elab.async false
open Sys2Proof Sys2Proof.Machine

/-! ### Helpers -/

/-- The fields of a 64-bit instruction without guard, hints and WBS. -/
def flds (d a b c fn mod : Nat) : Fields :=
  { gp := 7, gn := false, d := BitVec.ofNat 9 d, a := BitVec.ofNat 9 a, b := BitVec.ofNat 9 b, c := BitVec.ofNat 9 c,
    fn := BitVec.ofNat 4 fn, mod := BitVec.ofNat 4 mod, wbs := false, stall := 0, yld := false, hold := false, ext := .none }
/-- The same with C and one source in the literal form. -/
def litFlds (d a b fn mod v : Nat) : Fields := { flds d a b 0x1FF fn mod with ext := .lit (BitVec.ofNat 32 v) }
/-- The fields of a 32-bit instruction without guard. -/
def short (d a : Nat) : ShortFields := { gp := 7, gn := false, d := BitVec.ofNat 9 d, a := BitVec.ofNat 9 a }

/-- A thread with 16 g registers that begin with some values. -/
def tThread (gs : List Nat) : Thread :=
  let t := Thread.create 16 0x1000
  { t with g := (gs.map (BitVec.ofNat 32) ++ t.g).take 16 }
/-- A crew of a role whose lanes begin with some rows of registers, those lanes in one bundle. -/
def tCrew (role : Nat) (rows : List (List Nat)) : Crew :=
  { Crew.create 0 16 4 role 0 0 0x1000 0 with
    bundles := [⟨List.range rows.length⟩], threads := (List.range 32).map fun l => tThread (rows.getD l []) }
/-- A block of one crew, with 4 KiB of scratchpad. -/
def tBlock (role : Nat) (rows : List (List Nat)) : Block :=
  { fetchBlock with
    sheet := { fetchSheet with gregs := 16, kregs := 4, scratch := 4096 }
    body := Body.create [tCrew role rows] }
/-- A running state with one block that is about to issue in some lanes. -/
def readyIn (b : Block) (lanes : List Nat) : State :=
  { State.reset.withFetchWord 0 0 with blocks := [b], issue := some ⟨0, 0, lanes, none, 0⟩ }
/-- The same with a block of one crew whose every listed lane issues. -/
def ready (role : Nat) (rows : List (List Nat)) : State := readyIn (tBlock role rows) (List.range rows.length)

/-- The state after an instruction. -/
def after (i : Instr) (s : State) : Option State := match exec i s with | .next t => some t | _ => none
/-- A g register of a lane after an instruction. -/
def gAfter (i : Instr) (s : State) (l r : Nat) : Option Nat :=
  (after i s).bind fun t => (t.thread? 0 0 l).bind fun h => (h.g[r]?).map (·.toNat)
/-- A predicate of a lane after an instruction. -/
def pAfter (i : Instr) (s : State) (l p : Nat) : Option Bool := (after i s).bind fun t => (t.thread? 0 0 l).map (·.pred p)
/-- The sticky flags after an instruction. -/
def flagsAfter (i : Instr) (s : State) : Option Nat := (after i s).bind fun t => (t.crew? 0 0).map (·.fstat.toNat)
/-- A lane's state and PC after an instruction. -/
def stAfter (i : Instr) (s : State) (l : Nat) : Option TState := (after i s).bind fun t => (t.thread? 0 0 l).map (·.st)
def pcAfter (i : Instr) (s : State) (l : Nat) : Option Nat := (after i s).bind fun t => (t.thread? 0 0 l).map (·.pc.toNat)

/-! ### Ill-formed terms, one for each detail that an instruction can have (R66) -/

theorem test_ill_04_function : (Instr.iadd (flds 0 4 5 0 1 0)).illDetail Limits.all = 0x04 := by decide
theorem test_ill_05_modifier : (Instr.imul (flds 0 4 5 0 0 8)).illDetail Limits.all = 0x05 := by decide
theorem test_ill_06_operand_code : (Instr.pand (flds 8 0 0 0 0 0)).illDetail Limits.all = 0x06 := by decide
theorem test_ill_07_latch_destination : (Instr.iadd (flds 0x108 4 5 0 0 0)).illDetail Limits.all = 0x07 := by decide
theorem test_ill_08_literal_in_64_bits : (Instr.iadd (flds 0 0x1FF 5 0 0 0)).illDetail Limits.all = 0x08 := by decide
theorem test_ill_09_literal_without_c : (Instr.iadd { flds 0 4 5 0 0 0 with ext := .lit 1 }).illDetail Limits.all = 0x09 := by decide
theorem test_ill_0B_odd_pair : (Instr.mov (flds 0 5 0 0 0 1)).illDetail Limits.all = 0x0B := by decide
theorem test_ill_0C_beyond_count : (Instr.iadd (flds 16 4 5 0 0 0)).illDetail ⟨16, 4, 8⟩ = 0x0C := by decide
theorem test_ill_0D_write_back_suppressed : (Instr.iadd { flds 3 4 5 0 0 0 with wbs := true }).illDetail Limits.all = 0x0D := by decide
theorem test_ill_0E_guard : (Instr.iadd { flds 0 4 5 0 0 0 with gn := true }).illDetail Limits.all = 0x0E := by decide
theorem test_ill_0F_reserved : (Instr.iadd (flds 0 4 5 1 0 0)).illDetail Limits.all = 0x0F := by decide
theorem test_not_wf : (Instr.iadd (flds 0 4 5 1 0 0)).wf = false ∧ (Instr.iadd (flds 0 4 5 0 0 0)).wf = true := by decide
theorem test_ill_01_length : decodeBytes Limits.all [0x07, 0x00, 0x00, 0x00] = .ill .lenReserved := by decide
theorem test_ill_02_zero_word : decodeBytes Limits.all [0x00, 0x00, 0x00, 0x00] = .ill .opZero := by decide
theorem test_ill_03_opcode : decodeBytes Limits.all [0xFD, 0x1F, 0x00, 0x00, 0x00, 0x00, 0x00, 0x00] = .ill .opUnassigned ∧
    decodeBytes Limits.all [0xFD, 0x03, 0x00, 0x00, 0x00, 0x00, 0x00, 0x00] = .ill .opUnassigned := by decide
theorem test_ill_0A_short_form : decodeBytes Limits.all [0x1C, 0x1C, 0x00, 0x00] = .ill .noShortForm := by decide

/-! ### Words from the spec's encodings -/

/-- `iadd g7, g9` (the worked encoding under R70). -/
theorem test_decode_iadd_short : decodeBytes Limits.all [0x04, 0xDC, 0x81, 0x04] = .ok (.iaddShort (short 7 9)) 4 := by decide
/-- `(!p3) iadd.i32 g4, g5, 0x1234 <s2 h>` (under R70). -/
theorem test_decode_iadd_literal : decodeBytes Limits.all [0x06, 0x2C, 0x81, 0x02, 0xFF, 0xFF, 0x03, 0x90, 0x34, 0x12, 0x00, 0x00] =
    .ok (.iadd { litFlds 4 5 0x1FF 0 0 0x1234 with gp := 3, gn := true, stall := 2, hold := true }) 12 := by decide
/-- `fadd.f32 g10, g11, g12 sweep 64, 1, 1, 0` (under R70): its third parcel is 0x0004_1040. -/
theorem test_decode_sweep : decode Limits.all [0b000001011_000001010_0_111_01000000_10, 0b0_0_000_0_0000_0000_000000000_000001100, 0x00041040] =
    .ok (.fadd { flds 10 11 12 0 0 0 with ext := .sweep 64 1 1 0 }) 12 := by decide
/-- `bfxs.b32 g3, g5, 0x0814` (R100's chapter). -/
theorem test_decode_bfxs : decodeBytes Limits.all [0x42, 0xDC, 0x80, 0x02, 0xFF, 0xFF, 0x07, 0x00, 0x14, 0x08, 0x00, 0x00] =
    .ok (.bfxs (litFlds 3 5 0x1FF 1 0 0x0814)) 12 := by decide
/-- `wait j2` (R117). -/
theorem test_decode_wait : decode Limits.all [0x00009CA1, 0x00000000] = .ok (.wait (flds 2 0 0 0 0 0)) 8 := by decide
/-- `shfl.fwd.b32 g4, g5, 1, p2` (R123). -/
theorem test_decode_shfl : decodeBytes Limits.all [0xB6, 0x1C, 0x81, 0x02, 0xFF, 0xFF, 0x8B, 0x00, 0x01, 0x00, 0x00, 0x00] =
    .ok (.shfl (litFlds 4 5 0x1FF 2 2 1)) 12 := by decide
/-- `cvq.bz4.x8h.rne g10, g12, 0x807D` (the worked encoding of the vector chapter). -/
theorem test_decode_cvq : decodeBytes Limits.all [0x52, 0x9D, 0x02, 0x06, 0x02, 0xFE, 0x0F, 0x00, 0x7D, 0x80, 0x00, 0x00] =
    .ok (.cvq (litFlds 10 12 2 3 0 0x807D)) 12 := by decide
/-- `qcmp.eq p1, q3, q1, p2` (the worked case of the value chapter). -/
theorem test_decode_qcmp : decodeBytes Limits.all [0x2D, 0x5E, 0x80, 0x01, 0x01, 0x00, 0x80, 0x00] = .ok (.qcmp (flds 1 3 1 0 0 2)) 8 := by
  decide
/-- `mrun t0, g8, 1` (R183). -/
theorem test_decode_mrun : decodeBytes Limits.all [0x4A, 0x1F, 0x00, 0x04, 0xFF, 0xFF, 0x03, 0x00, 0x01, 0x00, 0x00, 0x00] =
    .ok (.mrun (litFlds 0 8 0x1FF 0 0 1)) 12 := by decide
/-- `ld.b64 g10, [g6 + 0x40]` and `atom.cas.b128.acq_rel.sys g8, [g4], g12` (the line chapter). -/
theorem test_decode_ld : decodeBytes Limits.all [0x82, 0x9E, 0x02, 0x03, 0x00, 0xFE, 0x43, 0x00, 0x40, 0x00, 0x00, 0x00] =
    .ok (.ld (litFlds 10 6 0 0 1 0x40)) 12 := by decide
theorem test_decode_atom : decodeBytes Limits.all [0xA1, 0x1E, 0x02, 0x02, 0x0C, 0x3A, 0x9C, 0x00] =
    .ok (.atom (flds 8 4 12 0x1D 7 2)) 8 := by decide
/-- `lda.b128.sys g8, [g4]` and `hcall g8, g20` (the stack program). -/
theorem test_decode_lda : decodeBytes Limits.all [0x89, 0x1E, 0x02, 0x02, 0x00, 0xFE, 0x95, 0x00] =
    .ok (.lda (flds 8 4 0 0xFF 5 2)) 8 := by decide
theorem test_decode_hcall : decodeBytes Limits.all [0xC9, 0x1F, 0x02, 0x0A, 0x00, 0x00, 0x00, 0x00] =
    .ok (.hcall (flds 8 20 0 0 0 0)) 8 := by decide
/-- `rget.b64 g10, 3` (R270). -/
theorem test_decode_rget : decodeBytes Limits.all [0x85, 0x9F, 0x82, 0x01, 0x00, 0x00, 0x40, 0x00] =
    .ok (.rget (flds 10 3 0 0 0 1)) 8 := by decide
/-- `bar.meet 3` (R286). -/
theorem test_decode_bar : decodeBytes Limits.all [0x99, 0x1F, 0x80, 0x01, 0xFF, 0x00, 0x00, 0x00] =
    .ok (.barMeet (flds 0 3 0xFF 0 0 0)) 8 := by decide
/-- `sigev.add [g4], 1` (R305). -/
theorem test_decode_sigev : decodeBytes Limits.all [0xAE, 0x1F, 0x00, 0x02, 0xFF, 0xFF, 0x03, 0x00, 0x01, 0x00, 0x00, 0x00] =
    .ok (.sigevAdd (litFlds 0 4 0x1FF 0 0 1)) 12 := by decide
/-- `cpy g3`, opcode 0xC0 (R251), and `rett`, opcode 0xF1 (R333), from the layout of R48 and R49. -/
theorem test_decode_cpy : decode Limits.all [0b000000011_000000000_0_111_11000000_01, 0] = .ok (.cpy (flds 0 3 0 0 0 0)) 8 := by decide
theorem test_decode_rett : decode Limits.all [0b000000000_000000000_0_111_11110001_01, 0] = .ok (.rett (flds 0 0 0 0 0 0)) 8 := by decide
/-- Encoding gives the same words back. -/
theorem test_encode_bfxs : encode (.bfxs (litFlds 3 5 0x1FF 1 0 0x0814)) = [0x0280DC42, 0x0007FFFF, 0x00000814] := by decide
theorem test_decode_table_word : decodeTableWord 32 0x0481DC04 = some (.iaddShort (short 7 9)) := by decide

/-! ### The thread's instructions (R86 to R100) -/

def regs (vs : List Nat) : State := ready 0 [[0, 0, 0, 0] ++ vs]

/-- R86: isub.sat.n8 of 3 − 5 gives 0. -/
theorem test_isub_sat : gAfter (.isub (flds 0 4 5 0 0 0xF)) (regs [3, 5]) 0 0 = some 0 := by decide +kernel
theorem test_iadd_no_carry_between_elements : gAfter (.iadd (flds 0 4 5 0 0 3)) (regs [0x00FF00FF, 0x01010101]) 0 0 =
    some 0x01000100 := by decide +kernel
theorem test_iadd_source_is_destination : gAfter (.iaddShort (short 4 5)) (regs [7, 9]) 0 4 = some 16 := by decide +kernel
/-- R86: imulh of 0x8000_0000 squared, and of −1 × 1, signed and unsigned. -/
theorem test_imulh_signed : gAfter (.imulh (flds 0 4 5 0 0 0)) (regs [0x80000000, 0x80000000]) 0 0 = some 0x40000000 ∧
    gAfter (.imulh (flds 0 4 5 0 0 0)) (regs [0xFFFFFFFF, 1]) 0 0 = some 0xFFFFFFFF := by decide +kernel
theorem test_imulh_unsigned : gAfter (.imulh (flds 0 4 5 0 0 4)) (regs [0x80000000, 0x80000000]) 0 0 = some 0x40000000 ∧
    gAfter (.imulh (flds 0 4 5 0 0 4)) (regs [0xFFFFFFFF, 1]) 0 0 = some 0 := by decide +kernel
/-- R87: iabs.i8 of 0x80, with and without .sat. -/
theorem test_iabs : gAfter (.iabs (flds 0 4 0 0 0 3)) (regs [0x80]) 0 0 = some 0x80 ∧
    gAfter (.iabs (flds 0 4 0 0 0 0xB)) (regs [0x80]) 0 0 = some 0x7F := by decide +kernel
theorem test_ineg : gAfter (.ineg (flds 0 4 0 0 1 0)) (regs [1]) 0 0 = some 0xFFFFFFFF := by decide +kernel
theorem test_imax_signed : gAfter (.imax (flds 0 4 5 0 1 0)) (regs [0xFFFFFFFF, 1]) 0 0 = some 1 ∧
    gAfter (.imin (flds 0 4 5 0 0 0)) (regs [0xFFFFFFFF, 1]) 0 0 = some 0xFFFFFFFF := by decide +kernel
/-- R88's table. -/
theorem test_idiv : gAfter (.idiv (flds 0 4 5 0 0 0)) (regs [7, 0xFFFFFFFE]) 0 0 = some 0xFFFFFFFD ∧
    gAfter (.idiv (flds 0 4 5 0 0 0)) (regs [0x80000000, 0xFFFFFFFF]) 0 0 = some 0x80000000 ∧
    gAfter (.idiv (flds 0 4 5 0 0 4)) (regs [0xFFFFFFF9, 2]) 0 0 = some 0x7FFFFFFC := by decide +kernel
theorem test_irem : gAfter (.irem (flds 0 4 5 0 0 0)) (regs [0xFFFFFFF9, 2]) 0 0 = some 0xFFFFFFFF ∧
    gAfter (.irem (flds 0 4 5 0 0 0)) (regs [9, 0]) 0 0 = some 9 ∧
    flagsAfter (.irem (flds 0 4 5 0 0 0)) (regs [9, 0]) = some 2 := by decide +kernel
/-- R89's addition of 128 bits. -/
theorem test_iaddc_carry_out : gAfter (.iaddc (flds 0 4 6 0 1 1)) (regs [0xFFFFFFFF, 0xFFFFFFFF, 1, 0]) 0 1 = some 0 ∧
    pAfter (.iaddc (flds 0 4 6 0 1 1)) (regs [0xFFFFFFFF, 0xFFFFFFFF, 1, 0]) 0 1 = some true := by decide +kernel
theorem test_isubb_borrow : gAfter (.isubb (flds 0 4 5 0 0 1)) (regs [0, 1]) 0 0 = some 0xFFFFFFFF ∧
    pAfter (.isubb (flds 0 4 5 0 0 1)) (regs [0, 1]) 0 1 = some true := by decide +kernel
theorem test_icmp : pAfter (.icmp (flds 1 4 5 0 2 0)) (regs [0xFFFFFFFF, 1]) 0 1 = some true ∧
    pAfter (.icmp (flds 1 4 5 0 2 4)) (regs [0xFFFFFFFF, 1]) 0 1 = some false := by decide +kernel
theorem test_sel_p7 : gAfter (.sel (flds 0 4 5 0 0 7)) (regs [3, 5]) 0 0 = some 3 ∧
    gAfter (.sel (flds 0 4 5 0 0 1)) (regs [3, 5]) 0 0 = some 5 := by decide +kernel
theorem test_orn : gAfter (.orn (flds 0 4 5 0 4 0)) (regs [1, 0xFFFFFFF0]) 0 0 = some 0xF ∧
    gAfter (.andn (flds 0 4 5 0 3 0)) (regs [0xFF, 0xF0]) 0 0 = some 0xF := by decide +kernel
/-- R93: `shl.b32` with B = 33 shifts by 1. -/
theorem test_shl_33 : gAfter (.shl (flds 0 4 5 0 0 0)) (regs [3, 33]) 0 0 = some 6 := by decide +kernel
theorem test_sar_rol : gAfter (.sar (flds 0 4 5 0 2 0)) (regs [0x80000000, 31]) 0 0 = some 0xFFFFFFFF ∧
    gAfter (.rol (flds 0 4 5 0 3 0)) (regs [0x80000001, 0]) 0 0 = some 0x80000001 := by decide +kernel
/-- R94's table. -/
theorem test_bfx : gAfter (.bfx (flds 0 4 5 0 0 0)) (regs [0x8C3AF1E7, 8 * 256 + 20]) 0 0 = some 0xC3 ∧
    gAfter (.bfx (flds 0 4 5 0 0 0)) (regs [0x8C3AF1E7, 12 * 256 + 28]) 0 0 = some 8 := by decide +kernel
theorem test_bfxs : gAfter (.bfxs (flds 0 4 5 0 1 0)) (regs [0x8C3AF1E7, 8 * 256 + 20]) 0 0 = some 0xFFFFFFC3 ∧
    gAfter (.bfxs (flds 0 4 5 0 1 0)) (regs [0x8C3AF1E7, 8 * 256 + 32]) 0 0 = some 0xFFFFFFFF := by decide +kernel
/-- R95's case. -/
theorem test_bfi : gAfter (.bfi (flds 0 4 5 6 0 0)) (regs [0xFFFF0000, 0xAB, 0x81C]) 0 0 = some 0xBFFF0000 := by decide +kernel
/-- R96's values. -/
theorem test_clz : gAfter (.clz (flds 0 4 0 0 0 7)) (regs [0x00018000]) 0 0 = some 0x08070008 ∧
    gAfter (.clz (flds 0 4 0 0 0 6)) (regs [0]) 0 0 = some 0x00100010 := by decide +kernel
theorem test_ffs_popc : gAfter (.ffs (flds 0 4 0 0 1 7)) (regs [0x00018000]) 0 0 = some 0x08000708 ∧
    gAfter (.popc (flds 0 4 0 0 2 7)) (regs [0x00018000]) 0 0 = some 0x00010100 := by decide +kernel
theorem test_brev : gAfter (.brev (flds 0 4 0 0 3 4)) (regs [1]) 0 0 = some 0x80000000 := by decide +kernel
/-- R97's cases. -/
theorem test_prmb : gAfter (.prmb (flds 0 4 0xFF 5 0 0)) (regs [0x11223344, 0x0123]) 0 0 = some 0x44332211 ∧
    gAfter (.prmb (flds 0 4 0xFF 5 0 0)) (regs [0x80, 0x8880]) 0 0 = some 0xFFFFFF80 := by decide +kernel
theorem test_lea : gAfter (.lea (flds 0 4 6 0 0 2)) (regs [8, 1, 0xFFFFFFFF]) 0 0 = some 4 ∧
    gAfter (.lea (flds 0 4 6 0 0 2)) (regs [8, 1, 0xFFFFFFFF]) 0 1 = some 1 := by decide +kernel
theorem test_movl : gAfter (.movl (flds 0 4 0xFF 0 0 0)) (regs [5]) 0 0 = some 5 ∧
    gAfter (.movl (flds 0 4 0xFF 0 0 0)) (regs [5]) 0 1 = some 0 := by decide +kernel
/-- R100: `pxor p1, p7, p7` clears p1, and `pmov p1, p7` sets it. -/
theorem test_pxor_pmov : pAfter (.pxor (flds 1 7 7 0 2 0)) (regs []) 0 1 = some false ∧
    pAfter (.pmov (flds 1 7 0 0 4 0)) (regs []) 0 1 = some true := by decide +kernel
/-- R57: a lane whose guard is 0 does not take part; its PC advances. -/
theorem test_guard : gAfter (.iadd { flds 0 4 5 0 0 0 with gp := 0 }) (regs [3, 5]) 0 0 = some 0 ∧
    pcAfter (.iadd { flds 0 4 5 0 0 0 with gp := 0 }) (regs [3, 5]) 0 = some 0x1008 := by decide +kernel
/-- R53: a write to gz is discarded, and the PC advances. -/
theorem test_write_gz : gAfter (.iadd (flds 0xFF 4 5 0 0 0)) (regs [3, 5]) 0 0 = some 0 ∧
    pcAfter (.iadd (flds 0xFF 4 5 0 0 0)) (regs [3, 5]) 0 = some 0x1008 := by decide +kernel
/-- R60: a source that reads an invalid latch faults its lane; no handler: the block is gone. -/
theorem test_latch_fault : (after (.iadd (flds 0 0x108 5 0 0 0)) (regs [3, 5])).map (fun t => (t.block? 0).isNone) = some true := by
  decide +kernel

/-! ### The crew's instructions (R114 to R125) -/

theorem test_bra_backwards : pcAfter (.bra (flds 0 4 0 0 0 0)) (regs [0xFFFFFFF0]) 0 = some 0xFF0 := by decide +kernel
theorem test_jset : (after (.jset (flds 2 0 0 0 0 0)) (ready 0 [[], [], []])).bind (fun t => (t.crew? 0 0).map fun c => c.j.getD 2 0) =
    some 7 := by decide +kernel
theorem test_exit : stAfter (.exit (flds 0 0 0 0 0 0)) (regs []) 0 = some .exited := by decide +kernel
theorem test_wait : stAfter (.wait (flds 2 0 0 0 0 0)) (regs []) 0 = some (.waiting (.mask 2) 8) := by decide +kernel
def three : State := readyIn (tBlock 0 [[], [], [0x3F800000], [], [], [0x4B800000], [0x3F800000]]) [2, 5, 6]
/-- R122: lanes 2, 5 and 6 hold 1.0, 2^24 and 1.0; the fold is 2^24 with NX; the exclusive scan gives −0, 1.0 and 2^24. -/
theorem test_redux_fadd : gAfter (.redux (flds 1 0 0 0 6 0)) three 6 1 = some 0x4B800000 ∧
    flagsAfter (.redux (flds 1 0 0 0 6 0)) three = some 0x10 := by decide +kernel
theorem test_scanx_exclusive : gAfter (.scanx (flds 1 0 0 0 6 8)) three 2 1 = some 0x80000000 ∧
    gAfter (.scanx (flds 1 0 0 0 6 8)) three 5 1 = some 0x3F800000 ∧
    gAfter (.scanx (flds 1 0 0 0 6 8)) three 6 1 = some 0x4B800000 := by decide +kernel
def eight : State := readyIn (tBlock 0 ((List.range 8).map fun l => [0, 0, 0, 0, 0, 10 + l])) [0, 1, 2, 3, 4, 6, 7]
/-- R123: the worked shuffle, with lane 5 away. -/
theorem test_shfl_fwd : gAfter (.shfl (litFlds 4 5 0x1FF 2 2 1)) eight 3 4 = some 14 ∧ gAfter (.shfl (litFlds 4 5 0x1FF 2 2 1)) eight 6 4 = some 17 ∧
    gAfter (.shfl (litFlds 4 5 0x1FF 2 2 1)) eight 4 4 = some 14 := by decide +kernel
theorem test_shfl_validity : pAfter (.shfl (litFlds 4 5 0x1FF 2 2 1)) eight 3 2 = some true ∧
    pAfter (.shfl (litFlds 4 5 0x1FF 2 2 1)) eight 4 2 = some false ∧ pAfter (.shfl (litFlds 4 5 0x1FF 2 2 1)) eight 7 2 = some false := by
  decide +kernel
theorem test_vote : gAfter (.vote (flds 0 7 0 0 3 0)) three 2 0 = some 0x64 ∧ gAfter (.vote (flds 0 7 0 0 4 0)) three 2 0 = some 3 := by
  decide +kernel
theorem test_match : gAfter (.matchLanes (flds 1 0 0 0 0 0)) three 2 1 = some 0x44 ∧
    gAfter (.matchLanes (flds 1 0 0 0 1 0)) three 2 1 = some 0 := by decide +kernel
theorem test_elect : pAfter (.elect (flds 1 0 0 0 0 0)) three 2 1 = some true ∧ pAfter (.elect (flds 1 0 0 0 0 0)) three 6 1 = some false ∧
    pAfter (.elect (flds 1 0 0 0 1 0)) three 6 1 = some true := by decide +kernel
/-- R112: a crew of role GEN may not issue `cpy`: ROLE, whose class is 2, is logged. -/
theorem test_role : (after (.cpy (flds 0 4 0 0 0 0)) (regs [0])).bind (fun t => t.ctxs[0]?.map (·.lastcls)) = some 2 := by decide +kernel

/-! ### Vector and special-function instructions (R131 to R155) -/

theorem test_fadd_rounds : gAfter (.fadd (flds 0 4 5 0 0 0)) (regs [0x3F800000, 0x4B800000]) 0 0 = some 0x4B800000 ∧
    flagsAfter (.fadd (flds 0 4 5 0 0 0)) (regs [0x3F800000, 0x4B800000]) = some 0x10 := by decide +kernel
theorem test_fdiv_zero : gAfter (.fdiv (flds 0 4 5 0 0 0)) (regs [0x3F800000, 0]) 0 0 = some 0x7F800000 ∧
    flagsAfter (.fdiv (flds 0 4 5 0 0 0)) (regs [0x3F800000, 0]) = some 2 := by decide +kernel
theorem test_fsqrt : gAfter (.fsqrt (flds 0 4 0 0 0 0)) (regs [0x40800000]) 0 0 = some 0x40000000 := by decide +kernel
/-- R134: mask 0x381 holds for either infinity and for any NaN. -/
theorem test_fclass : pAfter (.fclass (litFlds 3 4 0x1FF 0 0 0x381)) (regs [0xFF800000]) 0 3 = some true ∧
    pAfter (.fclass (litFlds 3 4 0x1FF 0 0 0x381)) (regs [0x3F800000]) 0 3 = some false := by decide +kernel
/-- R135: `frnd.rne` of −0.25 gives −0. -/
theorem test_frnd : gAfter (.frnd (flds 0 4 0 0 0 0)) (regs [0xBE800000]) 0 0 = some 0x80000000 := by decide +kernel
/-- R137: .exp of 0x0000_0200 is −140.0, .man of −6.5 is −1.625. -/
theorem test_expext : gAfter (.expext (flds 0 4 0 0 0 0)) (regs [0x200]) 0 0 = some 0xC30C0000 ∧
    gAfter (.expext (flds 0 4 0 0 1 0)) (regs [0xC0D00000]) 0 0 = some 0xBFD00000 := by decide +kernel
/-- R138: exact cases. -/
theorem test_functions_exact : gAfter (.fexp (flds 0 4 0 0 0 0)) (regs [0x3F800000]) 0 0 = some 0x40000000 ∧
    gAfter (.flog (flds 0 4 0 0 0 0)) (regs [0x3F800000]) 0 0 = some 0 ∧
    gAfter (.frcp (flds 0 4 0 0 0 0)) (regs [0x40000000]) 0 0 = some 0x3F000000 := by decide +kernel
/-- R152: keys 2, 0, 2 and 1 and B = 0. -/
def keys : State := ready 0 [[2], [0], [2], [1]]
theorem test_rgrp_pos : (List.range 4).map (fun l => gAfter (.rgrp (flds 1 0 0xFF 0 0 0)) keys l 1) =
    [some 2, some 0, some 3, some 1] := by decide +kernel
theorem test_rgrp_cnt : (List.range 4).map (fun l => gAfter (.rgrp (flds 1 0 0 0 1 0)) keys l 1) =
    [some 2, some 1, some 2, some 1] := by decide +kernel

/-! ### States and operands that meet the hypotheses of the statements -/

/-- Whether an instruction issues from a state as some `x` with `p`, and nothing stops it before its body. -/
def check (op : Nat) (fn : Option Nat) (reads : List ReadAs) (w : Fields) (s : State) (p : Ctx → Bool) : Bool :=
  match s.issueCtx op (fieldsLength w) w with
  | some x => x.unstopped (illLong op fn w) reads && p x
  | none => false

theorem met_by {op : Nat} {fn : Option Nat} {reads : List ReadAs} {w : Fields} {s : State} {P : Ctx → Prop} (p : Ctx → Bool)
    (hp : ∀ x, s.issueCtx op (fieldsLength w) w = some x → p x = true → P x) (h : check op fn reads w s p = true) :
    ∃ x, IssuesLong op fn reads w s x ∧ P x := by
  unfold check at h
  split at h
  · rename_i x hx
    simp only [Bool.and_eq_true] at h
    exact ⟨x, ⟨hx, h.1⟩, hp x hx h.2⟩
  · cases h

theorem met {op : Nat} {fn : Option Nat} {reads : List ReadAs} {w : Fields} {s : State} (P : Ctx → Prop) [DecidablePred P]
    (h : check op fn reads w s (fun x => decide (P x)) = true) : ∃ x, IssuesLong op fn reads w s x ∧ P x :=
  met_by (fun x => decide (P x)) (fun _ _ h => of_decide_eq_true h) h

/-- Two lanes with small numbers in their registers, in a crew of some role. -/
def plainState (role : Nat) : State := ready role [[0, 0, 0, 0, 8, 0, 3, 0, 0, 0, 2, 0], [0, 0, 0, 0, 16, 0, 5, 0, 0, 0, 4, 0]]

theorem issuesAll (role : Nat) (L : List (Nat × Option Nat × List ReadAs × Fields))
    (h : (L.all fun p => check p.1 p.2.1 p.2.2.1 p.2.2.2 (plainState role) fun _ => true) = true) :
    ∀ p ∈ L, ∃ s x, IssuesLong p.1 p.2.1 p.2.2.1 p.2.2.2 s x := by
  intro p hp
  obtain ⟨x, hx, _⟩ := met_by (P := fun _ => True) (fun _ => true) (fun _ _ _ => trivial) (List.all_eq_true.mp h p hp)
  exact ⟨_, x, hx⟩

theorem issuesAllShort (L : List (Nat × List ReadAs × ShortFields))
    (h : (L.all fun p => match (plainState 0).issueCtx p.1 4 (expandShort p.1 p.2.2) with
      | some x => x.unstopped (fun lim => illDetailShort lim p.1 p.2.2) p.2.1
      | none => false) = true) :
    ∀ p ∈ L, ∃ s x, IssuesShort p.1 p.2.1 p.2.2 s x := by
  intro p hp
  have h := List.all_eq_true.mp h p hp
  split at h
  · rename_i x hx
    exact ⟨_, x, hx, h⟩
  · cases h

/-- The instructions of a list issue from one state, each with the property `P`. -/
theorem metAll (s : State) (P : Ctx → Prop) [DecidablePred P] (L : List (Nat × Option Nat × List ReadAs × Fields))
    (h : (L.all fun p => check p.1 p.2.1 p.2.2.1 p.2.2.2 s fun x => decide (P x)) = true) :
    ∀ p ∈ L, ∃ x, IssuesLong p.1 p.2.1 p.2.2.1 p.2.2.2 s x ∧ P x :=
  fun p hp => met P (List.all_eq_true.mp h p hp)

/-- The fields of an instruction with a sweep of some iterations. -/
def sweepFlds (d a b c fn mod : Nat) : Fields := { flds d a b c fn mod with ext := .sweep 3 1 1 1 }
/-- For `Obligations.IntegerArithmetic`: `iadd`, `isub`, `imul`, `imulh`, `imad`, `imin`, `imax`, `iabs`, `ineg`. -/
theorem wit_IntegerArithmetic_issues : ∀ p ∈ ([
   (0x01, none, readsAB, flds 2 4 6 0 0 0),
   (0x02, none, readsAB, flds 2 4 6 0 0 0),
   (0x05, none, readsAB, flds 2 4 6 0 0 0),
   (0x06, none, readsAB, flds 2 4 6 0 0 0),
   (0x07, none, readsABC, flds 2 4 6 10 0 0),
   (0x0A, (some 0), readsAB, flds 2 4 6 0 0 0),
   (0x0A, (some 1), readsAB, flds 2 4 6 0 1 0),
   (0x0B, (some 0), readsA, flds 2 4 0 0 0 0),
   (0x0B, (some 1), readsA, flds 2 4 0 0 1 0)] : List (Nat × Option Nat × List ReadAs × Fields)),
    ∃ s x, IssuesLong p.1 p.2.1 p.2.2.1 p.2.2.2 s x :=
  fun p h => issuesAll 0 _ (by decide +kernel) p h

/-- For `Obligations.IntegerArithmetic`: `iaddShort`, `isubShort`, `imulShort`, `iminShort`. -/
theorem wit_IntegerArithmetic_short : ∀ p ∈ ([(0x01, readsAB, short 2 4), (0x02, readsAB, short 2 4), (0x05, readsAB, short 2 4), (0x0A, readsAB, short 2 4)] : List (Nat × List ReadAs × ShortFields)),
    ∃ s x, IssuesShort p.1 p.2.1 p.2.2 s x :=
  fun p h => issuesAllShort _ (by decide +kernel) p h

/-- For `Obligations.DivisionCarryCompareSelect`: `idiv`, `irem`, `iaddc`, `isubb`, `icmp`, `sel`. -/
theorem wit_DivisionCarryCompareSelect_issues : ∀ p ∈ ([
   (0x08, none, readsAB, flds 2 4 6 0 0 0),
   (0x09, none, readsAB, flds 2 4 6 0 0 0),
   (0x03, none, readsAB, flds 2 4 6 0 0 0),
   (0x04, none, readsAB, flds 2 4 6 0 0 0),
   (0x0C, none, readsAB, flds 2 4 6 0 0 0),
   (0x0D, none, readsAB, flds 2 4 6 0 0 0)] : List (Nat × Option Nat × List ReadAs × Fields)),
    ∃ s x, IssuesLong p.1 p.2.1 p.2.2.1 p.2.2.2 s x :=
  fun p h => issuesAll 0 _ (by decide +kernel) p h

/-- For `Obligations.LogicAndShifts`: `andOp`, `orOp`, `xorOp`, `andn`, `orn`, `shl`, `shr`, `sar`, `rol`. -/
theorem wit_LogicAndShifts_issues : ∀ p ∈ ([
   (0x0E, (some 0), readsAB, flds 2 4 6 0 0 0),
   (0x0E, (some 1), readsAB, flds 2 4 6 0 1 0),
   (0x0E, (some 2), readsAB, flds 2 4 6 0 2 0),
   (0x0E, (some 3), readsAB, flds 2 4 6 0 3 0),
   (0x0E, (some 4), readsAB, flds 2 4 6 0 4 0),
   (0x0F, (some 0), readsAB, flds 2 4 6 0 0 0),
   (0x0F, (some 1), readsAB, flds 2 4 6 0 1 0),
   (0x0F, (some 2), readsAB, flds 2 4 6 0 2 0),
   (0x0F, (some 3), readsAB, flds 2 4 6 0 3 0)] : List (Nat × Option Nat × List ReadAs × Fields)),
    ∃ s x, IssuesLong p.1 p.2.1 p.2.2.1 p.2.2.2 s x :=
  fun p h => issuesAll 0 _ (by decide +kernel) p h

/-- For `Obligations.LogicAndShifts`: `andShort`, `shlShort`. -/
theorem wit_LogicAndShifts_short : ∀ p ∈ ([(0x0E, readsAB, short 2 4), (0x0F, readsAB, short 2 4)] : List (Nat × List ReadAs × ShortFields)),
    ∃ s x, IssuesShort p.1 p.2.1 p.2.2 s x :=
  fun p h => issuesAllShort _ (by decide +kernel) p h

/-- For `Obligations.FieldsCountsAddresses`: `bfx`, `bfxs`, `bfi`, `clz`, `ffs`, `popc`, `brev`, `prmb`, `lea`. -/
theorem wit_FieldsCountsAddresses_issues : ∀ p ∈ ([
   (0x10, (some 0), readsAB, flds 2 4 6 0 0 0),
   (0x10, (some 1), readsAB, flds 2 4 6 0 1 0),
   (0x11, none, readsABC, flds 2 4 6 10 0 0),
   (0x12, (some 0), readsA, flds 2 4 0 0 0 4),
   (0x12, (some 1), readsA, flds 2 4 0 0 1 4),
   (0x12, (some 2), readsA, flds 2 4 0 0 2 4),
   (0x12, (some 3), readsA, flds 2 4 0 0 3 4),
   (0x13, none, readsABC, flds 2 4 6 10 0 0),
   (0x14, none, readsAB, flds 2 4 6 0 0 0)] : List (Nat × Option Nat × List ReadAs × Fields)),
    ∃ s x, IssuesLong p.1 p.2.1 p.2.2.1 p.2.2.2 s x :=
  fun p h => issuesAll 0 _ (by decide +kernel) p h

/-- For `Obligations.MovesPredicatesSpecials`: `mov`, `movl`, `pand`, `por`, `pxor`, `pnot`, `pmov`, `gets`, `sysrd`. -/
theorem wit_MovesPredicatesSpecials_issues : ∀ p ∈ ([
   (0x15, none, readsA, flds 2 4 0 0 0 0),
   (0x16, none, readsAB, flds 2 4 6 0 0 0),
   (0x18, (some 0), [], flds 2 4 6 0 0 0),
   (0x18, (some 1), [], flds 2 4 6 0 1 0),
   (0x18, (some 2), [], flds 2 4 6 0 2 0),
   (0x18, (some 3), [], flds 2 4 0 0 3 0),
   (0x18, (some 4), [], flds 2 4 0 0 4 0),
   (0x17, none, [], flds 2 4 0 0 0 0),
   (0xF4, none, [], flds 2 4 0 0 0 0)] : List (Nat × Option Nat × List ReadAs × Fields)),
    ∃ s x, IssuesLong p.1 p.2.1 p.2.2.1 p.2.2.2 s x :=
  fun p h => issuesAll 0 _ (by decide +kernel) p h

/-- For `Obligations.MovesPredicatesSpecials`: `movShort`. -/
theorem wit_MovesPredicatesSpecials_short : ∀ p ∈ ([(0x15, readsA, short 2 4)] : List (Nat × List ReadAs × ShortFields)),
    ∃ s x, IssuesShort p.1 p.2.1 p.2.2 s x :=
  fun p h => issuesAllShort _ (by decide +kernel) p h

/-- For `Obligations.CrossLane`: `vote`, `shfl`, `redux`, `scanx`, `matchLanes`, `elect`. -/
theorem wit_CrossLane_issues : ∀ p ∈ ([
   (0x2C, none, [], flds 2 4 0 0 0 0),
   (0x2D, none, readsAB, flds 2 4 6 0 0 0),
   (0x2E, none, readsA, flds 2 4 0 0 0 0),
   (0x2F, none, readsA, flds 2 4 0 0 0 0),
   (0x30, none, readsA, flds 2 4 0 0 0 0),
   (0x31, none, [], flds 2 0 0 0 0 0)] : List (Nat × Option Nat × List ReadAs × Fields)),
    ∃ s x, IssuesLong p.1 p.2.1 p.2.2.1 p.2.2.2 s x :=
  fun p h => issuesAll 0 _ (by decide +kernel) p h

/-- For `Obligations.ControlTransfer`: `nop`, `wait`, `exit`. -/
theorem wit_ControlTransfer_issues : ∀ p ∈ ([
   (0x20, none, [], flds 0 0 0 0 0 0),
   (0x28, none, [], flds 2 0 0 0 0 0),
   (0x2A, none, [], flds 0 0 0 0 0 0)] : List (Nat × Option Nat × List ReadAs × Fields)),
    ∃ s x, IssuesLong p.1 p.2.1 p.2.2.1 p.2.2.2 s x :=
  fun p h => issuesAll 0 _ (by decide +kernel) p h

/-- For `Obligations.ControlTransfer`: `nopShort`. -/
theorem wit_ControlTransfer_short : ∀ p ∈ ([(0x20, [], short 0 0)] : List (Nat × List ReadAs × ShortFields)),
    ∃ s x, IssuesShort p.1 p.2.1 p.2.2 s x :=
  fun p h => issuesAllShort _ (by decide +kernel) p h

/-- For `Obligations.FloatArithmetic`: `fdiv`. -/
theorem wit_FloatArithmetic_issues : ∀ p ∈ ([
   (0x4E, none, readsAB, flds 2 4 6 0 0 0)] : List (Nat × Option Nat × List ReadAs × Fields)),
    ∃ s x, IssuesLong p.1 p.2.1 p.2.2.1 p.2.2.2 s x :=
  fun p h => issuesAll 0 _ (by decide +kernel) p h

/-- For `Obligations.FloatArithmetic`: `faddShort`, `fmulShort`, `fminShort`. -/
theorem wit_FloatArithmetic_short : ∀ p ∈ ([(0x40, readsAB, short 2 4), (0x42, readsAB, short 2 4), (0x44, readsAB, short 2 4)] : List (Nat × List ReadAs × ShortFields)),
    ∃ s x, IssuesShort p.1 p.2.1 p.2.2 s x :=
  fun p h => issuesAllShort _ (by decide +kernel) p h

/-- For `Obligations.FloatFunctions`: `fcmp`, `fclass`, `frnd`, `expins`, `expext`. -/
theorem wit_FloatFunctions_issues : ∀ p ∈ ([
   (0x46, none, readsAB, flds 2 4 6 0 0 0),
   (0x47, none, readsAB, flds 2 4 6 0 0 0),
   (0x48, none, readsA, flds 2 4 0 0 0 0),
   (0x51, none, readsAB, flds 2 4 6 0 0 0),
   (0x52, none, readsA, flds 2 4 0 0 0 0)] : List (Nat × Option Nat × List ReadAs × Fields)),
    ∃ s x, IssuesLong p.1 p.2.1 p.2.2.1 p.2.2.2 s x :=
  fun p h => issuesAll 0 _ (by decide +kernel) p h

/-- For `Obligations.ConversionsAndStreams`: `hadq`, `cvrn`, `rand`, `rkey`, `segred`. -/
theorem wit_ConversionsAndStreams_issues : ∀ p ∈ ([
   (0x56, none, [⟨0, 1⟩, ⟨1, 32⟩, ⟨2, 32⟩], flds 2 4 6 10 0 8),
   (0x57, none, readsAB, flds 2 4 6 0 0 0),
   (0x58, none, [], flds 2 0 0 0 0 0),
   (0x59, none, readsAB, flds 2 4 6 0 0 0),
   (0x5B, none, [⟨0, 1⟩, ⟨1, 32⟩], flds 2 4 6 0 0 0)] : List (Nat × Option Nat × List ReadAs × Fields)),
    ∃ s x, IssuesLong p.1 p.2.1 p.2.2.1 p.2.2.2 s x :=
  fun p h => issuesAll 0 _ (by decide +kernel) p h

/-- For `Obligations.RaggedRowsAndWalks`: `vxwalk`. -/
theorem wit_RaggedRowsAndWalks_issues : ∀ p ∈ ([
   (0x5D, none, readsABC, flds 2 4 6 10 0 0)] : List (Nat × Option Nat × List ReadAs × Fields)),
    ∃ s x, IssuesLong p.1 p.2.1 p.2.2.1 p.2.2.2 s x :=
  fun p h => issuesAll 0 _ (by decide +kernel) p h

/-- For `Obligations.FencesAndCode`: `wback`, `icinv`, `fetchb`, `pref`. -/
theorem wit_FencesAndCode_issues : ∀ p ∈ ([
   (0xAB, none, readsAB, flds 0 4 6 0 0 0),
   (0xAC, none, readsAB, flds 0 4 6 0 0 0),
   (0xAD, none, [], flds 0 0 0 0 0 0),
   (0xAE, none, [], flds 0 4 0 10 0 0)] : List (Nat × Option Nat × List ReadAs × Fields)),
    ∃ s x, IssuesLong p.1 p.2.1 p.2.2.1 p.2.2.2 s x :=
  fun p h => issuesAll 0 _ (by decide +kernel) p h

/-- For `Obligations.Copies`: `cpy`, `cpyd`, `cpyr`, `seal`, `bpoll`. -/
theorem wit_Copies_issues : ∀ p ∈ ([
   (0xC0, none, readsA, flds 0 4 0 0 0 0),
   (0xC2, none, readsA, flds 0 4 0 0 0 0),
   (0xC3, none, readsA, flds 0 4 0 0 0 0),
   (0xC5, none, [], flds 2 0 0 0 0 0),
   (0xC7, none, readsA, flds 2 4 0 0 0 0)] : List (Nat × Option Nat × List ReadAs × Fields)),
    ∃ s x, IssuesLong p.1 p.2.1 p.2.2.1 p.2.2.2 s x :=
  fun p h => issuesAll 1 _ (by decide +kernel) p h

/-- For `Obligations.BarrierForms`: `barAwait`. -/
theorem wit_BarrierForms_issues : ∀ p ∈ ([
   (0xE6, (some 2), [], flds 0 4 0 0 2 0)] : List (Nat × Option Nat × List ReadAs × Fields)),
    ∃ s x, IssuesLong p.1 p.2.1 p.2.2.1 p.2.2.2 s x :=
  fun p h => issuesAll 0 _ (by decide +kernel) p h

/-- For `Obligations.TrackedReadsAndRequests`: `qmov`, `qfree`, `qmid`, `qbnd`, `qstat`, `qref`, `qcutx`. -/
theorem wit_TrackedReadsAndRequests_issues : ∀ p ∈ ([
   (0x82, none, [], flds 2 4 0 0 0 0),
   (0x91, none, [], flds 2 0 0 0 0 0),
   (0x8C, none, [], flds 2 4 0 0 0 0),
   (0x8D, none, [], flds 2 4 0 0 0 0),
   (0x92, none, [], flds 2 4 0 0 0 0),
   (0x8E, none, [], flds 2 4 0 0 1 0),
   (0x90, none, [], flds 2 4 0 0 0 0)] : List (Nat × Option Nat × List ReadAs × Fields)),
    ∃ s x, IssuesLong p.1 p.2.1 p.2.2.1 p.2.2.2 s x :=
  fun p h => issuesAll 0 _ (by decide +kernel) p h

/-- For `Obligations.TileCommands`: `twait`, `mstat`. -/
theorem wit_TileCommands_issues : ∀ p ∈ ([
   (0xDA, (some 0), readsA, flds 0 4 0 0 0 0),
   (0xD5, none, [], flds 2 4 0 0 0 0)] : List (Nat × Option Nat × List ReadAs × Fields)),
    ∃ s x, IssuesLong p.1 p.2.1 p.2.2.1 p.2.2.2 s x :=
  fun p h => issuesAll 2 _ (by decide +kernel) p h

/-- For `Obligations.BlockRegions`: `idemb`, `ideme`. -/
theorem wit_BlockRegions_issues : ∀ p ∈ ([
   (0xE3, none, [], flds 0 0 0 0 0 0),
   (0xE4, none, [], flds 0 0 0 0 0 0)] : List (Nat × Option Nat × List ReadAs × Fields)),
    ∃ s x, IssuesLong p.1 p.2.1 p.2.2.1 p.2.2.2 s x :=
  fun p h => issuesAll 0 _ (by decide +kernel) p h

/-- For `Obligations.ControlTransfer`: `bra`, `brx`, `brk`, whose targets are aligned, and `jset`, `jclr`, `yield`. -/
theorem wit_ControlTransfer_bra : ∃ x, IssuesLong 0x21 none readsA (flds 0 4 0 0 0 0) (plainState 0) x ∧
    ∀ l ∈ x.act, x.relTarget l % 4 = 0 := met _ (by decide +kernel)
theorem wit_ControlTransfer_brx : ∃ x, IssuesLong 0x22 none readsA (flds 0 4 0 0 0 0) (plainState 0) x ∧
    ∀ l ∈ x.act, x.a l 64 % 4 = 0 := met _ (by decide +kernel)
theorem wit_ControlTransfer_brk : ∃ x, IssuesLong 0x29 none readsA (flds 7 4 0 0 0 0) (plainState 0) x ∧
    x.act ≠ [] ∧ ∀ l ∈ x.act, x.relTarget l % 4 = 0 := met _ (by decide +kernel)
theorem wit_ControlTransfer_masks : ∀ p ∈ ([(0x26, none, [], flds 7 0 0 0 0 0), (0x27, none, [], flds 0 0 0 0 0 0), (0x2B, none, [], flds 0 0 0 0 0 0)] :
    List (Nat × Option Nat × List ReadAs × Fields)), ∃ x, IssuesLong p.1 p.2.1 p.2.2.1 p.2.2.2 (plainState 0) x ∧ x.act ≠ [] :=
  metAll _ _ _ (by decide +kernel)

/-- For `Obligations.FloatArithmetic`, `FloatFunctions` and `ConversionsAndStreams`: the register forms. -/
theorem wit_FloatArithmetic_registers : ∀ p ∈ ([(0x40, none, readsAB, flds 2 4 6 0 1 0), (0x41, none, readsAB, flds 2 4 6 0 0 0),
    (0x42, none, readsAB, flds 2 4 6 0 0 0), (0x43, none, readsABC, flds 2 4 6 10 0 0), (0x44, none, readsAB, flds 2 4 6 0 0 0),
    (0x45, none, readsAB, flds 2 4 6 0 0 0), (0x4D, none, readsA, flds 2 4 0 0 0 0)] :
    List (Nat × Option Nat × List ReadAs × Fields)), ∃ x, IssuesLong p.1 p.2.1 p.2.2.1 p.2.2.2 (plainState 0) x ∧ x.isSweep = false :=
  metAll _ _ _ (by decide +kernel)
theorem wit_FloatFunctions_registers : ∀ p ∈ ([(0x49, none, readsA, flds 2 4 0 0 0 0), (0x4A, none, readsA, flds 2 4 0 0 0 0),
    (0x4B, none, readsA, flds 2 4 0 0 0 0), (0x4C, none, readsA, flds 2 4 0 0 0 0), (0x4F, none, readsA, flds 2 4 0 0 0 0),
    (0x50, none, readsA, flds 2 4 0 0 0 0)] : List (Nat × Option Nat × List ReadAs × Fields)),
    ∃ x, IssuesLong p.1 p.2.1 p.2.2.1 p.2.2.2 (plainState 0) x ∧ x.isSweep = false :=
  metAll _ _ _ (by decide +kernel)
theorem wit_ConversionsAndStreams_registers : ∀ p ∈ ([(0x53, none, readsA, flds 2 4 6 0 0 0),
    (0x54, none, [⟨0, 1⟩, ⟨2, 64 / shapeCount 0⟩], flds 2 4 0 10 0 8),
    (0x55, none, [⟨0, 1⟩, ⟨0, 64 / shapeCount 0⟩], flds 2 4 0 0 0 8),
    (0x55, none, [⟨0, 1⟩, ⟨0, 64 / shapeCount 3⟩, ⟨2, 32⟩], flds 2 4 3 10 0 8)] : List (Nat × Option Nat × List ReadAs × Fields)),
    ∃ x, IssuesLong p.1 p.2.1 p.2.2.1 p.2.2.2 (plainState 0) x ∧ x.isSweep = false :=
  metAll _ _ _ (by decide +kernel)

/-- A body that ends with every lane going on. -/
def completes (r : BodyRes) : Bool := match r with | .done _ rs => rs.all fun p => p.2 == .next | .hold _ => false
theorem completes_done {r : BodyRes} (h : completes r = true) : ∃ t rs, r = .done t rs ∧ ∀ p ∈ rs, p.2 = .next := by
  cases r with
  | hold s => cases h
  | done t rs => exact ⟨t, rs, rfl, fun p hp => by simpa using List.all_eq_true.mp h p hp⟩

/-- An instruction issues and its body ends with every lane going on. -/
theorem runs {op : Nat} {fn : Option Nat} {reads : List ReadAs} {w : Fields} {s : State} (ok : Ctx → Prop) [DecidablePred ok]
    (body : Ctx → BodyRes) (h : check op fn reads w s (fun x => decide (ok x) && completes (body x)) = true) :
    ∃ x t rs, IssuesLong op fn reads w s x ∧ ok x ∧ body x = .done t rs ∧ ∀ p ∈ rs, p.2 = .next := by
  obtain ⟨x, hx, hk, hc⟩ := met_by (P := fun x => ok x ∧ completes (body x) = true) _
    (fun x _ h => by simpa only [Bool.and_eq_true, decide_eq_true_eq] using h) h
  obtain ⟨t, rs, hd, hr⟩ := completes_done hc
  exact ⟨x, t, rs, hx, hk, hd, hr⟩

def sweepState : State := ready 0 [[0, 0, 0, 0, 128, 0, 256, 0, 0, 0, 5], [0, 0, 512, 0, 640, 0, 768, 0, 0, 0, 6]]
/-- A Bool form of `Ctx.segsOk`, where no copy is under way. -/
def segsOkB (x : Ctx) (op : SweepOp) (cnt : Nat) (sd sa sb : BitVec 6) : Bool :=
  x.s0.copies == [] && (x.s0.blockOr x.b).body.bad == [] &&
  decide (∀ l ∈ x.act, ∀ i < cnt, (x.t l).sweepI ≤ i →
    let d := sweepAddr x l x.w.d sd i
    let a := sweepAddr x l x.w.a sa i
    let b := sweepAddr x l x.w.b sb i
    d % 32 = 0 ∧ d + op.sizeD ≤ x.b.sheet.scratch ∧ a % 32 = 0 ∧ a + op.sizeA ≤ x.b.sheet.scratch ∧
      (op.sizeB = 0 ∨ b % 32 = 0 ∧ b + op.sizeB ≤ x.b.sheet.scratch))
theorem segsOk_of {x : Ctx} {op : SweepOp} {cnt : Nat} {sd sa sb : BitVec 6} (h : segsOkB x op cnt sd sa sb = true) :
    x.segsOk op cnt sd sa sb := by
  simp only [segsOkB, Bool.and_eq_true, beq_iff_eq] at h
  exact ⟨of_decide_eq_true h.2, fun a n wr => by simp [State.rangeWait, h.1.1], h.1.2⟩
theorem wit_Sweeps : ∀ p ∈ ([(0x40, readsAB, sweepFlds 2 4 6 0 0 0, fun x => elemSweep (fnFmt x.fn) x.rm elemAdd true x),
    (0x41, readsAB, sweepFlds 2 4 6 0 0 0, fun x => elemSweep (fnFmt x.fn) x.rm elemSub true x),
    (0x42, readsAB, sweepFlds 2 4 6 0 0 0, fun x => elemSweep (fnFmt x.fn) x.rm elemMul true x),
    (0x43, readsABC, sweepFlds 2 4 6 10 0 0, fun x => elemSweep (fnFmt x.fn) x.rm elemFma true x),
    (0x44, readsAB, sweepFlds 2 4 6 0 0 0, fun x => elemSweep (fnFmt x.fn) x.rm elemMin true x),
    (0x45, readsAB, sweepFlds 2 4 6 0 0 0, fun x => elemSweep (fnFmt x.fn) x.rm elemMax true x),
    (0x49, readsA, { sweepFlds 2 4 0 0 0 0 with ext := .sweep 3 1 1 0 }, fun x => elemSweep fp32 0 (elemFn1 fnExp) false x),
    (0x4B, readsA, { sweepFlds 2 4 0 0 0 0 with ext := .sweep 3 1 1 0 }, fun x => elemSweep fp32 0 (elemFn1 fnRcp) false x),
    (0x4D, readsA, { sweepFlds 2 4 0 0 0 0 with ext := .sweep 3 1 1 0 }, fun x => elemSweep fp32 x.rm elemSqrt false x),
    (0x53, readsA, { sweepFlds 2 4 0 0 2 0 with ext := .sweep 3 1 1 0 }, cvtSweep),
    (0x54, [⟨0, 1⟩, ⟨2, 1⟩], { sweepFlds 2 4 0 10 1 0 with ext := .sweep 3 1 1 0 }, cvqSweep),
    (0x55, [⟨0, 1⟩, ⟨0, 1⟩], { sweepFlds 2 4 0 0 1 0 with ext := .sweep 3 1 1 0 }, cvdSweep)] :
    List (Nat × List ReadAs × Fields × (Ctx → SweepOp))),
    ∃ x cnt sd sa sb, IssuesLong p.1 none p.2.1 p.2.2.1 sweepState x ∧ p.2.2.1.ext = .sweep cnt sd sa sb ∧ x.w.b.toNat ≠ 3 ∧
      x.segsOk (p.2.2.2 x) cnt.toNat sd sa sb := by
  intro p hp
  suffices h : (match p.2.2.1.ext with
      | .sweep cnt sd sa sb => check p.1 none p.2.1 p.2.2.1 sweepState (fun x => decide (x.w.b.toNat ≠ 3) && segsOkB x (p.2.2.2 x) cnt.toNat sd sa sb)
      | _ => false) = true by
    split at h
    · rename_i cnt sd sa sb he
      obtain ⟨x, hx, hb, hs⟩ := met_by (P := fun x => x.w.b.toNat ≠ 3 ∧ segsOkB x (p.2.2.2 x) cnt.toNat sd sa sb = true) _
        (fun x _ h => by simpa only [Bool.and_eq_true, decide_eq_true_eq] using h) h
      exact ⟨x, cnt, sd, sa, sb, hx, he, hb, segsOk_of hs⟩
    · cases h
  revert p
  rw [← List.all_eq_true]
  decide +kernel

/-! #### Memory -/

/-- A cached translation of core 0 that maps the first 8 GiB of context 0 to the same addresses of this device. -/
def tlb0 : TlbEntry := ⟨.core 0, 0, 0, 1, none, 0, 0, 0, true, true, true, true, true, 0⟩
/-- Two lanes in a crew of some role, with memory reachable and words of scratchpad. -/
def memState (role : Nat) (rows : List (List Nat)) : State :=
  let s := ready role rows
  { s with tlb := [tlb0], blocks := s.blocks.map fun b => { b with body := { b.body with scratch := writeBytes [] 64 ([0, 0, 0, 0, 2, 0, 0, 0, 5, 0, 0, 0]) } } }
def mem2 (role : Nat) : State := memState role [[0, 0, 0, 0, 128, 0, 64, 0, 0, 0, 8], [0, 0, 0, 0, 256, 0, 128, 0, 0, 0, 16]]
def mem1 (role : Nat) : State := memState role [[0, 0, 0, 0, 128, 0, 64, 0, 0, 0, 8]]

/-- A Bool form of `Quiet`. -/
def quietB (s : State) : Bool :=
  s.poison == [] && s.l1 == [] && s.intents == [] && s.copies == [] && s.agents == [] && s.recs == [] && s.dir == [] && s.downSpokes == []
theorem quiet_of {s : State} {core : Nat} (h : quietB s = true) : Quiet s core := by
  simp only [quietB, Bool.and_eq_true, beq_iff_eq] at h
  obtain ⟨⟨⟨⟨⟨⟨⟨h1, h0⟩, h2⟩, h3⟩, h4⟩, h5⟩, h6⟩, h7⟩ := h
  refine ⟨h1, by simp [h0], by simp [h2], by simp [h3], fun a => ?_, by simp [h5], by simp [h6], h7⟩
  simp [State.agentDead, State.agent, h4, Agent.reset]

/-- Whether no copy is under way. -/
def noCopies (s : State) : Bool := s.copies == []
theorem noWait {s : State} (h : noCopies s = true) (uid a n : Nat) (wr : Bool) : s.rangeWait uid a n wr = none := by
  have : s.copies = [] := by simpa [noCopies] using h
  simp [State.rangeWait, this]

/-- A Bool form of `Ctx.scratchOk`, where no copy is under way. -/
def scratchOkB (x : Ctx) (sa : Nat → Nat) (n : Nat) : Bool :=
  noCopies x.s0 && (x.act.all fun l => decide (sa l % n = 0 ∧ sa l + n ≤ x.b.sheet.scratch ∧ x.s0.lateClash x.uid x.ci (sa l) n = false)) &&
    (match x.s0.block? x.uid with | some b => b.body.bad == [] | none => true)
theorem scratchOk_of {x : Ctx} {sa : Nat → Nat} {n : Nat} {wr : Bool} (h : scratchOkB x sa n = true) : x.scratchOk sa n wr := by
  simp only [scratchOkB, Bool.and_eq_true, List.all_eq_true, decide_eq_true_eq] at h
  intro l hl
  refine ⟨(h.1.2 l hl).1, (h.1.2 l hl).2.1, noWait h.1.1 .., (h.1.2 l hl).2.2, fun b hb => ?_⟩
  have := h.2
  rw [hb] at this
  simpa using this

/-- The elements of a lane whose translations are at hand. -/
def planned (x : Ctx) (acc : Access) (es : Except LaneFault (List (Nat × Nat))) : List Elem :=
  match x.plan acc es with | .ready es => es | _ => []

/-- An instruction issues with its translations at hand and nothing outside the core to stop it. -/
theorem accesses {op : Nat} {reads : List ReadAs} {w : Fields} {s : State} (ok : Ctx → (Nat → List Elem) → Prop)
    [∀ x es, Decidable (ok x es)] (acc : Access) (elems : Ctx → Nat → Except LaneFault (List (Nat × Nat)))
    (h : check op none reads w s (fun x =>
      let es := fun l => planned x acc (elems x l)
      decide (ok x es) && decide (∀ l ∈ x.act, x.plan acc (elems x l) = .ready (es l)) &&
      quietB x.s0) = true) :
    ∃ (x : Ctx) (es : Nat → List Elem), IssuesLong op none reads w s x ∧ ok x es ∧ Quiet x.s0 x.b.core ∧
      ∀ l ∈ x.act, x.plan acc (elems x l) = .ready (es l) := by
  obtain ⟨x, hx, h1, h2, h3⟩ := met_by (P := fun x => ok x (fun l => planned x acc (elems x l)) ∧
    (∀ l ∈ x.act, x.plan acc (elems x l) = .ready (planned x acc (elems x l))) ∧ Quiet x.s0 x.b.core) _
    (fun x _ h => by
      simp only [Bool.and_eq_true, decide_eq_true_eq] at h
      exact ⟨h.1.1, h.1.2, quiet_of h.2⟩) h
  exact ⟨x, _, hx, h1, h3, h2⟩

/-- For `Obligations.GlobalAccesses`: each form. -/
theorem wit_GlobalAccesses_ld : ∃ (x : Ctx) (es : Nat → List Elem), IssuesLong 0xA0 none readsAC (flds 2 4 0 10 0 1) (mem2 0) x ∧ True ∧ Quiet x.s0 x.b.core ∧
    ∀ l ∈ x.act, x.plan .read (ldElems x l) = .ready (es l) := accesses (fun _ _ => True) _ _ (by decide +kernel)
theorem wit_GlobalAccesses_st : ∃ (x : Ctx) (es : Nat → List Elem), IssuesLong 0xA1 none readsABC (flds 0 4 6 10 0 1) (mem2 0) x ∧ x.b.sheet.det = false ∧
    Quiet x.s0 x.b.core ∧ ∀ l ∈ x.act, x.plan .write (ldElems x l) = .ready (es l) :=
  accesses (fun x _ => x.b.sheet.det = false) _ _ (by decide +kernel)
theorem wit_GlobalAccesses_lda : ∃ (x : Ctx) (es : Nat → List Elem), IssuesLong 0xA2 none readsAC (flds 2 4 0 10 3 0) (mem2 0) x ∧ True ∧ Quiet x.s0 x.b.core ∧
    ∀ l ∈ x.act, x.plan .read (ldaElems x l) = .ready (es l) := accesses (fun _ _ => True) _ _ (by decide +kernel)
theorem wit_GlobalAccesses_stl : ∃ (x : Ctx) (es : Nat → List Elem), IssuesLong 0xA3 none readsABC (flds 0 4 6 10 3 0) (mem2 0) x ∧ x.b.sheet.det = false ∧
    Quiet x.s0 x.b.core ∧ ∀ l ∈ x.act, x.plan .write (ldaElems x l) = .ready (es l) :=
  accesses (fun x _ => x.b.sheet.det = false) _ _ (by decide +kernel)
theorem wit_GlobalAccesses_ldv : ∃ (x : Ctx) (es : Nat → List Elem), IssuesLong 0xA6 none readsAB (flds 2 4 6 0 0 0) (mem2 0) x ∧ True ∧ Quiet x.s0 x.b.core ∧
    ∀ l ∈ x.act, x.plan .read (ldvElems x l) = .ready (es l) := accesses (fun _ _ => True) _ _ (by decide +kernel)
theorem wit_GlobalAccesses_stv : ∃ (x : Ctx) (es : Nat → List Elem), IssuesLong 0xA7 none readsABC (flds 0 4 6 10 0 0) (mem2 0) x ∧ x.b.sheet.det = false ∧
    Quiet x.s0 x.b.core ∧ ∀ l ∈ x.act, x.plan .write (ldvElems x l) = .ready (es l) :=
  accesses (fun x _ => x.b.sheet.det = false) _ _ (by decide +kernel)
/-- A Bool form of `AtomicPlace` for coherent memory. -/
def atHome (x : Ctx) (e : Elem) : Bool := match placeOf x.s0.hubid e.pa e.leaf.type with | .home _ => true | _ => false
theorem atHome_place {x : Ctx} {e : Elem} (h : atHome x e = true) : AtomicPlace x e := by
  unfold atHome at h
  unfold AtomicPlace
  split at h
  · rename_i k hk; rw [hk]; trivial
  · cases h
theorem wit_GlobalAccesses_atom : ∃ (x : Ctx) (es : Nat → List Elem), IssuesLong 0xA8 none readsAB (flds 2 4 6 10 0 8) (mem2 0) x ∧
    (x.inScratch = false ∧ x.b.sheet.det = false ∧ x.b.inside = false ∧ ∀ l ∈ x.act, ∀ e ∈ es l, AtomicPlace x e) ∧ Quiet x.s0 x.b.core ∧
    ∀ l ∈ x.act, x.plan .atomic (globalElems [x.a l 64] (memBytes x.mod)) = .ready (es l) := by
  obtain ⟨x, es, h, ⟨a, b, c, d⟩, q, p⟩ := accesses (op := 0xA8) (w := flds 2 4 6 10 0 8) (s := mem2 0) (reads := readsAB)
    (fun x es => x.inScratch = false ∧ x.b.sheet.det = false ∧ x.b.inside = false ∧ ∀ l ∈ x.act, ∀ e ∈ es l, atHome x e = true)
    .atomic (fun x l => globalElems [x.a l 64] (memBytes x.mod)) (by decide +kernel)
  exact ⟨x, es, h, ⟨a, b, c, fun l hl e he => atHome_place (d l hl e he)⟩, q, p⟩
theorem wit_GlobalAccesses_red : ∃ (x : Ctx) (es : Nat → List Elem), IssuesLong 0xA9 none readsAB (flds 0 4 6 0 0 8) (mem2 0) x ∧
    (x.inScratch = false ∧ x.staged = false ∧ x.b.sheet.det = false ∧ x.b.inside = false ∧
      ∀ l ∈ x.act, ∀ e ∈ es l, AtomicPlace x e) ∧ Quiet x.s0 x.b.core ∧
    ∀ l ∈ x.act, x.plan .atomic (globalElems [x.a l 64] (memBytes x.mod)) = .ready (es l) := by
  obtain ⟨x, es, h, ⟨a, b, b', c, d⟩, q, p⟩ := accesses (op := 0xA9) (w := flds 0 4 6 0 0 8) (s := mem2 0) (reads := readsAB)
    (fun x es => x.inScratch = false ∧ x.staged = false ∧ x.b.sheet.det = false ∧ x.b.inside = false ∧
      ∀ l ∈ x.act, ∀ e ∈ es l, atHome x e = true)
    .atomic (fun x l => globalElems [x.a l 64] (memBytes x.mod)) (by decide +kernel)
  exact ⟨x, es, h, ⟨a, b, b', c, fun l hl e he => atHome_place (d l hl e he)⟩, q, p⟩
/-- A state whose launch is deterministic. -/
def detState : State :=
  let s := mem1 0
  { s with blocks := s.blocks.map fun b => { b with sheet := { b.sheet with det := true } } }
/-- For `Obligations.GlobalAccesses`: a store of a deterministic launch. -/
theorem wit_GlobalAccesses_det : ∃ x l e, IssuesLong 0xA1 none readsABC (flds 0 4 6 10 0 1) detState x ∧ x.isPriv = false ∧
    x.b.sheet.det = true ∧ x.act = [l] ∧ x.plan .write (ldElems x l) = .ready [e] ∧ x.s0.downSpokes = [] ∧
    x.s0.slateRoom (x.s0.blockOr x.b) (memKey detState.hubid e.pa) e.n = true := by
  obtain ⟨x, h⟩ := met (op := 0xA1) (w := flds 0 4 6 10 0 1) (s := detState) (reads := readsABC) (fn := none)
    (fun x => x.isPriv = false ∧ x.b.sheet.det = true ∧ x.act = [0] ∧
      x.plan .write (ldElems x 0) = .ready [⟨136, 8, 136, tlb0.leaf⟩] ∧ x.s0.downSpokes = [] ∧
      x.s0.slateRoom (x.s0.blockOr x.b) (memKey detState.hubid 136) 8 = true) (by decide +kernel)
  exact ⟨x, 0, _, h⟩

/-- For `Obligations.LoadReadsMemory` and `StoreIsReadBack`. -/
theorem wit_LoadReadsMemory : ∃ x, IssuesLong 0xA0 none readsAC (flds 2 4 0 10 0 1) (mem1 0) x ∧ x.isPriv = false ∧ x.act = [0] ∧
    x.plan .read (ldElems x 0) = .ready [⟨136, 8, 136, tlb0.leaf⟩] ∧ placeOf (mem1 0).hubid 136 tlb0.leaf.type = .home 136 ∧
    (∀ k ∈ (mem1 0).l1, k.core ≠ x.b.core) ∧ x.b.body.slate = [] ∧ (mem1 0).l2Fault x.b.core 136 136 8 = none ∧ 136 % 128 = 136 % 128 ∧
    (mem1 0).downSpokes = [] ∧ (∀ k ∈ (mem1 0).l2, peerLine k.line = false) :=
  met _ (by decide +kernel)
theorem wit_StoreIsReadBack : ∃ x, IssuesLong 0xA1 none readsABC (flds 0 4 6 10 0 1) (mem1 0) x ∧ x.isPriv = false ∧
    x.b.sheet.det = false ∧ x.act = [0] ∧ x.plan .write (ldElems x 0) = .ready [⟨136, 8, 136, tlb0.leaf⟩] ∧
    placeOf (mem1 0).hubid 136 tlb0.leaf.type = .home 136 ∧ (∀ k ∈ (mem1 0).l1, k.core ≠ x.b.core) ∧
    (mem1 0).storeFault x.b.core x.b.ctx 136 136 8 none = none ∧ (mem1 0).downSpokes = [] ∧
    (∀ k ∈ (mem1 0).l2, peerLine k.line = false) ∧ (mem1 0).ckpt.state ≠ .streaming ∧ tlb0.leaf.dirty = true :=
  met _ (by decide +kernel)

/-- For `Obligations.ScratchAccesses`: offsets 136 and 272, and at the end of the scratchpad. -/
theorem wit_ScratchAccesses_lds : ∃ x, IssuesLong 0xA4 none readsAC (flds 2 4 0 10 0 0) (mem2 0) x ∧
    x.scratchOk x.sa (memBytes x.mod) false :=
  met_by (fun x => scratchOkB x x.sa (memBytes x.mod)) (fun _ _ h => scratchOk_of h) (by decide +kernel)
theorem wit_ScratchAccesses_sts : ∃ x, IssuesLong 0xA5 none readsABC (flds 0 4 6 10 0 0) (memState 0 [[0, 0, 0, 0, 4088, 0, 7, 0, 0, 0, 4]]) x ∧
    x.scratchOk x.sa (memBytes x.mod) true :=
  met_by (fun x => scratchOkB x x.sa (memBytes x.mod)) (fun _ _ h => scratchOk_of h) (by decide +kernel)
theorem wit_ScratchAccesses_atom : ∃ x, IssuesLong 0xA8 none readsAB (flds 2 4 6 0x81 0 8) (mem2 0) x ∧
    x.inScratch = true ∧ x.scratchOk (fun l => x.a l 32) (memBytes x.mod) true :=
  met_by (fun x => x.inScratch && scratchOkB x (fun l => x.a l 32) (memBytes x.mod))
    (fun _ _ h => by rw [Bool.and_eq_true] at h; exact ⟨h.1, scratchOk_of h.2⟩) (by decide +kernel)
theorem wit_ScratchAccesses_red : ∃ x, IssuesLong 0xA9 none readsAB (flds 0 4 6 0x81 0 8) (mem2 0) x ∧
    x.inScratch = true ∧ x.staged = false ∧ x.scratchOk (fun l => x.a l 32) (memBytes x.mod) true :=
  met_by (fun x => x.inScratch && !x.staged && scratchOkB x (fun l => x.a l 32) (memBytes x.mod))
    (fun _ _ h => by
      simp only [Bool.and_eq_true, Bool.not_eq_true'] at h
      exact ⟨h.1.1, h.1.2, scratchOk_of h.2⟩) (by decide +kernel)

/-- For `Obligations.FencesAndCode`: the two ranges of the scope meet at cta (2) and die (3). -/
theorem wit_FencesAndCode_narrow : ∃ x, IssuesLong 0xAA none [] (flds 0 0 0 0 2 1) (plainState 0) x ∧ x.act ≠ [] ∧ x.fn < 3 :=
  met _ (by decide +kernel)
theorem wit_FencesAndCode_wide : ∃ x, IssuesLong 0xAA none [] (flds 0 0 0 0 3 1) (plainState 0) x ∧ x.act ≠ [] ∧ 3 ≤ x.fn ∧
    (x.mod = 1 ∨ x.mod = 3 ∨ x.mod = 4 → (x.s0.fencePublish x.b.core).2.2 = .done) := by
  obtain ⟨x, h, a, b, c⟩ := met_by (op := 0xAA) (fn := none) (reads := []) (w := flds 0 0 0 0 3 1) (s := plainState 0)
    (P := fun x => x.act ≠ [] ∧ 3 ≤ x.fn ∧ (x.s0.fencePublish x.b.core).2.2 = .done)
    (fun x => decide (x.act ≠ [] ∧ 3 ≤ x.fn) && match (x.s0.fencePublish x.b.core).2.2 with | .done => true | _ => false)
    (fun x _ h => by
      simp only [Bool.and_eq_true, decide_eq_true_eq] at h
      refine ⟨h.1.1, h.1.2, ?_⟩
      have := h.2
      split at this
      · assumption
      · cases this) (by decide +kernel)
  exact ⟨x, h, a, b, fun _ => c⟩

/-- For `Obligations.RaggedRowsAndWalks`: rows of 2, 0 and 3 elements at offset 64; indices 1 and 5, the second in no row. -/
theorem wit_RaggedRowsAndWalks_ragw : ∃ (x : Ctx) (v : Nat → Option (Nat × Nat)), IssuesLong 0x5A none readsABC (flds 2 4 6 10 0 0)
    (memState 0 [[0, 0, 0, 0, 1, 0, 64, 0, 0, 0, 2], [0, 0, 0, 0, 5, 0, 64, 0, 0, 0, 2]]) x ∧ ∀ l ∈ x.act, ragFind x l = .ok (v l) := by
  obtain ⟨x, h, p⟩ := met_by (op := 0x5A) (fn := none) (reads := readsABC) (w := flds 2 4 6 10 0 0)
    (s := memState 0 [[0, 0, 0, 0, 1, 0, 64, 0, 0, 0, 2], [0, 0, 0, 0, 5, 0, 64, 0, 0, 0, 2]])
    (P := fun x => ∀ l ∈ x.act, ∃ v, ragFind x l = .ok v)
    (fun x => x.act.all fun l => match ragFind x l with | .ok _ => true | .error _ => false)
    (fun x _ h l hl => by
      have := List.all_eq_true.mp h l hl
      split at this
      · rename_i v hv; exact ⟨v, hv⟩
      · cases this) (by decide +kernel)
  classical
  exact ⟨x, fun l => if hl : l ∈ x.act then (p l hl).choose else none, h, fun l hl => by simpa [hl] using (p l hl).choose_spec⟩
/-- A query and a tree in one line of zeros: a tree of depth 0. -/
def walkState : State := memState 0 [[0, 0, 0, 0, 128, 0, 160]]
theorem wit_RaggedRowsAndWalks_vxwalk : ∃ x t rs, IssuesLong 0x5D none readsABC (flds 2 4 6 10 0 0) walkState x ∧ True ∧
    vxwalkBody x = .done t rs ∧ ∀ p ∈ rs, p.2 = .next := runs (fun _ => True) _ (by decide +kernel)
theorem wit_RaggedRowsAndWalks_result : ∃ x d, IssuesLong 0x5D none readsABC (flds 2 4 6 10 0 0) walkState x ∧ x.act = [0] ∧
    (vxLane x x.s0 0).1.out = some (.result d) := by
  obtain ⟨x, h, a, b⟩ := met_by (op := 0x5D) (fn := none) (reads := readsABC) (w := flds 2 4 6 10 0 0) (s := walkState)
    (P := fun x => x.act = [0] ∧ (vxLane x x.s0 0).1.out = some (.result 0))
    (fun x => decide (x.act = [0]) && match (vxLane x x.s0 0).1.out with | some (.result 0) => true | _ => false)
    (fun x _ h => by
      simp only [Bool.and_eq_true, decide_eq_true_eq] at h
      refine ⟨h.1, ?_⟩
      have := h.2
      split at this
      · assumption
      · cases this) (by decide +kernel)
  exact ⟨x, 0, h, a, b⟩

/-- For `Obligations.FrontAppends`: a list at offset 64 that two lanes fill. -/
theorem wit_FrontAppends : ∃ x, IssuesLong 0x5E none readsAB (flds 2 4 6 0 0 0)
    (let s := memState 0 [[0, 0, 0, 0, 64, 0, 7], [0, 0, 0, 0, 64, 0, 9]]
     { s with blocks := s.blocks.map fun b => { b with body := { b.body with scratch := writeBytes [] 64 [3, 0, 0, 0, 5, 0, 0, 0] } } }) x ∧
    x.act ≠ [] ∧ (∀ l ∈ x.act, x.a l 32 = 64) ∧ 64 % 32 = 0 ∧ 64 + 32 + 4 * 5 ≤ x.b.sheet.scratch ∧
    (∀ a n, x.s0.rangeWait x.uid a n true = none) ∧ x.badScratch x.s0 64 8 = false ∧ fromBytes (x.s0.scratchRead x.uid 64 4) = 3 ∧
    fromBytes (x.s0.scratchRead x.uid (64 + 4) 4) = 5 ∧ 3 + x.act.length ≤ 5 :=
  met_by (fun x => decide (x.act ≠ [] ∧ (∀ l ∈ x.act, x.a l 32 = 64) ∧ 64 + 32 + 4 * 5 ≤ x.b.sheet.scratch ∧
      x.badScratch x.s0 64 8 = false ∧ fromBytes (x.s0.scratchRead x.uid 64 4) = 3 ∧ fromBytes (x.s0.scratchRead x.uid (64 + 4) 4) = 5 ∧ 3 + x.act.length ≤ 5) &&
      noCopies x.s0)
    (fun x _ h => by
      simp only [Bool.and_eq_true, decide_eq_true_eq] at h
      obtain ⟨⟨a, b, c, i, d, e, f⟩, g⟩ := h
      exact ⟨a, b, by decide, c, fun _ _ => noWait g .., i, d, e, f⟩) (by decide +kernel)

/-! #### Calls and copies -/

/-- For `Obligations.Calls`: calls at depths 0 and 31, a return from depth 1, and a return at depth 0. -/
def callState (depth : Nat) : State :=
  let s := memState 0 [[0, 0, 0, 0, 0xFFFFFFF0, 0], [0, 0, 0, 0, 0x40, 0]]
  { s with blocks := s.blocks.map fun b => { b with
      sheet := { b.sheet with pmode := 1, priv := 256, pbase := 0x8000 }
      body := { b.body with crews := b.body.crews.map fun c => { c with threads := c.threads.map fun t => { t with depth } } } } }
theorem wit_Calls_call : ∃ (x : Ctx) (es : Nat → List Elem), IssuesLong 0x23 none readsA (flds 0 4 0 0 0 0) (callState 0) x ∧
    (∀ l ∈ x.act, (x.t l).depth < 32 ∧ wrapInt ((x.pc : Int) + sext (x.a l 32) 32) 64 % 4 = 0 ∧
      x.plan .write (stackElems x l (x.t l).depth) = .ready (es l)) ∧ Quiet x.s0 x.b.core := by
  obtain ⟨x, es, h, b, c, d⟩ := accesses (op := 0x23) (w := flds 0 4 0 0 0 0) (s := callState 0) (reads := readsA)
    (fun x _ => ∀ l ∈ x.act, (x.t l).depth < 32 ∧ wrapInt ((x.pc : Int) + sext (x.a l 32) 32) 64 % 4 = 0)
    .write (fun x l => stackElems x l (x.t l).depth) (by decide +kernel)
  exact ⟨x, es, h, fun l hl => ⟨(b l hl).1, (b l hl).2, d l hl⟩, c⟩
theorem wit_Calls_callx : ∃ (x : Ctx) (es : Nat → List Elem), IssuesLong 0x24 none readsA (flds 0 4 0 0 0 0) (callState 31) x ∧
    (∀ l ∈ x.act, (x.t l).depth < 32 ∧ x.a l 64 % 4 = 0 ∧
      x.plan .write (stackElems x l (x.t l).depth) = .ready (es l)) ∧ Quiet x.s0 x.b.core := by
  obtain ⟨x, es, h, b, c, d⟩ := accesses (op := 0x24) (w := flds 0 4 0 0 0 0) (s := callState 31) (reads := readsA)
    (fun x _ => ∀ l ∈ x.act, (x.t l).depth < 32 ∧ x.a l 64 % 4 = 0)
    .write (fun x l => stackElems x l (x.t l).depth) (by decide +kernel)
  exact ⟨x, es, h, fun l hl => ⟨(b l hl).1, (b l hl).2, d l hl⟩, c⟩
theorem wit_Calls_ret : ∃ x, IssuesLong 0x25 none [] (flds 0 0 0 0 0 0) { callState 1 with issue := some ⟨0, 0, [0], none, 0⟩ } x ∧
    x.act = [0] ∧ x.b.isDirector = false ∧ (x.t 0).depth ≠ 0 ∧ x.s0.downSpokes = [] ∧
    x.plan .read (stackElems x 0 ((x.t 0).depth - 1)) = .ready [⟨0x8000, 8, 0x8000, tlb0.leaf⟩] ∧
    (∃ s1, readElem x x.s0 x.privOwner ⟨0x8000, 8, 0x8000, tlb0.leaf⟩ = (s1, .ok (some (List.replicate 8 0)))) ∧
    fromBytes (List.replicate 8 0) % 4 = 0 := by
  obtain ⟨x, h, a, b, c, i, d, e⟩ := met_by (op := 0x25) (fn := none) (reads := []) (w := flds 0 0 0 0 0 0)
    (s := { callState 1 with issue := some ⟨0, 0, [0], none, 0⟩ })
    (P := fun x => x.act = [0] ∧ x.b.isDirector = false ∧ (x.t 0).depth ≠ 0 ∧ x.s0.downSpokes = [] ∧
      x.plan .read (stackElems x 0 ((x.t 0).depth - 1)) = .ready [⟨0x8000, 8, 0x8000, tlb0.leaf⟩] ∧
      (match (readElem x x.s0 x.privOwner ⟨0x8000, 8, 0x8000, tlb0.leaf⟩).2 with
        | .ok (some bs) => decide (bs = List.replicate 8 0) | _ => false) = true)
    _ (fun x _ h => of_decide_eq_true h) (by decide +kernel)
  refine ⟨x, h, a, b, c, i, d, ⟨(readElem x x.s0 x.privOwner ⟨0x8000, 8, 0x8000, tlb0.leaf⟩).1, ?_⟩, by decide⟩
  split at e
  · rename_i bs hb
    rw [← of_decide_eq_true e, ← hb]
  · cases e
theorem wit_Calls_fault : ∃ x, IssuesLong 0x25 none [] (flds 0 0 0 0 0 0) (callState 0) x ∧ (∀ l ∈ x.act, (x.t l).depth = 0) ∧
    x.b.isDirector = false := met _ (by decide +kernel)

/-- A descriptor of two rows of 64 bytes (R248), and one with a follow-on (R258). -/
def descOf (dir kind xtra : Nat) : Nat :=
  4096 + 256 * 2 ^ 64 + 64 * 2 ^ 96 + 64 * 2 ^ 128 + 64 * 2 ^ 160 + 2 * 2 ^ 192 + kind * 2 ^ 208 + dir * 2 ^ 212 + xtra * 2 ^ 216
def copyState (d : Nat) : State :=
  let s := memState 1 [[0, 0, 0, 0, 64, 0, 2]]
  { s with blocks := s.blocks.map fun b => { b with
      tiles := updAt b.tiles 1 fun _ => ⟨.bound, 4, 4, [], 1, none, 0, 0, false⟩
      body := { b.body with scratch := writeBytes [] 64 (toBytes d 64) } } }
/-- For `Obligations.Copies`: each instruction. -/
theorem wit_Copies_runs : ∀ p ∈ ([(0xC0, descOf 0 0 0), (0xC2, descOf 1 0 3), (0xC3, descOf 1 0 0x80)] : List (Nat × Nat)),
    ∃ x t rs, IssuesLong p.1 none readsA (flds 0 4 0 0 0 0) (copyState p.2) x ∧ True ∧ laneBody copyLane x = .done t rs ∧
      ∀ r ∈ rs, r.2 = .next := by
  intro p hp
  refine runs (fun _ => True) _ ?_
  revert p
  rw [← List.all_eq_true]
  decide +kernel
theorem wit_Copies_single : ∀ p ∈ ([(0xC0, descOf 0 0 0), (0xC2, descOf 1 0 3), (0xC3, descOf 1 0 0x80)] : List (Nat × Nat)),
    ∃ x d, IssuesLong p.1 none readsA (flds 0 4 0 0 0 0) (copyState p.2) x ∧ x.act = [0] ∧
      (x.s0.copies.filter fun c => c.core == x.b.core).length < 128 ∧ x.scratchOk (fun k => x.a k 32) 32 false ∧
      checkCopy p.1 (x.a 0 32) x.b.sheet.scratch (fromBytes (x.s0.scratchRead x.uid (x.a 0 32) 32)) = .ok d := by
  intro p hp
  have h : check p.1 none readsA (flds 0 4 0 0 0 0) (copyState p.2) (fun x => decide (x.act = [0] ∧
      (x.s0.copies.filter fun c => c.core == x.b.core).length < 128) && scratchOkB x (fun k => x.a k 32) 32 &&
      (match checkCopy p.1 (x.a 0 32) x.b.sheet.scratch (fromBytes (x.s0.scratchRead x.uid (x.a 0 32) 32)) with
        | .ok d => decide (d = CopyDesc.parse p.2) | .error _ => false)) = true := by
    revert p
    rw [← List.all_eq_true]
    decide +kernel
  obtain ⟨x, hx, a, b, c, d⟩ := met_by (P := fun x => x.act = [0] ∧ (x.s0.copies.filter fun c => c.core == x.b.core).length < 128 ∧
      x.scratchOk (fun k => x.a k 32) 32 false ∧
      checkCopy p.1 (x.a 0 32) x.b.sheet.scratch (fromBytes (x.s0.scratchRead x.uid (x.a 0 32) 32)) = .ok (CopyDesc.parse p.2)) _
    (fun x _ h => by
      simp only [Bool.and_eq_true, decide_eq_true_eq] at h
      refine ⟨h.1.1.1, h.1.1.2, scratchOk_of h.1.2, ?_⟩
      have := h.2
      split at this
      · rename_i d hd; rw [hd, of_decide_eq_true this]
      · cases this) h
  exact ⟨x, _, hx, a, b, c, d⟩
/-- A copy whose follow-on is `mloadb` of tile 1 at 0x2000. -/
def followState : State := copyState (descOf 0 0 0 + 1 * 2 ^ 256 + 1 * 2 ^ 264 + 0x2000 * 2 ^ 320)
def followPut (x : Ctx) : TileCmd := { x.cmd (x.s0.blockOr x.b) [1] 0x2000 0 [] with op := 0xD1 }
theorem wit_Copies_cpym : ∃ x k, IssuesLong 0xC1 none readsA (flds 0 4 0 0 0 0) followState x ∧ x.act = [0] ∧
    (x.s0.copies.filter fun c => c.core == x.b.core).length < 128 ∧ x.b.cmds.length < 64 ∧ x.b.followPends x.c x.clk x.w 0 = false ∧
    x.checkScratch (x.a 0 32) 64 32 = none ∧ x.s0.rangeWait x.uid (x.a 0 32) 64 false = none ∧ (x.s0.blockOr x.b).body.bad = [] ∧
    followBad (fromBytes (x.s0.scratchRead x.uid (x.a 0 32) 64)) = none ∧
    checkCopy 0xC1 (x.a 0 32) x.b.sheet.scratch (fromBytes (x.s0.scratchRead x.uid (x.a 0 32) 64)) = .ok (CopyDesc.parse (descOf 0 0 0)) ∧
    followCmd x (x.s0.blockOr x.b) (fromBytes (x.s0.scratchRead x.uid (x.a 0 32) 64)) = .ok k := by
  obtain ⟨x, hx, a, b, c, d, e, f, g, h, i, j⟩ := met_by (op := 0xC1) (fn := none) (reads := readsA) (w := flds 0 4 0 0 0 0) (s := followState)
    (P := fun x => x.act = [0] ∧ (x.s0.copies.filter fun c => c.core == x.b.core).length < 128 ∧ x.b.cmds.length < 64 ∧
      x.b.followPends x.c x.clk x.w 0 = false ∧ x.checkScratch (x.a 0 32) 64 32 = none ∧ x.s0.rangeWait x.uid (x.a 0 32) 64 false = none ∧
      (x.s0.blockOr x.b).body.bad = [] ∧ followBad (fromBytes (x.s0.scratchRead x.uid (x.a 0 32) 64)) = none ∧
      checkCopy 0xC1 (x.a 0 32) x.b.sheet.scratch (fromBytes (x.s0.scratchRead x.uid (x.a 0 32) 64)) = .ok (CopyDesc.parse (descOf 0 0 0)) ∧
      followCmd x (x.s0.blockOr x.b) (fromBytes (x.s0.scratchRead x.uid (x.a 0 32) 64)) = .ok (followPut x))
    (fun x => decide (x.act = [0] ∧ (x.s0.copies.filter fun c => c.core == x.b.core).length < 128 ∧ x.b.cmds.length < 64 ∧
        x.b.followPends x.c x.clk x.w 0 = false ∧ x.checkScratch (x.a 0 32) 64 32 = none ∧ x.s0.rangeWait x.uid (x.a 0 32) 64 false = none ∧
        (x.s0.blockOr x.b).body.bad = [] ∧ followBad (fromBytes (x.s0.scratchRead x.uid (x.a 0 32) 64)) = none) &&
      (match checkCopy 0xC1 (x.a 0 32) x.b.sheet.scratch (fromBytes (x.s0.scratchRead x.uid (x.a 0 32) 64)) with
        | .ok d => decide (d = CopyDesc.parse (descOf 0 0 0)) | .error _ => false) &&
      (match followCmd x (x.s0.blockOr x.b) (fromBytes (x.s0.scratchRead x.uid (x.a 0 32) 64)) with
        | .ok k => decide (k = followPut x) | .error _ => false))
    (fun x _ h => by
      simp only [Bool.and_eq_true, decide_eq_true_eq] at h
      obtain ⟨⟨⟨a, b, c, d, e, f, g, i⟩, j⟩, k⟩ := h
      refine ⟨a, b, c, d, e, f, g, i, ?_, ?_⟩
      · split at j
        · rename_i d hd; rw [hd, of_decide_eq_true j]
        · cases j
      · split at k
        · rename_i d hd; rw [hd, of_decide_eq_true k]
        · cases k) (by decide +kernel)
  exact ⟨x, _, hx, a, b, c, d, e, f, g, h, i, j⟩
theorem wit_Copies_cpym_runs : ∃ x t rs, IssuesLong 0xC1 none readsA (flds 0 4 0 0 0 0) followState x ∧
    (x.b.cmds.length + x.act.length ≤ 64 ∧ ∀ l ∈ x.act, x.b.followPends x.c x.clk x.w l = false) ∧ laneBody cpymLane x = .done t rs ∧
    ∀ r ∈ rs, r.2 = .next :=
  runs (fun x => x.b.cmds.length + x.act.length ≤ 64 ∧ ∀ l ∈ x.act, x.b.followPends x.c x.clk x.w l = false) _ (by decide +kernel)
theorem wit_Copies_comb : ∃ x, IssuesLong 0xC4 none readsAB (flds 0 4 6 0 0 0) (copyState 0) x ∧
    (x.s0.copies.filter fun c => c.core == x.b.core).length + x.act.length ≤ 128 ∧ ∀ l ∈ x.act, x.a l 64 % 4 = 0 := met _ (by decide +kernel)
theorem wit_Copies_flagr : ∃ x, IssuesLong 0xC8 none readsAB (flds 0 4 6 0 0 0) (copyState 0) x ∧ x.b.sheet.det = false ∧
    x.b.inside = false ∧ (x.s0.copies.filter fun c => c.core == x.b.core).length + x.act.length ≤ 128 ∧
    ∀ l ∈ x.act, x.a l 64 % 4 = 0 ∧ x.bv l 32 ≤ 3 := met _ (by decide +kernel)
theorem wit_Copies_bwait : ∃ x, IssuesLong 0xC6 none readsA (flds 0 4 0 0 0 0) (copyState 0) x ∧
    ∀ l ∈ x.act, x.s0.batchOpen x.uid x.ci l (x.t l) (x.a l 32) = false := met _ (by decide +kernel)
/-- A copy in some state, of a block that is there. -/
def oneCopy (op : Nat) (st : CopyState) (landed : Bool) : Copy :=
  { id := 9, uid := 0, core := 0, ctx := 0, ci := 0, lane := 0, op, batch := 1, pc := 0x1000, queue := none, st, descAddr := 0,
    desc := CopyDesc.parse (descOf 0 0 0), range := none, dest := [], epoch := 0, moved := 0, arrived := none, head := none, landed, flags := 0, follow := none }
def withCopy (c : Copy) : State := { copyState 0 with copies := [c] }
theorem wit_Copies_start : ∃ c, (withCopy (oneCopy 0xC0 .queued false)).copies.find? (fun e => e.id == 9) = some c ∧ c.st = .queued ∧
    c.op ≠ 0xC8 ∧ (withCopy (oneCopy 0xC0 .queued false)).copyReady c = true := ⟨_, rfl, by decide +kernel⟩
theorem wit_Copies_finish : ∃ c, (withCopy (oneCopy 0xC0 .moving true)).copies.find? (fun e => e.id == 9) = some c ∧ c.st = .moving ∧
    c.landed = true := ⟨_, rfl, by decide +kernel⟩

/-- Page tables that map the first 8 GiB of context 0 to the same addresses of this device. -/
def mapped (s : State) : State :=
  { s with mem := writeNat (writeNat s.mem 0x20000 8 0x10001) 0x10000 8 0x363, ctxs := updAt s.ctxs 0 fun c => { c with root := 0x20000 } }
/-- The same with the lines of the tables, and line 32 owned, in the L2 of die 0. -/
def near (s : State) : State := { s with l2 := [⟨0, 1024, .s⟩, ⟨0, 512, .s⟩, ⟨0, 32, .m⟩] }
def flagState : State := near (mapped (withCopy (oneCopy 0xC8 .queued false)))
theorem wit_Copies_flag : (∃ c, flagState.copies.find? (fun e => e.id == 9) = some c ∧ c.op = 0xC8 ∧ c.st = .queued ∧
    flagState.copyReady c = true) ∧ ((flagState.runCopy 9).copies.any fun e => e.id == 9 && e.landed) = true :=
  ⟨⟨_, rfl, by decide +kernel⟩, by decide +kernel⟩

/-! #### Rings and barriers -/

def ringState (r : Ring) : State :=
  let s := memState 0 [[0, 0, 0, 0, 256, 0, 4 + 256 * 0], [0, 0, 0, 0, 256, 0, 4]]
  { s with blocks := s.blocks.map fun b => { b with body := { b.body with rings := updAt b.body.rings 2 fun _ => r } } }
/-- For `Obligations.StageRings`: rings of 1 and of 16 slots, and groups that find room, FULL slots or neither. -/
theorem wit_StageRings_init : ∀ n ∈ [1, 16], ∃ x, IssuesLong 0xE0 (some 1) (lowRead [0, 1]) (flds 2 4 6 0 1 0)
    (memState 0 [[0, 0, 0, 0, 256, 0, n]]) x ∧ x.act ≠ [] ∧ 1 ≤ x.bv x.low 32 % 32 ∧ x.bv x.low 32 % 32 ≤ 16 ∧
    x.bv x.low 32 / 32 % 8 = 0 ∧ x.bv x.low 32 / 256 ≤ 2 ∧ x.a x.low 32 % 16 = 0 ∧
    x.a x.low 32 + 16 * (x.bv x.low 32 % 32) ≤ x.b.sheet.scratch := by
  intro n hn
  refine met _ ?_
  revert n
  rw [← List.all_eq_true]
  decide +kernel
def emptyRing : Ring := ⟨256, 4, 0, 0, 0, List.replicate 4 .empty⟩
def fullRing : Ring := ⟨256, 4, 0, 4, 0, List.replicate 4 .full⟩
theorem wit_StageRings_put : ∃ x, IssuesLong 0xE0 (some 0) readsA (flds 2 4 0 0 0 0) (ringState emptyRing) x ∧ x.act ≠ [] ∧
    x.ringAnswer true = .ready := met _ (by decide +kernel)
theorem wit_StageRings_put_waits : ∃ x, IssuesLong 0xE0 (some 0) readsA (flds 2 4 0 0 0 0) (ringState fullRing) x ∧ x.act ≠ [] ∧
    x.ringAnswer true = .waits := met _ (by decide +kernel)
theorem wit_StageRings_get : ∃ x, IssuesLong 0xE1 none [] (flds 2 2 0 0 0 0) (ringState fullRing) x ∧ x.act ≠ [] ∧
    x.ringAnswer false = .ready := met _ (by decide +kernel)
theorem wit_StageRings_get_waits : ∃ x, IssuesLong 0xE1 none [] (flds 2 2 0 0 0 0) (ringState emptyRing) x ∧ x.act ≠ [] ∧
    x.ringAnswer false = .waits := met _ (by decide +kernel)

/-- A Bool form of `Ctx.barOk`. -/
def barOkB (x : Ctx) (k : Nat) : Bool :=
  decide (x.act.Nodup ∧ k ≤ 1024 ∧ (∀ l ∈ x.act, x.bv l 32 = k ∧ hasArr (x.b.bar x.w.a.toNat).arrs x.ci l = false) ∧
    ((x.b.bar x.w.a.toNat).arrs = [] ∨ (x.b.bar x.w.a.toNat).count = k))
theorem barOk_of {x : Ctx} {k : Nat} (h : barOkB x k = true) : x.barOk := by
  obtain ⟨a, b, c, d⟩ := of_decide_eq_true h
  exact ⟨a, k, b, c, d⟩
/-- Two lanes with equal counts, a cast with this block as a member, and a package barrier with a count. -/
def meetState (n : Nat) : State :=
  let s := memState 0 [[0, 0, 0, 0, 0, 0, n], [0, 0, 0, 0, 0, 0, n]]
  { s with launches := s.launches.map fun l => { l with casts := [⟨[0], 0, [], []⟩] },
           ctxs := updAt s.ctxs 0 fun c => { c with pkgs := [⟨0, 5, 0, [], [], none⟩] } }
/-- For `Obligations.BarrierForms`: counts 0 and 1024. -/
theorem wit_BarrierForms_bar : ∀ p ∈ ([(0, flds 0 4 6 0 0 0, 0), (0, flds 0 4 6 0 0 0, 1024), (1, flds 0 4 6 0 1 0, 0), (3, flds 2 4 6 0 3 0, 0)] :
    List (Nat × Fields × Nat)), ∃ x, IssuesLong 0xE6 (some p.1) readsB p.2.1 (meetState p.2.2) x ∧ x.barOk := by
  intro p hp
  refine met_by (fun x => barOkB x p.2.2) (fun _ _ h => barOk_of h) ?_
  revert p
  rw [← List.all_eq_true]
  decide +kernel
theorem wit_BarrierForms_cast : ∀ p ∈ ([(0, lowRead [0], flds 0 4 0 0 0 0), (1, lowRead [0], flds 0 4 0 0 1 0), (2, lowRead [0], flds 0 4 0 0 2 0),
    (3, lowRead [0], flds 2 4 0 0 3 0)] : List (Nat × List ReadAs × Fields)), ∃ x, IssuesLong 0xE7 (some p.1) p.2.1 p.2.2 (meetState 0) x ∧
    (0 = x.a x.low 32 ∧ (∀ l ∈ x.act, x.a l 32 = 0) ∧ (x.s0.castFor x.b 0).isSome = true) ∧ x.meetOk false 0 := by
  intro p hp
  obtain ⟨x, h, a, b⟩ := met (op := 0xE7) (fn := some p.1) (reads := p.2.1) (w := p.2.2) (s := meetState 0)
    (fun x => (0 = x.a x.low 32 ∧ (∀ l ∈ x.act, x.a l 32 = 0) ∧ (x.s0.castFor x.b 0).isSome = true) ∧
      (x.s0.downSpokes = [] ∧ x.act.Nodup ∧ ∀ l ∈ x.act, hasArr (meetOf (x.b.body.meets false) 0).arrs x.ci l = false))
    (by
      revert p
      rw [← List.all_eq_true]
      decide +kernel)
  exact ⟨x, h, a, b⟩
theorem wit_BarrierForms_package : ∀ p ∈ ([(0, flds 0 4 0 0 0 0), (1, flds 0 4 0 0 1 0), (2, flds 0 4 0 0 2 0)] : List (Nat × Fields)),
    ∃ x, IssuesLong 0xE8 (some p.1) (lowRead [0]) p.2 (meetState 0) x ∧
    (0 = x.a x.low 32 ∧ (∀ l ∈ x.act, x.a l 32 = 0) ∧ 0 ≤ 63) ∧ (x.s0.pkg x.b.ctx 0).count ≠ 0 ∧ x.meetOk true 0 := by
  intro p hp
  obtain ⟨x, h, a, b, c⟩ := met (op := 0xE8) (fn := some p.1) (reads := lowRead [0]) (w := p.2) (s := meetState 0)
    (fun x => (0 = x.a x.low 32 ∧ (∀ l ∈ x.act, x.a l 32 = 0) ∧ 0 ≤ 63) ∧ (x.s0.pkg x.b.ctx 0).count ≠ 0 ∧
      (x.s0.downSpokes = [] ∧ x.act.Nodup ∧ ∀ l ∈ x.act, hasArr (meetOf (x.b.body.meets true) 0).arrs x.ci l = false))
    (by
      revert p
      rw [← List.all_eq_true]
      decide +kernel)
  exact ⟨x, h, a, b, c⟩
theorem wit_BarrierForms_config : ∃ x, IssuesLong 0xE8 (some 3) (lowRead [0, 1]) (flds 0 4 6 0 3 0)
    (memState 0 [[0, 0, 0, 0, 63, 0, 65535]]) x ∧ x.act ≠ [] ∧ x.a x.low 32 ≤ 63 ∧ 1 ≤ x.bv x.low 32 ∧ x.bv x.low 32 ≤ 65535 ∧
    (x.s0.pkg x.b.ctx (x.a x.low 32)).arrived = [] ∧ (x.s0.pkg x.b.ctx (x.a x.low 32)).next = [] ∧
    (x.s0.pkg x.b.ctx (x.a x.low 32)).ending = none := met _ (by decide +kernel)

/-- A block all of whose live threads have arrived at barrier 1, and whose own arrivals at a cast and a package barrier are sent. -/
def arrivedState : State :=
  let s := meetState 0
  { s with blocks := s.blocks.map fun b => { b with body := { b.body with
      bars := updAt b.body.bars 1 fun _ => ⟨0, (List.range 32).map fun l => ⟨0, l, none, 0, []⟩, none, 0⟩
      casts := [⟨0, [], some 0, false, false⟩], pkgs := [⟨0, [], some 0, false, false⟩] } } }
/-- For `Obligations.BarrierReleases`. -/
theorem wit_BarrierReleases_bar : ∃ b, arrivedState.block? 0 = some b ∧ (b.bar 1).arrs ≠ [] ∧ (b.bar 1).count = 0 ∧
    (∀ p ∈ b.liveThreads, hasArr (b.bar 1).arrs p.1 p.2 = true) ∧ arrivedState.copiesDone ((b.bar 1).arrs.flatMap (·.carried)) = true :=
  ⟨_, rfl, by decide +kernel⟩
theorem wit_BarrierReleases_cast : ∃ b h, arrivedState.block? 0 = some b ∧ (meetOf b.body.casts 0).sent = some 0 ∧
    (meetOf b.body.casts 0).counted = false ∧ arrivedState.castFor b 0 = some h := ⟨_, _, rfl, by decide +kernel, by decide +kernel, rfl⟩
theorem wit_BarrierReleases_package : ∃ b, arrivedState.block? 0 = some b ∧ (meetOf b.body.pkgs 0).sent = some 0 ∧
    (meetOf b.body.pkgs 0).counted = false ∧ (arrivedState.pkg b.ctx 0).g ≤ 0 ∧ (b.launch, b.lin) ∉ (arrivedState.pkg b.ctx 0).arrived ∧
    (arrivedState.pkg b.ctx 0).ending = none := ⟨_, rfl, by decide +kernel⟩
theorem wit_BarrierReleases_countdown :
    (({ arrivedState with ctxs := updAt arrivedState.ctxs 0 fun c => { c with pkgs := [⟨0, 1, 0, [(0, 0)], [], some 0⟩] } } : State).pkg 0 0).ending =
      some 0 ∧ 0 ≤ arrivedState.coreCycle := by decide +kernel

/-! #### Tracked values -/

/-- Two lanes with tracked registers that hold the points 1.0 (q1), 2.0 (q2) and a range that meets both (q3). -/
def reelState (cap : Nat) : State :=
  let s := memState 0 [[0, 0, 0, 0, 64, 0, 3], [0, 0, 0, 0, 96, 0, 5]]
  { s with blocks := s.blocks.map fun b => { b with
      sheet := { b.sheet with qregs := 8, reel := cap }
      body := { b.body with crews := b.body.crews.map fun c => { c with threads := c.threads.map fun t =>
        { t with q := [QReg.zero, mkQ 0x3F800000 0x3F800000 0 false false false, mkQ 0x40000000 0x40000000 0 false false false,
                       mkQ 0x3F800000 0x40000000 0 false false false] ++ List.replicate 4 QReg.zero } } } } }
/-- For `Obligations.TrackedArithmetic`. -/
theorem wit_TrackedArithmetic : ∀ p ∈ ([(0x83, none, [], flds 4 1 2 0 0 0), (0x84, none, [], flds 4 1 2 0 0 0), (0x85, none, [], flds 4 1 2 0 0 0),
    (0x86, none, [], flds 4 1 2 3 0 0), (0x87, none, [], flds 4 1 2 0 0 0), (0x88, none, [], flds 4 1 0 0 0 0), (0x89, none, [], flds 4 1 0 0 0 0),
    (0x8A, none, [], flds 4 1 0 0 0 0), (0x8F, none, [], flds 4 1 0 0 0 0)] : List (Nat × Option Nat × List ReadAs × Fields)),
    ∃ x, IssuesLong p.1 p.2.1 p.2.2.1 p.2.2.2 (reelState 1) x ∧ x.reelRoom := by
  refine metAll (reelState 1) (fun x => (x.s0.reelOf x.uid).nodes.length + x.act.length ≤ x.b.sheet.reelCap ∧
    (x.s0.reelOf x.uid).inWindow.length + x.act.length ≤ x.b.sheet.window) _ (by decide +kernel)
theorem wit_TrackedArithmetic_qld_float : ∃ x, IssuesLong 0x80 none readsA (flds 4 4 0 0 0 0) (reelState 1) x ∧
    ((x.s0.reelOf x.uid).nodes.length + x.act.length ≤ x.b.sheet.reelCap ∧
      (x.s0.reelOf x.uid).inWindow.length + x.act.length ≤ x.b.sheet.window) ∧ x.fn = 0 := met _ (by decide +kernel)
theorem wit_TrackedArithmetic_qld_integer : ∀ fn ∈ [1, 2, 3, 4], ∃ x, IssuesLong 0x80 none readsA (flds 4 4 0 0 fn 0) (reelState 1) x ∧
    ((x.s0.reelOf x.uid).nodes.length + x.act.length ≤ x.b.sheet.reelCap ∧
      (x.s0.reelOf x.uid).inWindow.length + x.act.length ≤ x.b.sheet.window) ∧ x.fn ≠ 0 := by
  intro fn h
  refine met _ ?_
  revert fn
  rw [← List.all_eq_true]
  decide +kernel
/-- For `Obligations.TrackedReadsAndRequests`: 1.0 < 2.0 is decided; 1.0 against a range that it begins is not. -/
theorem wit_TrackedReadsAndRequests_decided : ∃ (x : Ctx) (r : Nat → Bool), IssuesLong 0x8B none [] (flds 1 1 2 0 2 2) (reelState 1) x ∧ ∀ l ∈ x.act,
    (x.q l x.w.a).nan = false ∧ (x.q l x.w.b).nan = false ∧ (x.q l x.w.a).und = false ∧ (x.q l x.w.b).und = false ∧
    ((x.q l x.w.a).handle = 0 ∨ (x.q l x.w.a).handle ≠ (x.q l x.w.b).handle) ∧ testCond x.fn (x.q l x.w.a).iv (x.q l x.w.b).iv = some (r l) := by
  obtain ⟨x, h, p⟩ := met (op := 0x8B) (fn := none) (reads := []) (w := flds 1 1 2 0 2 2) (s := reelState 1) (fun x => ∀ l ∈ x.act,
    (x.q l x.w.a).nan = false ∧ (x.q l x.w.b).nan = false ∧ (x.q l x.w.a).und = false ∧ (x.q l x.w.b).und = false ∧
    ((x.q l x.w.a).handle = 0 ∨ (x.q l x.w.a).handle ≠ (x.q l x.w.b).handle) ∧ testCond x.fn (x.q l x.w.a).iv (x.q l x.w.b).iv = some true)
    (by decide +kernel)
  exact ⟨x, fun _ => true, h, p⟩
theorem wit_TrackedReadsAndRequests_open : ∃ x, IssuesLong 0x8B none [] (flds 1 1 3 0 2 2) (reelState 1) x ∧ ∀ l ∈ x.act,
    (x.q l x.w.a).nan = false ∧ (x.q l x.w.b).nan = false ∧ (x.q l x.w.a).und = false ∧ (x.q l x.w.b).und = false ∧
    ((x.q l x.w.a).handle = 0 ∨ (x.q l x.w.a).handle ≠ (x.q l x.w.b).handle) ∧ testCond x.fn (x.q l x.w.a).iv (x.q l x.w.b).iv = none :=
  met _ (by decide +kernel)
theorem wit_TrackedReadsAndRequests_qldd : ∃ x, IssuesLong 0x81 none readsA (flds 4 4 0 0 0 0) (reelState 1) x ∧
    ∀ l ∈ x.act, x.a l 64 % 32 = 0 ∧ x.a l 64 < 2 ^ 53 := met _ (by decide +kernel)
/-- A core with a request at its retake engine, and a reel with a node to sweep. -/
def retakeState : State :=
  let s := reelState 1
  { s with retakes := [⟨7, 5, 0, 0, 1, 0x1000, 8, 0x8E, flds 0 1 0 0 1 0, 0, 1, 2, 0, none⟩],
           blocks := s.blocks.map fun b => { b with body := { b.body with reel := ⟨[⟨3, 0x01, 0, 0, 0, [], 0x3F800000, false⟩], [3], 0⟩ } } }
/-- For `Obligations.TrackedEvents`. -/
theorem wit_TrackedEvents_sweep : ∃ b n, retakeState.block? 0 = some b ∧ b.onCore = true ∧ b.body.reel.sweep = 3 :: [] ∧
    b.body.reel.node? 3 = some n := ⟨_, _, rfl, by decide +kernel, by decide +kernel, rfl⟩
theorem wit_TrackedEvents_retake : ∃ r b t, retakeState.retakes.find? (fun r => r.id == 7 && r.res.isNone) = some r ∧
    retakeState.block? r.uid = some b ∧ retakeState.thread? r.uid r.ci r.lane = some t ∧ b.state = .resident ∧
    ∀ q ∈ retakeState.retakes.takeWhile (fun q => q.id != 7), q.res.isNone = true →
      ∀ c, retakeState.block? q.uid = some c → c.core ≠ b.core ∨ c.state ≠ .resident := by
  refine ⟨_, _, _, rfl, rfl, rfl, by decide +kernel, ?_⟩
  have h : retakeState.retakes.takeWhile (fun q => q.id != 7) = [] := by decide +kernel
  rw [h]
  simp

/-! #### Tiles -/

/-- Tile 1 bound with 4 × 4 elements of widths 4 and 4, tile 2 bound with residues, and registers for the operands. -/
def tileState (rows : List (List Nat)) : State :=
  let s := memState 2 rows
  { s with blocks := s.blocks.map fun b => { b with
      body := { b.body with prec := updAt (updAt b.body.prec 1 fun _ => 132) 2 fun _ => BitVec.ofNat 64 (165 + 2 ^ 15 + 2 ^ 19 + 2 * 2 ^ 22) }
      tiles := updAt (updAt b.tiles 1 fun _ => ⟨.bound, 4, 4, List.replicate 16 ⟨0, false⟩, 1, none, 0, 0, false⟩) 2 fun _ =>
        ⟨.bound, 4, 4, List.replicate 16 ⟨0, false⟩, 1, none, 0, 0, false⟩ } }
def tile2 : State := tileState [[0, 0, 0, 0, 64, 0, 1], [0, 0, 0, 0, 64, 0, 2]]
/-- A command of tile 1 as the instruction issues it. -/
def tileCmd (op id ks kdone : Nat) : TileCmd :=
  { id, ci := 0, op, w := flds 1 4 6 0 0 0, tiles := [1], m := 4, n := 4, wregs := [132], a := 64, b := ks, lanes := [(0, 7)], kdone, flags := 0,
    copy := none, stops := none, held := none, waiting := none, granted := false, hold := none }
def withCmds (ks : List TileCmd) : State := { tile2 with nextId := 50, blocks := tile2.blocks.map fun b => { b with cmds := ks } }

/-- For `Obligations.TileCommands`: each instruction. -/
theorem wit_TileCommands_mprec : ∃ x, IssuesLong 0xD0 none (lowRead [0]) (flds 1 4 0 0 0 0) (tileState [[0, 0, 0, 0, 132]]) x ∧
    x.act ≠ [] ∧ precOk (x.a x.low 32) = true := met _ (by decide +kernel)
theorem wit_TileCommands_mscale : ∀ v ∈ [0, 511, 0xFFFFFE00], ∃ x, IssuesLong 0xD4 none (lowRead [0]) (flds 1 4 0 0 0 0) (tileState [[0, 0, 0, 0, v]]) x ∧
    x.act ≠ [] ∧ -512 ≤ sext (x.a x.low 32) 32 ∧ sext (x.a x.low 32) 32 ≤ 511 := by
  intro v h
  refine met _ ?_
  revert v
  rw [← List.all_eq_true]
  decide +kernel
/-- `Ctx.tileFree` as a proposition that evaluates. -/
abbrev tileFreeB (x : Ctx) (ts : List Nat) : Prop :=
  x.act ≠ [] ∧ x.b.cmds.length < 64 ∧ ∀ t ∈ ts, (x.b.tile t).st = .pending → (x.b.tile t).m ≠ 0
theorem wit_TileCommands_mloadb : ∃ x, IssuesLong 0xD1 none (lowRead [0]) (flds 1 4 0 0 0 0) tile2 x ∧
    tileFreeB x [x.w.d.toNat] ∧ x.dtile.st ≠ .unbound ∧ x.a x.low 64 % 32 = 0 ∧ x.a x.low 64 < 2 ^ 53 := met _ (by decide +kernel)
theorem wit_TileCommands_mrun : ∃ x, IssuesLong 0xD2 none (lowRead [0, 1]) (flds 1 4 6 0 0 0) tile2 x ∧
    tileFreeB x [x.w.d.toNat] ∧ x.dtile.st ≠ .unbound ∧ x.a x.low 32 % 32 = 0 ∧ 1 ≤ x.bv x.low 32 ∧ x.bv x.low 32 ≤ 4096 ∧
    x.a x.low 32 + wSlot (x.b.wreg x.w.d.toNat) * x.bv x.low 32 * x.dtile.m * wBlocks (x.b.wreg x.w.d.toNat) ≤ x.b.sheet.scratch ∧
    precOk ((x.b.wreg x.w.d.toNat).toNat % 2 ^ 32) = true ∧ x.dtile.n ≤ wMaxN (x.b.wreg x.w.d.toNat) := met _ (by decide +kernel)
theorem wit_TileCommands_mzero : ∃ x, IssuesLong 0xD3 (some 0) (lowRead [0]) (flds 3 4 0 0 0 0) (tileState [[0, 0, 0, 0, 0x00100004]]) x ∧
    tileFreeB x [] ∧ dimsOk (x.a x.low 32 % 2 ^ 16) (x.a x.low 32 / 2 ^ 16) = true := met _ (by decide +kernel)
theorem wit_TileCommands_mzeroFree : ∃ x, IssuesLong 0xD3 (some 1) [] (flds 1 0 0 0 1 0) tile2 x ∧ tileFreeB x [] ∧ x.dtile.st ≠ .unbound :=
  met _ (by decide +kernel)
theorem wit_TileCommands_msave : ∃ x, IssuesLong 0xD6 (some 0) (lowRead [0]) (flds 1 4 0 0 0 0) tile2 x ∧
    tileFreeB x [x.w.d.toNat] ∧ x.dtile.st ≠ .unbound ∧ x.a x.low 64 % 64 = 0 := met _ (by decide +kernel)
theorem wit_TileCommands_msaveStop : ∃ x, IssuesLong 0xD6 (some 1) (lowRead [0]) (flds 1 4 0 0 1 0) tile2 x ∧
    tileFreeB x [x.w.d.toNat] ∧ x.dtile.st ≠ .unbound ∧ x.a x.low 64 % 64 = 0 ∧
    ∀ k ∈ x.b.cmds, k.stops = none ∧ ¬(k.op = 0xD2 ∧ k.dest = x.w.d.toNat) := met _ (by decide +kernel)
theorem wit_TileCommands_msaveStop_run : ∃ x, IssuesLong 0xD6 (some 1) (lowRead [0]) (flds 1 4 0 0 1 0) (withCmds [tileCmd 0xD2 40 2 1]) x ∧
    tileFreeB x [x.w.d.toNat] ∧ x.dtile.st ≠ .unbound ∧ x.a x.low 64 % 64 = 0 ∧ x.b.cmds = [tileCmd 0xD2 40 2 1] ∧
    (tileCmd 0xD2 40 2 1).op = 0xD2 ∧ (tileCmd 0xD2 40 2 1).dest = x.w.d.toNat ∧ (tileCmd 0xD2 40 2 1).stops = none ∧
    (tileCmd 0xD2 40 2 1).id ≠ x.s0.nextId ∧ x.s0.served x.b.core x.uid (tileCmd 0xD2 40 2 1).id = false := met _ (by decide +kernel)
theorem wit_TileCommands_mrest : ∃ x, IssuesLong 0xD7 none (lowRead [0]) (flds 3 4 0 0 0 0) tile2 x ∧ tileFreeB x [] ∧ x.a x.low 64 % 64 = 0 :=
  met _ (by decide +kernel)
theorem wit_TileCommands_mrecon : ∃ x, IssuesLong 0xDB none [] (flds 1 2 0 0 0 0) tile2 x ∧
    tileFreeB x (x.w.d.toNat :: [x.w.a.toNat, x.w.b.toNat, x.w.c.toNat].take (x.mod + 1)) ∧ x.dtile.st ≠ .unbound ∧
    wRN (x.b.wreg x.w.d.toNat) = false ∧ ∀ t ∈ [x.w.a.toNat, x.w.b.toNat, x.w.c.toNat].take (x.mod + 1),
      (x.b.tile t).st ≠ .unbound ∧ wRN (x.b.wreg t) = true ∧ (x.b.tile t).m = x.dtile.m ∧ (x.b.tile t).n = x.dtile.n := met _ (by decide +kernel)
theorem wit_TileCommands_tsl : ∀ p ∈ ([(0, 0), (1, 0), (2, 1)] : List (Nat × Nat)),
    ∃ x, IssuesLong 0xD8 none (lowRead [1]) (flds 0 1 6 0 p.1 p.2) tile2 x ∧
    tileFreeB x [x.w.a.toNat] ∧ (x.b.tile x.w.a.toNat).st ≠ .unbound ∧ x.bv x.low 32 < 2 ^ 28 ∧
    (x.fn = 2 ∨ x.bv x.low 32 / 256 % 256 = 0) ∧ ¬(x.fn = 2 ∧ wRN (x.b.wreg x.w.a.toNat) = true) := by
  intro p h
  refine met _ ?_
  revert p
  rw [← List.all_eq_true]
  decide +kernel
theorem wit_TileCommands_tss : ∃ x, IssuesLong 0xD9 none (eachLane [0] ++ lowRead [1]) (flds 1 4 6 0 0 0) tile2 x ∧
    tileFreeB x [x.w.d.toNat] ∧ x.dtile.st ≠ .unbound ∧ x.bv x.low 32 < 2 ^ 28 ∧ x.bv x.low 32 / 256 % 256 = 0 := met _ (by decide +kernel)
theorem wit_TileCommands_twait : ∃ x, IssuesLong 0xDA (some 1) [] (flds 1 1 0 0 1 0) tile2 x ∧ x.b.tileBusy x.w.a.toNat x.s0.nextId = false :=
  met _ (by decide +kernel)
theorem wit_TileCommands_twait_busy : ∃ x, IssuesLong 0xDA (some 1) [] (flds 1 1 0 0 1 0) (withCmds [tileCmd 0xD2 40 2 1]) x ∧
    x.b.tileBusy x.w.a.toNat x.s0.nextId = true := met _ (by decide +kernel)

/-- For `Obligations.TileEvents`. -/
def firstCmd (s : State) (id : Nat) : Option (Block × TileCmd) := s.tileCmd? id
theorem some_of {α : Type} {o : Option α} {p : α → Bool} (h : o.any p = true) : ∃ a, o = some a ∧ p a = true := by
  cases o with
  | none => cases h
  | some a => exact ⟨a, rfl, h⟩
theorem some_of2 {α : Type} {o : Option α} {P : α → Prop} [DecidablePred P] (h : (o.any fun a => decide (P a)) = true) : ∃ a, o = some a ∧ P a := by
  obtain ⟨a, h1, h2⟩ := some_of h
  exact ⟨a, h1, of_decide_eq_true h2⟩
def waitingZero : State := withCmds [{ tileCmd 0xD3 40 0 0 with waiting := some 3 }]
theorem wit_TileEvents_allocate : ∃ p : Block × TileCmd, waitingZero.tileCmd? 40 = some p ∧ p.2.waiting = some 3 ∧ waitingZero.firstWaiter p.1.core 3 = true ∧
    p.1.onCore = true ∧ p.2.hold = none ∧ p.2.op = 0xD3 ∧ tileUnits p.2.m p.2.n ≤ waitingZero.freeUnits p.1.core := some_of2 (by decide +kernel)
theorem wit_TileEvents_pick : let s := withCmds [tileCmd 0xD2 40 2 1]
    (∃ c, s.cores[0]? = some c ∧ c.array = none) ∧ ∃ b, leastBy (fun (b : Block) => (b.vclock * 64 + b.ctx) * 2 ^ 96 + b.lin)
      ((s.tileKick 0).blocks.filter fun b => b.core == 0 && b.onCore && !(s.tileKick 0).frozen b.ctx &&
        b.cmds.any fun k => (s.tileKick 0).arrayReady b k) = some b ∧ b.cmds.find? (fun k => (s.tileKick 0).arrayReady b k) = some (tileCmd 0xD2 40 2 1) :=
  ⟨some_of2 (by decide +kernel), some_of2 (by decide +kernel)⟩
/-- A core whose array serves the run of tile 1, with its image. -/
def servedState (running : Bool) : State :=
  let s := withCmds [tileCmd 0xD2 40 2 1]
  let s : State := { s with blocks := s.blocks.map fun b => b.updTile 1 fun t => { t with desc := some 0 } }
  s.updCore 0 fun c => { c with array := some ⟨0, 40, running, []⟩, image := some ⟨0, 1, 1, 4, false, List.replicate 4 (List.replicate 4 none)⟩ }
theorem wit_TileEvents_image : (∃ c, (servedState false).cores[0]? = some c ∧ c.array = some ⟨0, 40, false, []⟩ ∧
      c.image = some ⟨0, 1, 1, 4, false, List.replicate 4 (List.replicate 4 none)⟩) ∧
    ∃ p : Block × TileCmd, (servedState false).tileCmd? 40 = some p ∧ p.2.op = 0xD2 ∧ (p.1.tile p.2.dest).desc = some 0 ∧ p.1.uid = 0 ∧ p.2.dest = 1 ∧
      p.2.kdone = 1 ∧ (∀ col ∈ List.replicate 4 (List.replicate 4 0), col.length = wBlocks p.2.w0) ∧ false = wRN p.2.w0 ∧ wWB p.2.w0 ≤ 4 ∧
      (servedState false).rangeWait p.1.uid (p.2.stepRange p.2.kdone).1 (p.2.stepRange p.2.kdone).2 false = none ∧
      p.1.scratchBad (p.2.stepRange p.2.kdone).1 (p.2.stepRange p.2.kdone).2 = false :=
  ⟨some_of2 (by decide +kernel), some_of2 (by decide +kernel)⟩
theorem wit_TileEvents_step : (∃ c, (servedState true).cores[0]? = some c ∧ c.array = some ⟨0, 40, true, []⟩ ∧ c.image.isSome = true) ∧
    ∃ p : Block × TileCmd, (servedState true).tileCmd? 40 = some p ∧ p.2.op = 0xD2 := ⟨some_of2 (by decide +kernel), some_of2 (by decide +kernel)⟩
theorem wit_TileEvents_complete : ∀ op ∈ [0xD8, 0xD9], ∃ p : Block × TileCmd, (withCmds [tileCmd op 40 0 0]).tileCmd? 40 = some p ∧
    (withCmds [tileCmd op 40 0 0]).cmdReady p.1 p.2 = true ∧ p.1.onCore = true ∧ p.1.skips p.2 = false ∧ p.2.op = op := by
  intro op h
  refine some_of2 ?_
  revert op
  rw [← List.all_eq_true]
  decide +kernel
def skippedState : State :=
  let s := withCmds [tileCmd 0xD9 40 0 0]
  { s with blocks := s.blocks.map fun b => b.updTile 1 fun t => { t with st := .error, cause := 1 } }
theorem wit_TileEvents_skip : ∃ p : Block × TileCmd, skippedState.tileCmd? 40 = some p ∧
    skippedState.cmdReady p.1 p.2 = true ∧ p.1.onCore = true ∧ p.1.skips p.2 = true ∧ p.2.op ≠ 0xD8 := some_of2 (by decide +kernel)
theorem wit_TileEvents_recon : let s := (withCmds [{ tileCmd 0xDB 40 0 0 with tiles := [1, 2] }]).updCore 0 fun c => { c with array := some ⟨0, 40, true, []⟩ }
    ∃ p : Block × TileCmd, s.tileCmd? 40 = some p ∧ s.cmdReady p.1 p.2 = true ∧ p.1.onCore = true ∧ p.1.skips p.2 = false ∧ p.2.op = 0xDB ∧
      s.served p.1.core p.1.uid 40 = true := some_of2 (by decide +kernel)
theorem wit_TileEvents_error : ∃ b, tile2.block? 0 = some b ∧ 15 < (b.tile 1).acc.length := some_of2 (by decide +kernel)

/-! #### Blocks, directors, queues, launches -/

/-- For `Obligations.BlockRegions`. -/
theorem wit_BlockRegions_done : ∃ x, IssuesLong 0xE2 none [] (flds 0 0 0 0 0 0) (plainState 0) x ∧ x.act ≠ [] ∧
    x.s0.carries x.uid x.ci x.low (x.t x.low) = [] := met _ (by decide +kernel)
theorem wit_BlockRegions_done_waits : ∃ x, IssuesLong 0xE2 none [] (flds 0 0 0 0 0 0)
    (let s := withCopy (oneCopy 0xC0 .queued false)
     { s with blocks := s.blocks.map fun b => { b with body := { b.body with crews := b.body.crews.map fun c =>
       { c with threads := c.threads.map fun t => { t with batch := 1 } } } } }) x ∧ x.act ≠ [] ∧
    x.s0.carries x.uid x.ci x.low (x.t x.low) ≠ [] := met _ (by decide +kernel)
/-- A block all of whose threads wait for a region's edge. -/
def edgeState (kind : Nat) (inside : Bool) (rslot : Nat) : State :=
  let s := plainState 0
  { s with ctxs := updAt s.ctxs 0 fun c => { c with rslot }, blocks := s.blocks.map fun b => { b with
      inside, body := { b.body with crews := b.body.crews.map fun c => { c with threads := c.threads.map fun t =>
        { t with st := .waiting (.region kind) 8 } } } } }
theorem wit_BlockRegions_enter : ∃ b, (edgeState 1 false 100000).block? 0 = some b ∧ b.allWait (.region 1) = true ∧ b.cmds = [] ∧
    (∀ k ∈ (edgeState 1 false 100000).copies, k.uid ≠ 0) ∧ b.inside = false ∧ (∀ n ∈ b.body.reel.nodes, n.spilled = false) ∧
    ∃ c, (edgeState 1 false 100000).ctxs[b.ctx]? = some c ∧ b.sheet.saveBytes ≤ c.rslot := by
  refine ⟨_, rfl, ?_, ?_, ?_, ?_, ?_, _, rfl, ?_⟩ <;> decide +kernel
theorem wit_BlockRegions_leave : ∃ b, (edgeState 2 true 0).block? 0 = some b ∧ b.allWait (.region 2) = true ∧ b.inside = true ∧
    b.deferred = false := some_of2 (by decide +kernel)
theorem wit_BlockRegions_make : (∃ b, (edgeState 2 true 0).block? 0 = some b ∧ b.inside = true) ∧
    (∃ b, detState.block? 0 = some b ∧ b.inside = false ∧ b.sheet.det = true) ∧
    ∃ b, (plainState 0).block? 0 = some b ∧ b.inside = false ∧ b.sheet.det = false :=
  ⟨some_of2 (by decide +kernel), some_of2 (by decide +kernel), some_of2 (by decide +kernel)⟩

/-- For `Obligations.BlockEvents`. -/
theorem wit_BlockEvents_carve : ∃ c, (State.reset.updCore 5 fun c => { c with pendingCarve := some 7 }).cores[5]? = some c ∧
    c.pendingCarve = some 7 ∧ (State.reset.updCore 5 fun c => { c with pendingCarve := some 7 }).residents 5 = [] := some_of2 (by decide +kernel)
theorem wit_BlockEvents_retire : ∃ b, ((plainState 0).updBlock 0 fun b => { b with state := .retiring }).block? 0 = some b ∧
    b.state = .retiring ∧ ((plainState 0).updBlock 0 fun b => { b with state := .retiring }).retireBlocked b = false ∧
    ((plainState 0).updBlock 0 fun b => { b with state := .retiring }).downSpokes = [] := some_of2 (by decide +kernel)
def slateState : State := { plainState 0 with slates := [⟨0, 0, 0, 0, 0, [(64, 7)], [], []⟩] }
theorem wit_BlockEvents_slate : ∃ l, slateState.launch? 0 = some l ∧ slateState.downSpokes = [] ∧
    slateState.slates.find? (fun b => b.launch == 0 && b.lin == l.recorded.length) = some ⟨0, 0, 0, 0, 0, [(64, 7)], [], []⟩ := some_of2 (by decide +kernel)
def mailState (p : List Byte) : State := { plainState 0 with dies := updAt State.reset.dies 1 fun k => { k with mailbox := [p] } }
theorem wit_BlockEvents_take : ∃ k, (mailState (List.replicate 64 0)).dies[1]? = some k ∧ (mailState (List.replicate 64 0)).dieFenced 1 = false ∧
    (mailState (List.replicate 64 0)).restoring 1 = none ∧ k.called = none ∧ k.serving = none ∧
    k.mailbox.find? (mailState (List.replicate 64 0)).takeable = some (List.replicate 64 0) := some_of2 (by decide +kernel)
def servingState : State := { plainState 0 with dies := updAt State.reset.dies 1 fun k => { k with serving := some (List.replicate 64 0) } }
theorem wit_BlockEvents_serve : ∃ k, servingState.dies[1]? = some k ∧ servingState.dieFenced 1 = false ∧
    servingState.restoring 1 = none ∧ k.called = none ∧ k.serving = some (List.replicate 64 0) := some_of2 (by decide +kernel)
def placingState : State := (plainState 0).updBlock 0 fun b =>
  { b with state := .placing, sheet := { b.sheet with scratch := 0, reel := 0 } }
theorem wit_BlockEvents_restore : (∃ k : DieSt, placingState.dies[0]? = some k) ∧ placingState.dieFenced 0 = false ∧
    ∃ b, placingState.restoring 0 = some b := by
  refine ⟨⟨_, rfl⟩, by decide +kernel, ?_⟩
  exact Option.isSome_iff_exists.mp (by decide +kernel)

/-- For `Obligations.DirectorInstructions`: a director of die 0 with a packet of the launch that runs. -/
def packet : List Byte := toBytes (0 + 0 * 2 ^ 64) 64
def dirState (row : List Nat) (mail : List (List Byte)) : State :=
  let s := memState 0 [row]
  { s with dies := updAt s.dies 0 fun k => { k with mailbox := mail }
           launches := s.launches.map fun l => { l with spawned := [], sheet := { l.sheet with nx := 2, gregs := 16, reel := 0, qregs := 0 } }
           blocks := s.blocks.map fun b => { b with isDirector := true, body := { b.body with scratch := [] } } }
theorem wit_DirectorInstructions_carve : ∃ x, IssuesLong 0xE5 none (lowRead [0, 1]) (flds 2 4 6 0 0 0) (dirState [0, 0, 0, 0, 7, 0, 47] []) x ∧
    x.act ≠ [] ∧ x.b.isDirector = true ∧ x.a x.low 32 ≤ 7 ∧ x.bv x.low 32 ≤ 47 := met _ (by decide +kernel)
theorem wit_DirectorInstructions_carve_other : ∃ x, IssuesLong 0xE5 none (lowRead [0, 1]) (flds 2 4 6 0 0 0) (plainState 0) x ∧
    x.act ≠ [] ∧ x.b.isDirector = false := met _ (by decide +kernel)
theorem wit_DirectorInstructions_other : ∀ p ∈ ([(0xEC, none, lowRead [0], flds 2 4 0 0 0 0), (0xED, none, readsAB, flds 2 4 6 0 0 0),
    (0xEE, none, readsAB, flds 0 4 6 0 0 0)] : List (Nat × Option Nat × List ReadAs × Fields)),
    ∃ x, IssuesLong p.1 p.2.1 p.2.2.1 p.2.2.2 (plainState 0) x ∧ x.b.isDirector = false := metAll _ _ _ (by decide +kernel)
theorem wit_DirectorInstructions_mboxr : ∃ x, IssuesLong 0xEC none (lowRead [0]) (flds 2 4 0 0 0 0) (dirState [0, 0, 0, 0, 64] [packet]) x ∧
    x.b.isDirector = true ∧ x.act ≠ [] ∧ x.checkScratch (x.a x.low 32) 64 64 = none ∧ x.s0.nextPacket x.b.die = some packet := met _ (by decide +kernel)
theorem wit_DirectorInstructions_mboxr_waits : ∃ x, IssuesLong 0xEC none (lowRead [0]) (flds 2 4 0 0 0 0) (dirState [0, 0, 0, 0, 64] []) x ∧
    x.b.isDirector = true ∧ x.act ≠ [] ∧ x.checkScratch (x.a x.low 32) 64 64 = none ∧ x.s0.nextPacket x.b.die = none := met _ (by decide +kernel)
/-- A lane's spawn of a block of a launch, with the sheet read again from its packet. -/
def spawnOk (x : Ctx) (v : Nat) (k : Launch) (s1 : State) (sh : Sheet) : Prop :=
  x.s0.pktLaunch v = some k ∧ s1.scratchRead x.uid (x.a 0 32) 64 = x.s0.scratchRead x.uid (x.a 0 32) 64 ∧
  s1.pktLaunch v = some k ∧ x.bv 0 32 < sh.nblk ∧ x.bv 0 32 ∉ k.spawned ∧ s1.ctxRuns k.ctx = true ∧
  (s1.placeNew x.b.die k sh (x.bv 0 32) (pktAttempt v)).isSome = true
/-- A Bool form of `spawnOk`, with the sheet that `spawn` reads. -/
def spawnB (x : Ctx) (v : Nat) : Bool :=
  (x.s0.pktLaunch v).any fun k =>
    let t := (x.s0.sheetAgain k v).1
    (x.s0.sheetAgain k v).2.any fun sh => (t.pktLaunch v).any fun k' =>
      decide (t.scratchRead x.uid (x.a 0 32) 64 = x.s0.scratchRead x.uid (x.a 0 32) 64 ∧ k' = k ∧ x.bv 0 32 < sh.nblk ∧
        x.bv 0 32 ∉ k.spawned ∧ t.ctxRuns k.ctx = true ∧ (t.placeNew x.b.die k sh (x.bv 0 32) (pktAttempt v)).isSome = true)
theorem spawn_of {x : Ctx} {v : Nat} (h : spawnB x v = true) : ∃ k s1 sh, x.s0.sheetAgain k v = (s1, some sh) ∧ spawnOk x v k s1 sh := by
  unfold spawnB at h
  obtain ⟨k, hk, h⟩ := some_of h
  generalize hr : x.s0.sheetAgain k v = r at h
  obtain ⟨t, o⟩ := r
  obtain ⟨sh, hs, h⟩ := some_of h
  obtain ⟨k', hk', h⟩ := some_of h
  obtain ⟨e, f, g, i, m, n⟩ := of_decide_eq_true h
  subst f
  exact ⟨k', t, sh, by rw [hr]; exact Prod.ext rfl hs, hk, e, hk', g, i, m, n⟩
theorem wit_DirectorInstructions_spawn : ∃ x k s1 sh, IssuesLong 0xED none readsAB (flds 2 4 6 0 0 0) (dirState [0, 0, 0, 0, 64, 0, 1] []) x ∧
    x.b.isDirector = true ∧ x.act = [0] ∧ x.checkScratch (x.a 0 32) 64 64 = none ∧
    x.s0.sheetAgain k (fromBytes (x.s0.scratchRead x.uid (x.a 0 32) 64)) = (s1, some sh) ∧
    spawnOk x (fromBytes (x.s0.scratchRead x.uid (x.a 0 32) 64)) k s1 sh := by
  obtain ⟨x, h, a, b, c, d⟩ := met (op := 0xED) (fn := none) (reads := readsAB) (w := flds 2 4 6 0 0 0) (s := dirState [0, 0, 0, 0, 64, 0, 1] [])
    (fun x => x.b.isDirector = true ∧ x.act = [0] ∧ x.checkScratch (x.a 0 32) 64 64 = none ∧
      spawnB x (fromBytes (x.s0.scratchRead x.uid (x.a 0 32) 64)) = true) (by decide +kernel)
  obtain ⟨k, s1, sh, e, f⟩ := spawn_of d
  exact ⟨x, k, s1, sh, h, a, b, c, e, f⟩
theorem wit_DirectorInstructions_fwd : ∃ x, IssuesLong 0xEE none readsAB (flds 0 4 6 0 0 0) (dirState [0, 0, 0, 0, 64, 0, 3] []) x ∧
    x.b.isDirector = true ∧ x.s0.downSpokes = [] ∧ ∀ l ∈ x.act, x.checkScratch (x.a l 32) 64 64 = none ∧ x.bv l 32 ≤ 3 := met _ (by decide +kernel)

/-- A queue of context 0 with a control block at 0x30000, and a queue of every state. -/
def queueOf (st : QState) : Queue :=
  { Queue.reset with en := true, dev := true, log2sz := 4, cbase := 0x30000, st, record := if st = .ready then some 0x4000 else none, met := true }
def queueState (st : QState) (rows : List (List Nat)) : State :=
  let s := mapped (memState 0 rows)
  { s with queues := [(1023, queueOf st)], fw := { s.fw with started := true } }
/-- For `Obligations.QueueInstructions`. -/
theorem wit_QueueInstructions_enq : ∃ x s1 r, IssuesLong 0xE9 none readsAB (flds 2 4 6 0 0 0) (queueState .empty [[0, 0, 0, 0, 1023, 0, 64]]) x ∧
    x.b.sheet.det = false ∧ x.b.inside = false ∧ x.act = [0] ∧ x.scratchOk (fun k => x.bv k 32) 64 false ∧ x.a 0 32 < 1024 ∧
    (x.s0.queue (x.a 0 32)).en = true ∧ (x.s0.queue (x.a 0 32)).ctx = x.b.ctx ∧ (x.s0.queue (x.a 0 32)).dev = true ∧
    x.s0.downSpokes = [] ∧
    (let s := (x.s0.flushDailies x.uid x.ci).fenceAt x.b.core 2 5
     s.appendRecord (x.a 0 32) (s.scratchRead x.uid (x.bv 0 32) 64) = (s1, some r)) := by
  obtain ⟨x, h, a, b, c, d, e, f, g, i, q, k⟩ := met_by (op := 0xE9) (fn := none) (reads := readsAB) (w := flds 2 4 6 0 0 0)
    (s := queueState .empty [[0, 0, 0, 0, 1023, 0, 64]])
    (P := fun x => x.b.sheet.det = false ∧ x.b.inside = false ∧ x.act = [0] ∧ x.scratchOk (fun k => x.bv k 32) 64 false ∧ x.a 0 32 < 1024 ∧
      (x.s0.queue (x.a 0 32)).en = true ∧ (x.s0.queue (x.a 0 32)).ctx = x.b.ctx ∧ (x.s0.queue (x.a 0 32)).dev = true ∧ x.s0.downSpokes = [] ∧
      (((x.s0.flushDailies x.uid x.ci).fenceAt x.b.core 2 5).appendRecord (x.a 0 32)
        (((x.s0.flushDailies x.uid x.ci).fenceAt x.b.core 2 5).scratchRead x.uid (x.bv 0 32) 64)).2.isSome = true)
    (fun x => decide (x.b.sheet.det = false ∧ x.b.inside = false ∧ x.act = [0] ∧ x.a 0 32 < 1024 ∧
      (x.s0.queue (x.a 0 32)).en = true ∧ (x.s0.queue (x.a 0 32)).ctx = x.b.ctx ∧ (x.s0.queue (x.a 0 32)).dev = true ∧ x.s0.downSpokes = [] ∧
      (((x.s0.flushDailies x.uid x.ci).fenceAt x.b.core 2 5).appendRecord (x.a 0 32)
        (((x.s0.flushDailies x.uid x.ci).fenceAt x.b.core 2 5).scratchRead x.uid (x.bv 0 32) 64)).2.isSome = true) &&
      scratchOkB x (fun k => x.bv k 32) 64)
    (fun x _ h => by
      simp only [Bool.and_eq_true, decide_eq_true_eq] at h
      obtain ⟨⟨a, b, c, d⟩, e⟩ := h
      exact ⟨a, b, c, scratchOk_of e, d⟩) (by decide +kernel)
  obtain ⟨r, hr⟩ := Option.isSome_iff_exists.mp k
  exact ⟨x, _, r, h, a, b, c, d, e, f, g, i, q, Prod.ext rfl hr⟩
theorem wit_QueueInstructions_enq_lanes : ∃ x, IssuesLong 0xE9 none readsAB (flds 2 4 6 0 0 0)
      (queueState .empty [[0, 0, 0, 0, 1023, 0, 64], [0, 0, 0, 0, 1023, 0, 128]]) x ∧
    x.b.sheet.det = false ∧ x.b.inside = false ∧ x.act = [0, 1] ∧ x.scratchOk (fun k => x.bv k 32) 64 false ∧
    (∀ l ∈ x.act, x.a l 32 < 1024 ∧ (x.s0.queue (x.a l 32)).en = true ∧ (x.s0.queue (x.a l 32)).ctx = x.b.ctx ∧
      (x.s0.queue (x.a l 32)).dev = true) ∧
    (x.lanesRun enqLane).2 = [(0, .next), (1, .next)] :=
  met_by (op := 0xE9) (fn := none) (reads := readsAB) (w := flds 2 4 6 0 0 0)
    (s := queueState .empty [[0, 0, 0, 0, 1023, 0, 64], [0, 0, 0, 0, 1023, 0, 128]])
    (fun x => decide (x.b.sheet.det = false ∧ x.b.inside = false ∧ x.act = [0, 1] ∧
      (∀ l ∈ x.act, x.a l 32 < 1024 ∧ (x.s0.queue (x.a l 32)).en = true ∧ (x.s0.queue (x.a l 32)).ctx = x.b.ctx ∧
        (x.s0.queue (x.a l 32)).dev = true) ∧ (x.lanesRun enqLane).2 = [(0, .next), (1, .next)]) && scratchOkB x (fun k => x.bv k 32) 64)
    (fun x _ h => by
      simp only [Bool.and_eq_true, decide_eq_true_eq] at h
      obtain ⟨⟨a, b, c, d, e⟩, f⟩ := h
      exact ⟨a, b, c, scratchOk_of f, d, e⟩) (by decide +kernel)
/-- Word events of two lanes at 0x80 and 0x100; a word of 0 meets 0 and not 1. -/
def wordState (t : Nat) : State := memState 0 [[0, 0, 0, 0, 128, 0, t], [0, 0, 0, 0, 256, 0, t]]
theorem wit_QueueInstructions_waitev : ∃ (x : Ctx) (es : Nat → List Elem), IssuesLong 0xEA none readsAB (flds 0 4 6 0 0 0) (wordState 0) x ∧
    Quiet x.s0 x.b.core ∧ ∀ l ∈ x.act, x.plan .read (globalElems [x.a l 64] 4) = .ready (es l) ∧
      ∀ e ∈ es l, ∃ key, placeOf x.s0.hubid e.pa e.leaf.type = .home key := by
  obtain ⟨x, es, h, a, b, c⟩ := accesses (op := 0xEA) (w := flds 0 4 6 0 0 0) (s := wordState 0) (reads := readsAB)
    (fun x es => ∀ l ∈ x.act, ∀ e ∈ es l, placeOf x.s0.hubid e.pa e.leaf.type = .home e.pa) .read (fun x l => globalElems [x.a l 64] 4)
    (by decide +kernel)
  exact ⟨x, es, h, b, fun l hl => ⟨c l hl, fun e he => ⟨_, a l hl e he⟩⟩⟩
theorem wit_QueueInstructions_waitev_unmet : ∃ x t, IssuesLong 0xEA none readsAB (flds 0 4 6 0 0 0)
    { wordState 1 with issue := some ⟨0, 0, [1], none, 0⟩ } x ∧ x.act = [1] ∧
    x.plan .read (globalElems [x.a 1 64] 4) = .ready [⟨256, 4, 256, tlb0.leaf⟩] ∧ x.s0.downSpokes = [] ∧
    x.s0.readWord (x.s0.blockOr x.b) (laneReader x.uid x.ci 1) 256 256 tlb0.leaf.type (x.bv 1 32) = (t, .unmet) := by
  obtain ⟨x, h, a, b, d, c⟩ := met (op := 0xEA) (fn := none) (reads := readsAB) (w := flds 0 4 6 0 0 0)
    (s := { wordState 1 with issue := some ⟨0, 0, [1], none, 0⟩ }) (fun x => x.act = [1] ∧
      x.plan .read (globalElems [x.a 1 64] 4) = .ready [⟨256, 4, 256, tlb0.leaf⟩] ∧ x.s0.downSpokes = [] ∧
      (x.s0.readWord (x.s0.blockOr x.b) (laneReader x.uid x.ci 1) 256 256 tlb0.leaf.type (x.bv 1 32)).2 = .unmet) (by decide +kernel)
  exact ⟨x, _, h, a, b, d, Prod.ext rfl c⟩
theorem wit_QueueInstructions_add : ∃ (x : Ctx) (es : Nat → List Elem), IssuesLong 0xEB (some 0) readsAB (flds 0 4 6 0 0 0) (wordState 0) x ∧
    x.b.sheet.det = false ∧ x.b.inside = false ∧ (∀ l ∈ x.act, x.asRed.plan .atomic (globalElems [x.a l 64] 4) = .ready (es l) ∧
      ∀ e ∈ es l, AtomicPlace x.asRed e) ∧ Quiet x.s0 x.b.core := by
  obtain ⟨x, h, a, b, c, q⟩ := met_by (op := 0xEB) (fn := some 0) (reads := readsAB) (w := flds 0 4 6 0 0 0) (s := wordState 0)
    (P := fun x => x.b.sheet.det = false ∧ x.b.inside = false ∧ (∀ l ∈ x.act, x.asRed.plan .atomic (globalElems [x.a l 64] 4) =
        .ready (planned x.asRed .atomic (globalElems [x.a l 64] 4)) ∧ ∀ e ∈ planned x.asRed .atomic (globalElems [x.a l 64] 4),
        atHome x.asRed e = true) ∧ Quiet x.s0 x.b.core)
    (fun x => decide (x.b.sheet.det = false ∧ x.b.inside = false ∧ (∀ l ∈ x.act, x.asRed.plan .atomic (globalElems [x.a l 64] 4) =
        .ready (planned x.asRed .atomic (globalElems [x.a l 64] 4)) ∧ ∀ e ∈ planned x.asRed .atomic (globalElems [x.a l 64] 4),
        atHome x.asRed e = true)) && quietB x.s0)
    (fun x _ h => by
      rw [Bool.and_eq_true] at h
      obtain ⟨a, b, c⟩ := of_decide_eq_true h.1
      exact ⟨a, b, c, quiet_of h.2⟩) (by decide +kernel)
  exact ⟨x, _, h, a, b, fun l hl => ⟨(c l hl).1, fun e he => atHome_place ((c l hl).2 e he)⟩, q⟩
theorem wit_QueueInstructions_set : ∃ (x : Ctx) (es : Nat → List Elem), IssuesLong 0xEB (some 1) readsAB (flds 0 4 6 0 1 0) (wordState 0) x ∧
    x.b.sheet.det = false ∧ x.b.inside = false ∧ (∀ l ∈ x.act, x.asStl.plan .write (globalElems [x.a l 64] 4) = .ready (es l)) ∧
    Quiet x.s0 x.b.core := by
  obtain ⟨x, h, a, b, c, q⟩ := met_by (op := 0xEB) (fn := some 1) (reads := readsAB) (w := flds 0 4 6 0 1 0) (s := wordState 0)
    (P := fun x => x.b.sheet.det = false ∧ x.b.inside = false ∧ (∀ l ∈ x.act, x.asStl.plan .write (globalElems [x.a l 64] 4) =
        .ready (planned x.asStl .write (globalElems [x.a l 64] 4))) ∧ Quiet x.s0 x.b.core)
    (fun x => decide (x.b.sheet.det = false ∧ x.b.inside = false ∧ (∀ l ∈ x.act, x.asStl.plan .write (globalElems [x.a l 64] 4) =
        .ready (planned x.asStl .write (globalElems [x.a l 64] 4)))) &&
      quietB x.s0)
    (fun x _ h => by
      rw [Bool.and_eq_true] at h
      obtain ⟨a, b, c⟩ := of_decide_eq_true h.1
      exact ⟨a, b, c, quiet_of h.2⟩) (by decide +kernel)
  exact ⟨x, _, h, a, b, c, q⟩

/-- Whether a reading of the hub gives a value with a property. -/
def gives {α σ : Type} (r : σ × Got α) (p : α → Bool) : Bool := match r.2 with | .got a => p a | _ => false
theorem gives_of {α σ : Type} {r : σ × Got α} {p : α → Bool} (h : gives r p = true) : ∃ s a, r = (s, .got a) ∧ p a = true := by
  rcases r with ⟨s, a | f | _⟩
  · exact ⟨s, a, rfl, h⟩
  · cases h
  · cases h
/-- For `Obligations.QueueEvents`: queue 1023 bound with the smallest and the largest ring. -/
def unboundState : State := { queueState .unbound [] with queues := [] }
theorem wit_QueueEvents_bind : ∀ sz ∈ [4, 16], unboundState.awake = true ∧ (unboundState.queue 1023).en = false ∧
    4 ≤ ((unboundState.queue 1023).setCfg (sz * 2 ^ 24)).log2sz ∧ ((unboundState.queue 1023).setCfg (sz * 2 ^ 24)).log2sz ≤ 16 ∧
    ((unboundState.ctxs[((unboundState.queue 1023).setCfg (sz * 2 ^ 24)).ctx]?).any fun c => c.state != .free) = true ∧
    ¬(((unboundState.queue 1023).setCfg (sz * 2 ^ 24)).dev = true ∧ ((unboundState.queue 1023).setCfg (sz * 2 ^ 24)).door = true) ∧
    gives (unboundState.tailOf 1023 { (unboundState.queue 1023).setCfg (sz * 2 ^ 24) with
      en := true, st := .empty, cause := 0, record := none, met := false, tail := ((unboundState.queue 1023).setCfg (sz * 2 ^ 24)).head, binding := true })
        (· == 0) = true := by decide +kernel
theorem wit_QueueEvents_doorbell : (queueState .empty []).awake = true ∧
    (((queueState .empty []).putQueue 3 { queueOf .empty with door := true }).queue 3).door = true := by decide +kernel
theorem wit_QueueEvents_memory :
    (queueState .empty []).tailLost 1023 ((queueState .empty []).queue 1023) = true ∧ ((queueState .ready []).queue 1023).record.isSome = true := by
  decide +kernel
theorem wit_QueueEvents_pick : (queueState .ready []).checkQueues.arbiterChoice = some 1023 ∧
    ((queueState .ready []).checkQueues.queue 1023).record = some 0x4000 := by decide +kernel
theorem wit_QueueEvents_period : (State.reset.periods + 1) * 1000000 ≤ ({ State.reset with hubCycle := 1000000 } : State).hubCycle := by decide +kernel
theorem wit_ArbiterTakesHighestPriority : (queueState .ready []).arbiterChoice = some 1023 := by decide +kernel

/-- Whether the second part of a pair is a result. -/
def isOk {α β σ : Type} (r : σ × Except α β) : Bool := match r.2 with | .ok _ => true | .error _ => false
theorem ok_of {α β σ : Type} {r : σ × Except α β} (h : isOk r = true) : ∃ s p, r = (s, .ok p) := by
  rcases r with ⟨s, e | p⟩
  · cases h
  · exact ⟨s, p, rfl⟩
theorem error_of {α β σ : Type} {r : σ × Except α β} (h : isOk r = false) : ∃ s e, r = (s, .error e) := by
  rcases r with ⟨s, e | p⟩
  · exact ⟨s, e, rfl⟩
  · cases h
/-- For `Obligations.LaunchEvents`. -/
def splitState (addr : Nat) : State :=
  let s := mapped (plainState 0)
  { s with launches := s.launches.map fun l => { l with state := .splitting, sheetAddr := addr, sheet := Sheet.none } }
/-- The fields of the smallest sheet at 0x40000. -/
def sheetNum : Nat := 16 * 2 ^ 128 + 1 * 2 ^ 152 + 2 ^ 272 + 256 * 2 ^ 288 + 2 ^ 320 + 2 ^ 352 + 2 ^ 384
def sheetState : State := { splitState 0x40000 with mem := writeNat (splitState 0).mem 0x40000 256 sheetNum }
/-- Whether a sheet that was read is sound. -/
def sound (r : State × SheetRes) : Bool := match r.2 with | .good _ _ _ => true | _ => false
theorem sound_of {r : State × SheetRes} (h : sound r = true) : ∃ s sh casts regions, r = (s, .good sh casts regions) := by
  obtain ⟨s, _ | _ | _⟩ := r
  · exact ⟨s, _, _, _, rfl⟩
  · cases h
  · cases h
/-- Whether a sheet that was read is refused. -/
def unsound (r : State × SheetRes) : Bool := match r.2 with | .bad _ => true | _ => false
theorem unsound_of {r : State × SheetRes} (h : unsound r = true) : ∃ s o, r = (s, .bad o) := by
  obtain ⟨s, _ | _ | _⟩ := r
  · cases h
  · exact ⟨s, _, rfl⟩
  · cases h
theorem wit_LaunchEvents_refuse : (∃ l, (splitState 1).launch? 0 = some l ∧ l.ctx = 0 ∧ l.state = .splitting ∧ l.sheet.crews = 0) ∧
    (∃ c, (splitState 1).ctxs[0]? = some c ∧ c.state = .running) ∧ (∀ t ∈ (splitState 1).takes, t.launch ≠ 0) ∧
    ∃ s1 o, (splitState 1).checkSheet (sheetReader 0) 0 1 = (s1, .bad o) :=
  ⟨some_of2 (by decide +kernel), some_of2 (by decide +kernel), by decide +kernel, unsound_of (by decide +kernel)⟩
theorem wit_LaunchEvents_split : (∃ l, sheetState.launch? 0 = some l ∧ l.ctx = 0 ∧ l.state = .splitting ∧ l.sheet.crews = 0) ∧
    (∃ c, sheetState.ctxs[0]? = some c ∧ c.state = .running) ∧ ∃ s1 sh casts regions,
      sheetState.checkSheet (sheetReader 0) 0 0x40000 = (s1, .good sh casts regions) :=
  ⟨some_of2 (by decide +kernel), some_of2 (by decide +kernel), sound_of (by decide +kernel)⟩
theorem wit_LaunchEvents_take : (plainState 0).ctxStarts 0 = true ∧ ∃ t ∈ ({ plainState 0 with takes := [⟨0, 0, 0x8000, 8192, false⟩] } : State).takes, t.launch = 0 ∧ t.isOpen = false :=
  ⟨by decide +kernel, _, List.mem_singleton.mpr rfl, by decide⟩
theorem wit_LaunchEvents_post : ({ plainState 0 with held := [(2, packet)] } : State).nextHeld = some (2, packet) ∧ (2, packet).1 = 2 ∧
    ({ plainState 0 with held := [(2, packet)] } : State).downSpokes.contains 2 = false := by
  decide +kernel
def endState : State := { plainState 0 with launches := (plainState 0).launches.map fun l => { l with retired := [0], recorded := [0] } }
theorem wit_LaunchEvents_complete : ∃ l, endState.launch? 0 = some l ∧ l.state = .running ∧ l.sheet.nblk ≤ l.retired.length ∧
    l.sheet.nblk ≤ l.recorded.length := some_of2 (by decide +kernel)
def lateState : State := { plainState 0 with hubCycle := 70, launches := (plainState 0).launches.map fun l => { l with sheet := { l.sheet with deadline := 70 } } }
theorem wit_LaunchEvents_deadline : ∃ l, lateState.launch? 0 = some l ∧ l.state = .running ∧ l.sheet.deadline ≠ 0 ∧
    l.picked + l.sheet.deadline ≤ lateState.hubCycle ∧ l.complete = false := some_of2 (by decide +kernel)
def dogState : State := { dirState [] [] with hubCycle := 1000000, dies := updAt State.reset.dies 0 fun k => { k with called := some 0 } }
theorem wit_LaunchEvents_watchdog : (∃ k, dogState.dies[0]? = some k ∧ k.called = some 0 ∧ 0 + 1000000 ≤ dogState.hubCycle) ∧
    ∃ b, dogState.blocks.find? (fun b => b.isDirector && b.die == 0) = some b := by
  refine ⟨some_of2 (by decide +kernel), ?_⟩
  exact Option.isSome_iff_exists.mp (by decide +kernel)

/-! #### Faults, contexts, host services -/

/-- A context with a handler for every class it may take. -/
def handled (s : State) : State := { s with ctxs := updAt s.ctxs 0 fun c => { c with tvec := 0x9000, tmask := 0x7FFFF } }
theorem takes_of {s : State} {uid ci cls : Nat} {ls : List Nat} {b : Block} {k : Context} (h : s.block? uid = some b)
    (h2 : s.ctxs[b.ctx]? = some k) (h3 : k.delivers cls = true)
    (h4 : (ls.all fun l => (s.thread? uid ci l).any fun t => decide (t.hmode = false)) = true) : Takes s uid ci ls b k cls :=
  ⟨h, h2, h3, fun l hl => some_of2 (List.all_eq_true.mp h4 l hl)⟩
/-- For `Obligations.TrapEntersHandler`: codes 128 and 255 in two lanes. -/
def trapState : State := handled (memState 0 [[0, 0, 0, 0, 128], [0, 0, 0, 0, 255]])
theorem wit_TrapEntersHandler : ∀ p ∈ ([(0xF0, some 0, 0x11), (0xF6, none, 0x12)] : List (Nat × Option Nat × Nat)),
    ∃ x k, IssuesLong p.1 p.2.1 readsA (flds 0 4 0 0 0 0) trapState x ∧ x.act ≠ [] ∧ Takes trapState x.uid x.ci x.act x.b k p.2.2 := by
  intro p hp
  obtain ⟨x, h, a, b, c, d⟩ := met (op := p.1) (fn := p.2.1) (reads := readsA) (w := flds 0 4 0 0 0 0) (s := trapState)
    (fun x => x.act ≠ [] ∧ trapState.block? x.uid = some x.b ∧ ((trapState.ctxs[x.b.ctx]?).any fun k => k.delivers p.2.2) = true ∧
      (x.act.all fun l => (trapState.thread? x.uid x.ci l).any fun t => decide (t.hmode = false)) = true)
    (by
      revert p
      rw [← List.all_eq_true]
      decide +kernel)
  obtain ⟨k, hk, hd⟩ := some_of c
  exact ⟨x, k, h, a, takes_of b hk hd d⟩

/-- Lanes in handler mode with an aligned s.epc. -/
def handlerState : State :=
  let s := plainState 0
  { s with blocks := s.blocks.map fun b => { b with body := { b.body with crews := b.body.crews.map fun c =>
      { c with threads := c.threads.map fun t => { t with hmode := true, epc := 0x1000 } } } } }
/-- For `Obligations.TrapReturnAndSystem`. -/
theorem wit_TrapReturnAndSystem_abort : ∃ x, IssuesLong 0xF0 (some 1) readsA (flds 0 4 0 0 1 0) (plainState 0) x := by
  obtain ⟨x, h, _⟩ := met (op := 0xF0) (fn := some 1) (reads := readsA) (w := flds 0 4 0 0 1 0) (s := plainState 0) (fun _ => True) (by decide +kernel)
  exact ⟨x, h⟩
theorem wit_TrapReturnAndSystem_rett : ∃ x, IssuesLong 0xF1 none [] (flds 0 0 0 0 0 0) handlerState x ∧ x.act ≠ [] ∧
    ∀ l ∈ x.act, (x.t l).hmode = true ∧ (x.t l).epc.toNat % 4 = 0 := met _ (by decide +kernel)
theorem wit_TrapReturnAndSystem_rett_outside : ∃ x, IssuesLong 0xF1 none [] (flds 0 0 0 0 0 0) (plainState 0) x ∧
    ∀ l ∈ x.act, (x.t l).hmode = false := met _ (by decide +kernel)
theorem wit_TrapReturnAndSystem_syswr : ∀ d ∈ [0x11, 0x12, 0x46], d = 0x46 ∨ ∃ x, IssuesLong 0xF5 none readsA (flds d 4 0 0 0 0) (plainState 0) x ∧
    x.w.d.toNat ≠ 0x41 := by
  intro d hd
  have h : (d = 0x46 ∨ check 0xF5 none readsA (flds d 4 0 0 0 0) (plainState 0) (fun x => decide (x.w.d.toNat ≠ 0x41)) = true) := by
    revert d
    decide +kernel
  exact h.imp id fun h => met _ h
theorem wit_TrapReturnAndSystem_epc : ∃ x, IssuesLong 0xF5 none readsA (flds 0x41 4 0 0 0 0) handlerState x ∧ x.w.d.toNat = 0x41 ∧
    ∀ l ∈ x.act, (x.t l).hmode = true := met _ (by decide +kernel)
theorem wit_TrapReturnAndSystem_timer : ∀ fn ∈ [0, 1], ∃ x, IssuesLong 0xF3 none (lowRead [0]) (flds 0 4 0 0 fn 0) (plainState 0) x ∧ x.act ≠ [] := by
  intro fn h
  refine met _ ?_
  revert fn
  rw [← List.all_eq_true]
  decide +kernel

/-- For `Obligations.FaultDelivery`: two lanes of an ALIGN fault, and one of a TIMER. -/
def twoFaults : List (Nat × LaneFault) := [(0, alignF 0x1001 2), (1, alignF 0x1002 2)]
theorem wit_FaultDelivery : ∃ b k, Takes trapState 0 0 (twoFaults.map (·.1)) b k 4 ∧ (twoFaults.map (·.1)).Nodup ∧ twoFaults ≠ [] ∧
    (∀ p ∈ twoFaults, p.2.cls = 4 ∧ (p.2.isPage = true → true = false ∨ k.pfbase = 0)) ∧ 4 < 0x13 := by
  refine ⟨_, _, takes_of rfl rfl ?_ ?_, ?_, ?_, ?_, ?_⟩ <;> decide +kernel
theorem wit_FaultDelivery_page : ∃ b k, Takes trapState 0 0 [0] b k 6 ∧ [0].Nodup ∧
    (∀ p ∈ ([(0, xlateF (pageFault 1) 0x2000 .read)] : List (Nat × LaneFault)), p.2.cls = 6 ∧ (p.2.isPage = true → false = false ∨ k.pfbase = 0)) ∧ 6 < 0x13 := by
  refine ⟨_, _, takes_of rfl rfl ?_ ?_, ?_, ?_, ?_⟩ <;> decide +kernel

/-- For `Obligations.UnrecoverableFault`: no handler, and a block that may be tried again. -/
theorem wit_UnrecoverableFault_log : ∃ b c k, (plainState 0).block? 0 = some b ∧ b.crew? 0 = some c ∧ (plainState 0).ctxs[b.ctx]? = some k ∧
    (alignF 3 2).cls ≠ 0x10 ∧ (alignF 3 2).isPage = false ∧
    (∀ t, c.threads[31]? = some t → t.hmode = true ∨ k.delivers (alignF 3 2).cls = false ∨ (false = true ∧ (alignF 3 2).cls = 0x11)) ∧
    (c.threads[31]?).isSome = true :=
  ⟨_, _, _, rfl, rfl, rfl, by decide, by decide, fun _ _ => .inr (.inl (by decide +kernel)), by decide +kernel⟩
def retryState (attempt : Nat) : State := (plainState 0).updBlock 0 fun b => { b with attempt, sheet := { b.sheet with idem := true, retry := 2 } }
theorem wit_UnrecoverableFault_retry : ∃ b, (retryState 1).block? 0 = some b ∧ b.isDirector = false ∧ b.retries = true := some_of2 (by decide +kernel)
theorem wit_UnrecoverableFault_last : ∃ b, (retryState 2).block? 0 = some b ∧ b.isDirector = false ∧ b.retries = false := some_of2 (by decide +kernel)

/-- For `Obligations.ContextCommands`: each state of the context. -/
def ctxState (f : Context → Context) : State :=
  let s := mapped (plainState 0)
  { s with fw := { s.fw with started := true }, hubCycle := 100, blocks := [], ctxs := updAt s.ctxs 0 f }
theorem wit_ContextCommands_alloc : ∃ c, (ctxState fun c => { c with state := .free }).awake = true ∧
    (ctxState fun c => { c with state := .free }).ctxs[0]? = some c ∧ c.state = .free ∧ c.fieldsOk = true ∧
    (ctxState fun c => { c with state := .free }).dailiesClash 0 c = false := by refine ⟨_, ?_, rfl, ?_, ?_, ?_⟩ <;> decide +kernel
theorem wit_ContextCommands_alloc_refused : ∃ c, (ctxState fun c => { c with state := .free, tvec := 2 }).ctxs[0]? = some c ∧ c.state = .free ∧
    c.fieldsOk = false := some_of2 (by decide +kernel)
theorem wit_ContextCommands_states : ∀ st ∈ [CtxState.ready, .saved, .running, .draining, .faulted, .reset],
    ((ctxState fun c => { c with state := st }).ctxs[0]?).map (·.state) = some st ∧ (ctxState fun c => { c with state := st }).awake = true := by
  decide +kernel
theorem wit_ContextCommands_drained : ∃ c, (ctxState fun c => { c with state := .draining }).ctxs[0]? = some c ∧ c.state = .draining ∧ c.saving = false ∧
    ∀ b ∈ (ctxState fun c => { c with state := .draining }).blocks, b.ctx = 0 → b.isDirector = false → b.onCore = false := some_of2 (by decide +kernel)
theorem wit_ContextCommands_deadlines : ∃ c, (ctxState fun c => { c with state := .draining, drainEnd := some 100, resetEnd := some 100 }).ctxs[0]? = some c ∧
    c.state = .draining ∧ c.saving = false ∧ c.drainEnd = some 100 ∧ c.resetEnd = some 100 ∧
    100 ≤ (ctxState fun c => { c with state := .draining, drainEnd := some 100, resetEnd := some 100 }).hubCycle := some_of2 (by decide +kernel)
theorem wit_ContextCommands_save : ∃ c, (ctxState fun c => { c with state := .draining, saving := true }).ctxs[0]? = some c ∧ c.state = .draining ∧
    c.saving = true ∧ (ctxState fun c => { c with state := .draining, saving := true }).saveReady 0 = true ∧
    (ctxState fun c => { c with state := .draining, saving := true }).downSpokes = [] := some_of2 (by decide +kernel)
theorem wit_ContextCommands_reset : ∃ c, (ctxState fun c => { c with state := .faulted }).ctxs[0]? = some c ∧ c.state ≠ .free ∧ c.state ≠ .reset :=
  some_of2 (by decide +kernel)

/-- For `Obligations.CrewEvents`: a comparator at the clock, with READY lanes and with all lanes in handler mode. -/
def timed (s : State) : State := s.updCrew 0 0 fun c => { c with tmr := 7 }
def clocked (s : State) : State := { s with dies := s.dies.map fun d => { d with clock := 7 } }
/-- The crew after its comparator is reached. -/
def firedCrew (s : State) (b : Block) (c : Crew) : Crew := (c.fireTimer (s.clockOf b.core)).oweTimer
theorem wit_CrewEvents_ready : ∃ b c, (clocked (timed (plainState 0))).block? 0 = some b ∧ b.crew? 0 = some c ∧ c.tmr ≠ 0 ∧
    c.tmr.toNat ≤ (clocked (timed (plainState 0))).clockOf b.core ∧ (∃ t ∈ c.threads, t.st = .ready) ∧
    (∀ t ∈ c.threads, t.st = .ready → t.hmode = false) ∧ (firedCrew (clocked (timed (plainState 0))) b c).timerLanes ≠ [] := by
  refine ⟨_, _, rfl, rfl, ?_, ?_, ?_, ?_, ?_⟩ <;> decide +kernel
theorem wit_CrewEvents_handler : ∃ b c, (clocked (timed handlerState)).block? 0 = some b ∧ b.crew? 0 = some c ∧ c.tmr ≠ 0 ∧
    c.tmr.toNat ≤ (clocked (timed handlerState)).clockOf b.core ∧ (firedCrew (clocked (timed handlerState)) b c).timerLanes = [] := by
  refine ⟨_, _, rfl, rfl, ?_, ?_, ?_⟩ <;> decide +kernel
theorem wit_CrewEvents_regroup : ∃ b ∈ (plainState 0).blocks, b.state = .resident ∧ (plainState 0).clockOf b.core % 4 = 0 ∧
    ∃ c ∈ b.body.crews, c.live = true := ⟨_, List.mem_singleton.mpr rfl, by decide +kernel⟩

/-- For `Obligations.HostCalls`: a ring of two entries that has room, that is full, and a context without one. -/
def callRing (tail base : Nat) (s : State) : State :=
  { s with ctxs := updAt s.ctxs 0 fun c => { c with hbase := base, log2h := 1, hcTail := tail }, fw := { s.fw with started := true } }
theorem wit_HostCalls_room : ∃ x c, IssuesLong 0xF2 none readsA (flds 0 4 0 0 0 0) (callRing 1 0x50000 (plainState 0)) x ∧ x.act ≠ [] ∧
    x.b.inside = false ∧ (callRing 1 0x50000 (plainState 0)).ctxs[x.b.ctx]? = some c ∧ c.hbase ≠ 0 ∧ (callRing 1 0x50000 (plainState 0)).downSpokes = [] ∧
    c.callRoom = true ∧ ((x.s0.flushDailies x.uid x.ci).fenceAt x.b.core 2 5).callWaits x.b.ctx = [] := by
  obtain ⟨x, h, a, b, c, d⟩ := met (op := 0xF2) (fn := none) (reads := readsA) (w := flds 0 4 0 0 0 0) (s := callRing 1 0x50000 (plainState 0))
    (fun x => x.act ≠ [] ∧ x.b.inside = false ∧ ((x.s0.flushDailies x.uid x.ci).fenceAt x.b.core 2 5).callWaits x.b.ctx = [] ∧
      (((callRing 1 0x50000 (plainState 0)).ctxs[x.b.ctx]?).any fun c => decide (c.hbase ≠ 0 ∧ c.callRoom = true)) = true) (by decide +kernel)
  obtain ⟨k, hk, e, f⟩ := some_of2 d
  exact ⟨x, k, h, a, b, hk, e, by decide +kernel, f, c⟩
theorem wit_HostCalls_full : ∀ base ∈ [0x50000, 0], ∃ x c, IssuesLong 0xF2 none readsA (flds 0 4 0 0 0 0) (callRing 2 base (plainState 0)) x ∧ x.act ≠ [] ∧
    x.b.inside = false ∧ (callRing 2 base (plainState 0)).ctxs[x.b.ctx]? = some c ∧ c.hbase = base ∧ c.callRoom = false := by
  intro base hb
  obtain ⟨x, h, a, b, d⟩ := met (op := 0xF2) (fn := none) (reads := readsA) (w := flds 0 4 0 0 0 0) (s := callRing 2 base (plainState 0))
    (fun x => x.act ≠ [] ∧ x.b.inside = false ∧
      (((callRing 2 base (plainState 0)).ctxs[x.b.ctx]?).any fun c => decide (c.hbase = base ∧ c.callRoom = false)) = true)
    (by
      revert base
      rw [← List.all_eq_true]
      decide +kernel)
  obtain ⟨k, hk, e, f⟩ := some_of2 d
  exact ⟨x, k, h, a, b, hk, e, f⟩
def callWaiting : State := (callRing 1 0x50000 (plainState 0)).updThread 0 0 3 fun t => { t with st := .parked (.hcallPost 12 5 0 8) }
theorem wit_HostCalls_post : ∃ c b k, callWaiting.ctxs[0]? = some c ∧ leastBy (fun (g : Nat × Nat × Nat) => g.1) (callWaiting.callWaits 0) = some (12, 0, 0) ∧
    c.callRoom = true ∧ callWaiting.block? 0 = some b ∧ callWaiting.crew? 0 0 = some k := ⟨_, _, _, rfl, by decide +kernel, by decide +kernel, rfl, rfl⟩
theorem wit_HostCalls_reply : (callRing 1 0x50000 (plainState 0)).callsApart 0 = false ∧ (callRing 1 0x50000 (plainState 0)).awake = true ∧
    (callRing 1 0x50000 (plainState 0)).agentDead hostAgent = false := by decide +kernel

/-- For `Obligations.PageService`: a lane that waits to post, alone and with an entry of its page, and an entry to answer. -/
def pageState (fs : List PfEntry) : State :=
  let s := mapped (plainState 0)
  let s : State := { s with ctxs := updAt s.ctxs 0 fun c => { c with pfbase := 0x60000, log2p := 1, pfTail := 1 }, faults := fs, fw := { s.fw with started := true } }
  s.updThread 0 0 3 fun t => { t with st := .parked (.pagePost (xlateF (pageFault 1) 0x2000 .read) 0 0) }
theorem wit_PageService_post : ∃ a c, (pageState []).pageAsk (.lane 0 0 3) = some a ∧ (pageState []).ctxs[a.ctx]? = some c ∧
    (pageState []).faults.find? (fun e => e.ctx == a.ctx && e.vpage == a.addr / 8192 && e.detail == a.detail && !e.answered) = none ∧
    c.pfTail - c.pfHead < 2 ^ c.log2p := ⟨_, _, rfl, rfl, by decide +kernel, by decide +kernel⟩
def joinState : State := pageState [⟨0, 0, 1, 1, 1, false, false⟩]
theorem wit_PageService_join : ∃ a c, joinState.pageAsk (.lane 0 0 3) = some a ∧ joinState.ctxs[a.ctx]? = some c ∧
    joinState.faults.find? (fun e => e.ctx == a.ctx && e.vpage == a.addr / 8192 && e.detail == a.detail && !e.answered) =
      some ⟨0, 0, 1, 1, 1, false, false⟩ := ⟨_, _, rfl, rfl, by decide +kernel⟩
/-- The driver's answer `st` stands in entry 0. -/
def answeredState (st : Nat) : State := { joinState with mem := writeNat joinState.mem 0x60104 4 st }
theorem wit_PageService_answer : ∀ st ∈ [0, 1, 2], ∃ c, (answeredState st).ctxs[0]? = some c ∧ (answeredState st).faultsApart 0 = false ∧
    (answeredState st).faults.find? (fun e => e.ctx == 0 && e.num == 0 && !e.answered) = some ⟨0, 0, 1, 1, 1, false, false⟩ ∧
    ∃ s2, (answeredState st).hubAcquire (ctxReader 0) 0 (c.faultAt 0 + 4) 4 true none = (s2, .got st) := by
  intro st h
  have h : (((answeredState st).ctxs[0]?).any fun c => decide ((answeredState st).faultsApart 0 = false ∧
      (answeredState st).faults.find? (fun e => e.ctx == 0 && e.num == 0 && !e.answered) = some ⟨0, 0, 1, 1, 1, false, false⟩) &&
      gives ((answeredState st).hubAcquire (ctxReader 0) 0 (c.faultAt 0 + 4) 4 true none) (· == st)) = true := by
    revert st
    rw [← List.all_eq_true]
    decide +kernel
  obtain ⟨c, hc, h⟩ := some_of h
  rw [Bool.and_eq_true] at h
  obtain ⟨s2, v, hs, hv⟩ := gives_of h.2
  exact ⟨c, hc, (of_decide_eq_true h.1).1, (of_decide_eq_true h.1).2, s2, by rw [hs, beq_iff_eq.mp hv]⟩

/-- For `Obligations.ExpertsAndDailies` and `ExpertEvents`: a context with two experts. -/
def expertState (st : EState) : State :=
  let s := mapped (memState 0 [[0, 0, 0, 0, 0, 0, 3], [0, 0, 0, 0, 1, 0, 4]])
  { s with experts := [⟨0, 1, st, 0x100000, 0, 0, 0, 0⟩], fw := { s.fw with started := true }
           ctxs := updAt s.ctxs 0 fun c => { c with xbase := 0x70000, nexp := 2, dcount := 2, dbase := 10 } }
theorem wit_ExpertsAndDailies_known : ∀ p ∈ ([(0xB0, none, readsA, flds 0 4 0 0 0 0), (0xB1, none, readsA, flds 1 4 0 0 0 2)] :
    List (Nat × Option Nat × List ReadAs × Fields)), ∃ x, IssuesLong p.1 p.2.1 p.2.2.1 p.2.2.2 (expertState .resident) x ∧
    ∀ l ∈ x.act, x.s0.expertKnown x.b.ctx (x.a l 32) = true := metAll _ _ _ (by decide +kernel)
theorem wit_ExpertsAndDailies_unknown : ∃ x, IssuesLong 0xB0 none readsA (flds 0 6 0 0 0 0) (expertState .resident) x ∧
    ∀ l ∈ x.act, x.s0.expertKnown x.b.ctx (x.a l 32) = false := met _ (by decide +kernel)
theorem wit_ExpertsAndDailies_ecnt : ∃ x c, IssuesLong 0xB2 none readsAB (flds 0 4 6 0 0 0) (expertState .resident) x ∧ x.b.inside = false ∧
    x.s0.ctxs[x.b.ctx]? = some c ∧ ∀ l ∈ x.act, x.a l 32 < c.dcount := by
  obtain ⟨x, h, a, b⟩ := met (op := 0xB2) (fn := none) (reads := readsAB) (w := flds 0 4 6 0 0 0) (s := expertState .resident)
    (fun x => x.b.inside = false ∧ ((x.s0.ctxs[x.b.ctx]?).any fun c => decide (∀ l ∈ x.act, x.a l 32 < c.dcount)) = true) (by decide +kernel)
  obtain ⟨k, hk, e⟩ := some_of2 b
  exact ⟨x, k, h, a, hk, e⟩
def oldDaily : State := clocked ((plainState 0).updCrew 0 0 fun c => { c with dailies := [⟨10, 3⟩], dailyAge := some 0 })
theorem wit_ExpertsAndDailies_flush : ∃ b c, ({ oldDaily with dies := oldDaily.dies.map fun d => { d with clock := 12500 } } : State).block? 0 = some b ∧
    oldDaily.crew? 0 0 = some c ∧ c.dailyAge = some 0 ∧
    0 + 12500 ≤ ({ oldDaily with dies := oldDaily.dies.map fun d => { d with clock := 12500 } } : State).clockOf b.core :=
  ⟨_, _, rfl, rfl, by decide +kernel, by decide +kernel⟩
theorem wit_ExpertEvents_commands : (expertState .resident).awake = true ∧ (expertState .resident).expertKnown 0 1 = true ∧
    (∃ e, (expertState .resident).expert? 0 1 = some e ∧ e.st ≠ .failed) ∧ (∃ e, (expertState .failed).expert? 0 1 = some e ∧ e.st = .failed) ∧
    (expertState .resident).expertKnown 0 0 = true ∧ (expertState .resident).expert? 0 0 = none ∧ (expertState .resident).expertKnown 0 2 = false ∧
    ∃ c : Context, (expertState .resident).ctxs[0]? = some c :=
  ⟨by decide +kernel, by decide +kernel, some_of2 (by decide +kernel), some_of2 (by decide +kernel), by decide +kernel, by decide +kernel,
    by decide +kernel, _, rfl⟩
/-- The record of expert 1 says: one page at 2^33, from the host's memory or from peer 9, offset 0x100000; a TYPE 1 entry maps it. -/
def recordState (src : Nat) : State :=
  let s := expertState (.fetching false)
  let m := writeNat (writeNat s.mem 0x10008 8 0x30001) 0x30000 8 (2 ^ 40 + 0x800000 + 0x127)
  { s with mem := writeNat m 0x70020 32 (2 ^ 33 + 2 ^ 64 + src * 2 ^ 96 + 0x100000 * 2 ^ 128) }
theorem wit_ExpertEvents_start : ((expertState (.fetching false)).experts.filter fun e => e.st == .fetching true).length < 64 ∧
    ∃ e, (expertState (.fetching false)).experts.find? (fun e => e.st == .fetching false) = some e ∧
      ∃ s1 f, (expertState (.fetching false)).readExpert e = (s1, .bad f) := by
  have h : ((expertState (.fetching false)).experts.find? (fun e => e.st == .fetching false)).any (fun e =>
      match ((expertState (.fetching false)).readExpert e).2 with | .bad _ => true | _ => false) = true := by decide +kernel
  obtain ⟨e, he, h⟩ := some_of h
  refine ⟨by decide +kernel, e, he, ?_⟩
  split at h
  · rename_i f hf; exact ⟨_, f, Prod.ext rfl hf⟩
  · cases h
theorem wit_ExpertEvents_start_reads : ∀ src ∈ [0x8000, 0x4009], ∃ e, (recordState src).experts.find? (fun e => e.st == .fetching false) = some e ∧
    ∃ s1 e', (recordState src).readExpert e = (s1, .got e') := by
  intro src hs
  have h : ((recordState src).experts.find? (fun e => e.st == .fetching false)).any (fun e =>
      gives ((recordState src).readExpert e) fun _ => true) = true := by
    revert src
    rw [← List.all_eq_true]
    decide +kernel
  obtain ⟨e, he, h⟩ := some_of h
  obtain ⟨s1, e', h, _⟩ := gives_of h
  exact ⟨e, he, s1, e', h⟩
theorem wit_ExpertEvents_start_none : ∀ e ∈ (expertState .resident).experts, e.st ≠ .fetching false := by decide +kernel
/-- A fetch of one page from the host's memory, and one from peer 9 whose page has come, each with its page mapped. -/
def hostFetch : State := { recordState 0x8000 with experts := [⟨0, 1, .fetching true, 2 ^ 33, 1, 0x8000, 0x100000, 0⟩] }
def peerFetch : State := { recordState 0x4009 with
  experts := [⟨0, 1, .fetching true, 2 ^ 33, 1, 0x4009, 0x100000, 0⟩]
  reqs := [⟨3, none, none, 0, 0, expertOp, noFields,
    [⟨9, 0x480000100000, 0, 8192, .read, [], none, none, true, 0, 0, false, some []⟩], 1, 0, 0, none, false⟩] }
theorem wit_ExpertEvents_land : ∀ s ∈ [hostFetch, peerFetch], ∃ e c, s.expert? 0 1 = some e ∧ s.ctxs[0]? = some c ∧ e.st = .fetching true ∧
    s.agentDead e.source = false ∧ ∃ s1 frames pages, s.expertWalks e = (s1, .here) ∧ s.expertSource e = some pages ∧
    ((List.range e.npg).mapM fun i => (s1.endBring hubDie (expertReader 0 1)).expertFrame c.root 1 (e.vbase + 8192 * i)) = .ok frames := by
  intro s hs
  have h : ((s.expert? 0 1).any fun e => (s.ctxs[0]?).any fun c => decide (e.st = .fetching true ∧ s.agentDead e.source = false ∧
      (s.expertWalks e).2 = .here ∧ (s.expertSource e).isSome = true) &&
      (match (List.range e.npg).mapM fun i => ((s.expertWalks e).1.endBring hubDie (expertReader 0 1)).expertFrame c.root 1 (e.vbase + 8192 * i) with
        | .ok _ => true
        | .error _ => false)) = true := by
    revert s
    rw [← List.all_eq_true]
    decide +kernel
  obtain ⟨e, he, h⟩ := some_of h
  obtain ⟨c, hc, h⟩ := some_of h
  rw [Bool.and_eq_true] at h
  obtain ⟨a, b, d, f⟩ := of_decide_eq_true h.1
  obtain ⟨pages, hp⟩ := Option.isSome_iff_exists.mp f
  have h := h.2
  split at h
  · rename_i frames hf
    exact ⟨e, c, he, hc, a, b, _, frames, pages, Prod.ext rfl d, hp, hf⟩
  · cases h
theorem wit_ExpertEvents_late : ∃ e, ({ expertState (.fetching true) with hubCycle := 80000 } : State).expert? 0 1 = some e ∧ e.st = .fetching true ∧
    e.fromPeer = false ∧ e.since + 80000 ≤ 80000 := some_of2 (by decide +kernel)

/-! #### Translation, memory, checkpoints, links, failures, management -/

/-- A walk of die 0, whose L2 holds the lines of the tables. -/
def walking (s : State) (page : Nat) : State :=
  { s with walks := [⟨5, 0, 0, page, none, [0], false, none, none⟩]
           l2 := [1024, 512, 1536, 2048, 2560].map fun line => ⟨0, line, .s⟩ }
/-- A virtual page whose leaf, at the last level, is ABSENT. -/
def absentState : State :=
  { mapped (plainState 0) with
    mem := [(0x20000, 0x30001), (0x30000, 0x40001), (0x40000, 0x50001), (0x50000, 0x2F)].foldl (fun m p => writeNat m p.1 8 p.2) [] }
/-- Whether a walk is ready to end, its outcome having a property. -/
def walkIs (p : Except XFault Leaf → Bool) (s : State) : Bool :=
  (s.walks.find? (fun w => w.id == 5 && !w.done)).any fun w =>
    let r := s.walkFor w.die (walkReader 5) w.ctx (w.vpage * 2 ^ 13) w.tag.isSome
    decide (r.2 = .here) && (r.1.ctxs[w.ctx]?).any fun c => p (walkTables r.1.mem r.1.hubid c.root (w.vpage * 2 ^ 13))
theorem walkIs_of {p : Except XFault Leaf → Bool} {s : State} (h : walkIs p s = true) :
    ∃ w s1 c, s.walks.find? (fun w => w.id == 5 && !w.done) = some w ∧
      s.walkFor w.die (walkReader 5) w.ctx (w.vpage * 2 ^ 13) w.tag.isSome = (s1, .here) ∧ s1.ctxs[w.ctx]? = some c ∧
      p (walkTables s1.mem s1.hubid c.root (w.vpage * 2 ^ 13)) = true := by
  obtain ⟨w, hw, h⟩ := some_of h
  rw [Bool.and_eq_true] at h
  obtain ⟨c, hc, h2⟩ := some_of h.2
  exact ⟨w, _, c, hw, Prod.ext rfl (of_decide_eq_true h.1), hc, h2⟩
/-- For `Obligations.TranslationEvents`: a walk that maps, that fails, and that ends at an ABSENT leaf. -/
theorem wit_TranslationEvents_walk : walkIs (fun r => match r with | .ok l => l.type == 0 | .error _ => false) (walking (mapped (plainState 0)) 3) = true := by
  decide +kernel
theorem wit_TranslationEvents_fails : walkIs (fun r => match r with | .ok _ => false | .error e => e == pageFault 1) (walking (mapped (plainState 0)) (2 ^ 30)) = true := by
  decide +kernel
theorem wit_TranslationEvents_expert : walkIs (fun r => match r with | .ok l => l.type == 1 && l.exid == 1 | .error _ => false)
    (walking (recordState 0x8000) (2 ^ 20)) = true ∧ (recordState 0x8000).expertResident 0 1 = false := by decide +kernel
theorem wit_TranslationEvents_absent : walkIs (fun r => match r with | .ok l => l.type == 3 | .error _ => false) (walking absentState 0) = true := by
  decide +kernel
def awakeState : State := { plainState 0 with fw := { State.reset.fw with tried := true, started := true }, hubCycle := 500000 }
theorem wit_awake : awakeState.awake = true ∧ 2 ≤ 2 := by decide +kernel
/-- A state whose host is fenced, and one whose expert comes from a fenced agent. -/
def deadState (a : Nat) : State := { awakeState with agents := [(a, { Agent.reset with state := .fenced })] }
theorem wit_dead_host : (deadState hostAgent).agentDead hostAgent = true ∧ (deadState hostAgent).awake = true ∧
    awakeState.agentDead hostAgent = false := by decide +kernel
theorem wit_TranslationEvents_complete : ∃ i c, ({ plainState 0 with invals := [⟨0, [3], [5]⟩] } : State).invals = i :: [] ∧
    (∀ r ∈ (plainState 0).reqs, r.id ∉ i.reqs) ∧ (∀ b ∈ (plainState 0).blocks, b.uid ∉ i.slates) ∧ (∀ b ∈ (plainState 0).slates, b.uid ∉ i.slates) ∧
    (plainState 0).ctxs[i.ctx]? = some c :=
  ⟨_, _, rfl, by decide +kernel, by decide +kernel, by decide +kernel, rfl⟩

/-- For `Obligations.MemoryEvents`: a read of peer 9 with its answer outstanding, after some attempts. -/
def askState (tries : Nat) : State :=
  { awakeState with reqs := [⟨3, some (0, 0, 0), none, 0x1000, 8, 0xA0, flds 0 4 0 0 0 0, [⟨9, 0x480000000000, 0x480000000000, 8, .read, [], none, none, true, 480000, tries, false, none⟩], 1, 1, 0, none, false⟩] }
/-- A state with link 35 and the host's link up. -/
def joined (s : State) : State := { s with links := [35, 38, 44].foldl (fun ks i => updAt ks i fun k => { k with st := .up }) s.links }
theorem wit_MemoryEvents_answer : ∃ r e, (joined (askState 4)).req? 3 = some r ∧ r.elems[0]? = some e ∧ e.sent = true ∧ e.answer = none ∧
    (joined (askState 4)).hears e.home = true ∧ (e.kind = .read ∨ e.kind = .fill) ∧ e.waked = false :=
  ⟨_, _, rfl, rfl, rfl, rfl, by decide +kernel, .inl rfl, rfl⟩
theorem wit_MemoryEvents_failed : ∃ r e, (askState 4).req? 3 = some r ∧ r.elems[0]? = some e ∧ e.sent = true ∧ e.answer = none ∧
    4 ≤ e.tries ∧ e.since + 20000 ≤ (askState 4).hubCycle := ⟨_, _, rfl, rfl, rfl, rfl, by decide, by decide⟩
theorem wit_MemoryEvents_timeout : ∃ r e, (askState 3).req? 3 = some r ∧ r.elems[0]? = some e ∧ e.sent = true ∧ e.answer = none ∧
    e.since + 20000 ≤ (askState 3).hubCycle ∧ e.tries < 4 := ⟨_, _, rfl, rfl, rfl, rfl, by decide, by decide⟩
theorem wit_MemoryEvents_publish : ∃ c, awakeState.cores[127]? = some c ∧ 0 ≤ c.epoch := some_of2 (by decide +kernel)
def holding (st : L2State) : State :=
  { joined awakeState with l2 := [⟨2, 77, st⟩], agents := [(9, { Agent.reset with state := .live })] }
theorem wit_MemoryEvents_snoops : (holding .m).outsider 9 = true ∧ (holding .m).hears 9 = true ∧ ((holding .m).links[36 + 2]?).map (·.st) = some .up ∧
    (∀ st ∈ [L2State.e, .m], (holding st).snooped 2 77 (· != .s) = true ∧ (holding st).publishFor 77 = (holding st, false)) ∧
    (∀ st ∈ [L2State.s, .e], (holding st).snooped 2 77 (· != .m) = true ∧ (holding st).publishFor 77 = (holding st, false)) ∧
    (holding .m).snooped 2 77 (· == .m) = true := by decide +kernel
def lulled (st : LinkState) : State := { holding .m with links := updAt (holding .m).links 38 fun k => { k with st } }
theorem wit_MemoryEvents_asleep : ∀ st ∈ [LinkState.sleep, .waking], (lulled st).outsider 9 = true ∧ (lulled st).hears 9 = true ∧
    ((lulled st).links[36 + 2]?).map (·.st) = some st ∧
    (lulled st).l2.any (fun l => l.die == 2 && l.line == 77 && l.st == .m) = true := by decide +kernel
theorem wit_MemoryEvents_host : ∀ off ∈ [0, 2 ^ 39 - 1], (joined awakeState).awake = true ∧ (joined awakeState).hears hostAgent = true ∧
    targetOf awakeState.hubid (awakeState.hubid * 2 ^ 39 + off) = .own off ∧ ∀ own ∈ [true, false],
    ((joined awakeState).reachLines own (linesOf off 1)).2 = false ∧ (((joined awakeState).reachLines own (linesOf off 1)).1.hostFault 0 off) = none := by
  decide +kernel
theorem wit_MemoryEvents_host_waits : ∀ own ∈ [true, false],
    (({ holding .m with recs := [⟨77, 1, some 9, 0, 0, false⟩] } : State).reachLines own (linesOf (77 * 128) 8)).2 = true := by decide +kernel
theorem wit_MemoryEvents_firmware : awakeState.awake = true ∧ targetOf awakeState.hubid 64 = .own 64 ∧ firmwareWindow 64 8 = false ∧
    targetOf awakeState.hubid (9 * 2 ^ 39) = .peer 9 0 ∧
    awakeState.hubCycle < ({ awakeState with mgmt := { awakeState.mgmt with egressFree := 500001 } } : State).mgmt.egressFree := by decide +kernel
theorem holding_alive (st : L2State) (a : Nat) : (holding st).agentDead a = false := by
  unfold State.agentDead State.agent holding
  by_cases h : a = 9
  · subst h; rfl
  · have : ((9 : Nat) == a) = false := by simpa using Ne.symm h
    simp [this, Agent.reset]
theorem wit_MemoryEvents_home : 9 < 4096 ∧ (holding .m).outsider 9 = true ∧ (holding .m).hears 9 = true ∧ homeOk (.read 8 8) = true ∧
    homeNumbered (.read 8 8) = false ∧ (holding .m).homeDown (.read 8 8) = [] ∧
    (if homeReaches (.read 8 8) then (holding .m).publishFor (homeLine (.read 8 8)) else (holding .m, false)) = (holding .m, false) ∧
    (holding .m).hostFault 0 (homeLine (.read 8 8) * 128) = none := by
  refine ⟨by decide, by decide +kernel, by decide +kernel, by decide +kernel, by decide +kernel, by decide +kernel, by decide +kernel, ?_⟩
  simp [State.hostFault, State.deadHome, show (holding .m).deadHolder (lineOf (homeLine (.read 8 8) * 128)) = none by decide +kernel, holding_alive]
theorem wit_MemoryEvents_home_write : homeOk (.write 120 [1, 2, 3, 4, 5, 6, 7, 8]) = true ∧ homeNumbered (.write 120 [1, 2, 3, 4, 5, 6, 7, 8]) = true ∧
    (holding .m).homeDown (.write 120 [1, 2, 3, 4, 5, 6, 7, 8]) = [] ∧ (holding .m).homeWin 9 = [] := by decide +kernel
theorem wit_MemoryEvents_home_again :
    (({ holding .m with homeWins := [(9, [(4, .done, 0)])] } : State).homeWin 9).find? (fun p => p.1 == 4) = some (4, .done, 0) ∧
    (({ holding .m with homeWins := [(9, [(68, .done, 0)])] } : State).homeWin 9).all (fun p => p.1 != 4) = true ∧
    ∃ p ∈ ({ holding .m with homeWins := [(9, [(68, .done, 0)])] } : State).homeWin 9, 4 + 64 ≤ p.1 := by decide +kernel

/-- For `Obligations.CheckpointEvents`. -/
def ckptState (st : KState) (cause : Nat) : State :=
  { mapped awakeState with ckpt := { State.reset.ckpt with state := st, cause, ctxs := 1, todo := [] } }
theorem wit_CheckpointEvents_commands : ∀ st ∈ [KState.idle, .done, .failed, .cutting, .streaming], (ckptState st 0).awake = true ∧
    ((ckptState st 0).ckpt.state ≠ .cutting ∧ (ckptState st 0).ckpt.state ≠ .streaming ∨ (ckptState st 0).ckpt.state = .cutting ∨
      (ckptState st 0).ckpt.state = .streaming) ∧ (ckptState st 0).agentDead (ckptState st 0).ckpt.agent = false := by decide +kernel
theorem wit_CheckpointEvents_cut : (ckptState .cutting 0).ckpt.state = .cutting ∧ (ckptState .cutting 0).downSpokes = [] ∧
    (∀ b ∈ (ckptState .cutting 0).blocks,
    bitAt (ckptState .cutting 0).ckpt.ctxs b.ctx = true → b.onCore = true → (ckptState .cutting 0).cutReady b = true) ∧
    (ckptState .cutting 0).blocks ≠ [] := by decide +kernel
theorem wit_CheckpointEvents_stream : ∀ tr ∈ [true, false], ∃ s1 : State, s1 = ((ckptState .streaming 0).updCkpt fun k => { k with trailer := tr }) ∧
    s1.ckpt.state = .streaming ∧ s1.agentDead s1.ckpt.agent = false ∧ s1.ckpt.trailer = tr ∧ ∀ r ∈ s1.reqs, r.op ≠ checkpointOp := by
  intro tr _
  have h : ∀ r ∈ (ckptState .streaming 0).reqs, r.op ≠ checkpointOp := by decide +kernel
  have h2 : (ckptState .streaming 0).agentDead (ckptState .streaming 0).ckpt.agent = false := by decide +kernel
  exact ⟨_, rfl, rfl, h2, rfl, h⟩

/-- For `Obligations.PortEvents`: port 35 in each state. -/
def port (f : Link → Link) : State := { awakeState with links := updAt State.reset.links 35 f }
theorem wit_PortEvents_states : ∀ st ∈ [LinkState.down, .fenced, .training, .up, .sleep, .waking], ∃ k,
    (port fun k => { k with st, since := 480000 }).links[35]? = some k ∧ k.st = st ∧ k.since + 10000 ≤ awakeState.hubCycle ∧ awakeState.hubCycle ≤ k.since + 40000 ∧
    awakeState.awake = true := by
  intro st h
  refine some_of2 ?_
  revert st
  rw [← List.all_eq_true]
  decide +kernel
theorem wit_PortEvents_trained : ∀ lanes ∈ [8, 7, 15], ∃ k, (port fun k => { k with st := .training }).links[35]? = some k ∧
    k.st = .training ∧ lanes % 16 &&& k.lmask &&& (15 - k.lost % 16) ≠ 0 := by
  intro lanes h
  refine some_of2 ?_
  revert lanes
  rw [← List.all_eq_true]
  decide +kernel
theorem wit_PortEvents_attempts : ∀ n ∈ [1, 2], ∃ k, (port fun k => { k with st := .training, attempts := n }).links[35]? = some k ∧ k.st = .training ∧
    k.since + 10000 ≤ awakeState.hubCycle ∧ k.attempts = n := by
  intro n h
  refine some_of2 ?_
  revert n
  rw [← List.all_eq_true]
  decide +kernel
theorem wit_PortEvents_idle : ∃ k, (port fun k => { k with st := .up, slp := true, lastData := 490000 }).links[35]? = some k ∧ k.st = .up ∧ k.slp = true ∧
    k.lastData + 10000 ≤ awakeState.hubCycle := some_of2 (by decide +kernel)
theorem wit_PortEvents_errors : ∃ k, (port fun k => { k with st := .up, lanes := 15, badTimes := List.replicate 16 499000 }).links[35]? = some k ∧ k.st = .up ∧
    16 ≤ (k.badTimes.filter fun t => decide (awakeState.hubCycle ≤ t + 1000)).length ∧ 1 % 16 &&& k.lanes ≠ 0 := some_of2 (by decide +kernel)
theorem wit_PortEvents_wake_late : ∃ k, (port fun k => { k with st := .waking, since := 460000 }).links[35]? = some k ∧ k.st = .waking ∧
    k.since + 40000 ≤ awakeState.hubCycle := some_of2 (by decide +kernel)
theorem wit_PortEvents_again : ∃ k, (port fun k => { k with st := .up, tx := [⟨255, 0, .response 9 1 .done 0, 498000⟩] }).links[35]? = some k ∧ k.st = .up ∧
    ∃ t ∈ k.tx, t.seq = 255 ∧ t.sentAt + 2000 ≤ awakeState.hubCycle := some_of2 (by decide +kernel)

/-- For `Obligations.FlitsAcceptedOnce`: a number that comes again, a number next in order, and the last number that the window holds. -/
theorem wit_FlitsAcceptedOnce : ∀ q ∈ [5, 68], ∃ (k : Link) (f : Flit), f.seq = q ∧ seqAhead k.rxNext f.seq < 64 ∧ f.seq ∉ k.rxSeen ∧
    k.rxNext < 256 ∧ f.seq < 256 := by
  intro q h
  refine ⟨{ Link.port with rxNext := 5 }, ⟨1, 0, q, 0, 0, 0, []⟩, rfl, ?_⟩
  revert q
  decide
theorem wit_FlitsAcceptedOnce_again : ∃ (k : Link) (f : Flit), f.seq ∈ k.rxSeen :=
  ⟨{ Link.port with rxNext := 5, rxSeen := [7] }, ⟨1, 0, 7, 0, 0, 0, []⟩, by decide⟩

/-- For `Obligations.FailureEvents`. -/
theorem wit_FailureEvents_spoke : ∃ k : Link, ({ awakeState with links := updAt State.reset.links 43 fun k => { k with st := .down, outSince := some 450000 } } : State).links[36 + 7]? = some k ∧
    k.outSince = some 450000 ∧ k.st ≠ .up ∧ 450000 + 40000 < awakeState.hubCycle := some_of2 (by decide +kernel)
theorem wit_FailureEvents_hub : awakeState.awake = true ∧ awakeState.hubidSet = false ∧ ({ awakeState with hubidSet := true } : State).hubidSet = true ∧
    awakeState.beatStop = false ∧ awakeState.beatSent + 100000 ≤ awakeState.hubCycle := by decide +kernel
def agentIn (a : Nat) (st : AState) : State := { awakeState with agents := [(a, { Agent.reset with state := st, lastBeat := 100000 })], dir := [⟨77, a == hostAgent, [9], 0, some a⟩] }
theorem wit_FailureEvents_agents : ∀ a ∈ [9, hostAgent, dieAgent 7], (∀ st ∈ [AState.absent, .live, .fencing, .striking, .fenced],
    (agentIn a st).agentKnown a = true ∧ ((agentIn a st).agent a).state = st) ∧ ((agentIn a .live).agent a).lastBeat + 400000 ≤ awakeState.hubCycle ∧
    (agentIn a .live).awake = true ∧ 5 ∉ ((agentIn a .fenced).agent a).votes ∧ (∃ d ∈ (agentIn a .fencing).dir, d.owner = some a) := by decide +kernel
theorem wit_FailureEvents_unfence : unfenceName 9 = some 9 ∧ unfenceName 0x2000 = some hostAgent ∧ unfenceName 0x1007 = some (dieAgent 7) := by decide

/-- For `Obligations.ManagementEvents`. -/
theorem wit_ManagementEvents : State.reset.fw.tried = false ∧ awakeState.fw.started = true ∧ awakeState.awake = true ∧
    (({ awakeState with fw := { awakeState.fw with started := false, retryAt := 500000 } } : State).fw.tried = true ∧
      ({ awakeState with fw := { awakeState.fw with started := false, retryAt := 500000 } } : State).fw.started = false ∧ 500000 ≤ awakeState.hubCycle) ∧
    ({ awakeState with mgmt := { awakeState.mgmt with pending := some 3 } } : State).mgmt.pending = some 3 ∧
    awakeState.power.sampledAt + 10000 ≤ awakeState.hubCycle := by decide +kernel
theorem wit_ManagementEvents_context : ∃ c : Context, awakeState.ctxs[63]? = some c ∧ 63 < 64 := ⟨_, rfl, by decide⟩

/-! #### Frames, decoding, steps -/

/-- Whether an instruction goes on to a next state. -/
def goesOn (o : Host.Outcome State Machine.Fault Refusal) : Bool := match o with | .next _ => true | _ => false
theorem goesOn_next {o : Host.Outcome State Machine.Fault Refusal} (h : goesOn o = true) : ∃ t, o = .next t := by
  unfold goesOn at h
  split at h
  · exact ⟨_, rfl⟩
  · cases h
/-- For `Obligations.ValueFrame` and `PredicateFrame`: an addition into g4 and into o3, and a comparison into p6. -/
theorem wit_ValueFrame : ∀ d ∈ [4, 0x103, 0x110, 0xFF], ∃ t x, IssuesLong 0x01 none readsAB (flds d 8 6 0 0 0) (plainState 0) x ∧
    exec (.iadd (flds d 8 6 0 0 0)) (plainState 0) = .next t ∧ ∃ c : Crew, (plainState 0).crew? x.uid x.ci = some c := by
  intro d hd
  obtain ⟨x, h, hx⟩ := met (op := 0x01) (fn := none) (reads := readsAB) (w := flds d 8 6 0 0 0) (s := plainState 0)
    (fun x => (((plainState 0).crew? x.uid x.ci).any fun _ => true) = true) (by revert d; rw [← List.all_eq_true]; decide +kernel)
  obtain ⟨t, ht⟩ := goesOn_next (o := exec (.iadd (flds d 8 6 0 0 0)) (plainState 0)) (by clear h hx x; revert d; rw [← List.all_eq_true]; decide +kernel)
  obtain ⟨c, hc, -⟩ := some_of hx
  exact ⟨t, x, h, ht, c, hc⟩
theorem wit_PredicateFrame : ∃ t x, IssuesLong 0x0C none readsAB (flds 6 8 6 0 2 0) (plainState 0) x ∧
    exec (.icmp (flds 6 8 6 0 2 0)) (plainState 0) = .next t := by
  obtain ⟨x, h, -⟩ := met (op := 0x0C) (fn := none) (reads := readsAB) (w := flds 6 8 6 0 2 0) (s := plainState 0) (fun _ => True) (by decide +kernel)
  obtain ⟨t, ht⟩ := goesOn_next (o := exec (.icmp (flds 6 8 6 0 2 0)) (plainState 0)) (by decide +kernel)
  exact ⟨t, x, h, ht⟩
/-- For `Obligations.MoveAndStoreFrame`. -/
theorem canonical_of {s : State} (h : (Memory.wf s.mem && s.blocks.all fun b => Memory.wf b.body.scratch && b.snap.isNone) = true) : MemoryCanonical s := by
  simp only [Bool.and_eq_true, List.all_eq_true] at h
  refine ⟨h.1, fun b hb => ⟨(h.2 b hb).1, fun k hk => ?_⟩⟩
  have := (h.2 b hb).2
  rw [hk] at this
  cases this
theorem wit_MoveAndStoreFrame_moves : ∀ p ∈ ([(0x20, [], flds 0 0 0 0 0 0), (0x28, [], flds 2 0 0 0 0 0), (0x22, readsA, flds 0 4 0 0 0 0),
      (0x21, readsA, { litFlds 0 0x1FF 0 0 0 64 with b := 0 })] : List (Nat × List ReadAs × Fields)),
    ∃ x, IssuesLong p.1 none p.2.1 p.2.2 (mem2 0) x ∧ ((p.1 = 0x21 → ∀ l ∈ x.act, x.relTarget l % 4 = 0) ∧ (p.1 = 0x22 → ∀ l ∈ x.act, x.a l 64 % 4 = 0)) := by
  intro p hp
  refine met _ ?_
  revert p
  rw [← List.all_eq_true]
  decide +kernel
theorem wit_MoveAndStoreFrame_sts : MemoryCanonical (mem2 0) ∧ ∃ x, IssuesLong 0xA5 none readsABC (flds 0 4 6 10 0 0) (mem2 0) x ∧
    x.scratchOk x.sa (memBytes x.mod) true :=
  ⟨canonical_of (by decide +kernel),
    met_by (fun x => scratchOkB x x.sa (memBytes x.mod)) (fun _ _ h => scratchOk_of h) (by decide +kernel)⟩

/-- For `Obligations.DecodeOfEncode`: one instruction of each length, and one without the optional fields. -/
theorem wit_DecodeOfEncode : ∀ i ∈ [Instr.iaddShort (short 7 9), .iadd (flds 4 5 6 0 0 0), .iadd (litFlds 4 5 0x1FF 0 0 7), .fadd { flds 10 11 12 0 0 0 with ext := .sweep 64 1 1 0 },
    .rett (flds 0 0 0 0 0 0)], i.encoded = true ∧ i.illDetail Limits.all = 0 := by decide

/-- The machine with a word where it fetches, at its issue. -/
def fetchState : State := State.reset.withFetchWord 32 0x0481DC04
/-- For `Obligations.StepRunsDecoded`: the second bundle of a crew, with an instruction and without. -/
theorem wit_StepRunsDecoded_second : ∀ i ∈ [some (Instr.iaddShort (short 7 9)), none],
    ∃ q : Issue, ({ fetchState with second := some ⟨0, 0, List.range 32, i, 2⟩ } : State).second = some q ∧ q.instr = i ∧
      (({ fetchState with second := some ⟨0, 0, List.range 32, i, 2⟩ } : State).crew? q.uid q.crew).isSome = true := by
  intro i hi
  refine ⟨_, rfl, rfl, ?_⟩
  revert i
  rw [← List.all_eq_true]
  decide +kernel
/-- Whether a state comes to a pick that has a property of the state and the crew picked. -/
def pickB (s : State) (p : State → Pickable → Bool) : Bool :=
  s.second.isNone && s.duePrompt.isNone && s.nextPosted.isNone && s.nextMove.1.isNone &&
    !s.nextMove.2.regroupDue && s.nextMove.2.againNow.isNone && s.nextMove.2.nextPick.any (p s.nextMove.2)
theorem pick_of {s : State} {p : State → Pickable → Bool} (h : pickB s p = true) : ∃ s1 q, s.second = none ∧ s.duePrompt = none ∧
    s.nextPosted = none ∧ s.nextMove = (none, s1) ∧ s1.regroupDue = false ∧ s1.againNow = none ∧ s1.nextPick = some q ∧ p s1 q = true := by
  simp only [pickB, Bool.and_eq_true, Bool.not_eq_true', Option.isNone_iff_eq_none] at h
  obtain ⟨⟨⟨⟨⟨⟨a, b⟩, c⟩, e⟩, f⟩, d⟩, g⟩ := h
  obtain ⟨q, hq, hp⟩ := some_of g
  exact ⟨_, q, a, b, c, Prod.ext e rfl, f, d, hq, hp⟩
/-- What a bundle's words decode to. -/
def decodes (r : Decoded) : Bool := match r with | .ok _ _ => true | .ill _ => false
theorem decodes_of {r : Decoded} (h : decodes r = true) : ∃ i n, r = .ok i n := by
  cases r with
  | ok i n => exact ⟨i, n, rfl⟩
  | ill e => cases h
theorem ill_of {r : Decoded} (h : decodes r = false) : ∃ e, r = .ill e := by
  cases r with
  | ok i n => cases h
  | ill e => exact ⟨e, rfl⟩
/-- The block and crew of a pick, with a property of both. -/
def pickedB (s : State) (p : Pickable) (f : Block → Crew → Bool) : Bool := (s.block? p.uid).any fun b => (b.crew? p.ci).any (f b)
theorem wit_StepRunsDecoded_pick : ∀ w ∈ [0x0481DC04, 0], ∃ (s1 : State) (p : Pickable) (ls : List Nat) (b : Block) (c : Crew),
    let s := State.reset.withFetchWord 32 w
    s.second = none ∧ s.duePrompt = none ∧ s.nextPosted = none ∧ s.nextMove = (none, s1) ∧ s1.regroupDue = false ∧ s1.againNow = none ∧
    s1.nextPick = some p ∧ sortBy (fun ls : List Nat => ls.headD 32) p.ready = [ls] ∧ (s1.recordPick p).block? p.uid = some b ∧
    b.crew? p.ci = some c ∧ if w = 0 then ∃ e, (s1.recordPick p).bundleInstr b c ls = .ill e
      else ∃ i n, (s1.recordPick p).bundleInstr b c ls = .ok i n := by
  intro w hw
  have h : pickB (State.reset.withFetchWord 32 w) (fun s1 p => decide (sortBy (fun ls : List Nat => ls.headD 32) p.ready = [List.range 32]) &&
      pickedB (s1.recordPick p) p fun b c => decodes ((s1.recordPick p).bundleInstr b c (List.range 32)) == decide (w ≠ 0)) = true := by
    revert w
    rw [← List.all_eq_true]
    decide +kernel
  obtain ⟨s1, p, a, b, c, d, e, f, g, h⟩ := pick_of h
  simp only [Bool.and_eq_true, decide_eq_true_eq] at h
  obtain ⟨k, hk, h2⟩ := some_of h.2
  obtain ⟨cr, hc, h3⟩ := some_of h2
  refine ⟨s1, p, _, k, cr, a, b, c, d, e, f, g, h.1, hk, hc, ?_⟩
  split
  · rename_i h0; exact ill_of (by simpa [h0] using h3)
  · rename_i h0; exact decodes_of (by simpa [h0] using h3)
/-- The lanes of the crew in two bundles. -/
def twoBundles : State := fetchState.updCrew 0 0 fun c => { c with bundles := [⟨List.range 16⟩, ⟨(List.range 16).map (· + 16)⟩] }
theorem wit_StepRunsDecoded_two : ∃ (s1 : State) (p : Pickable) (b : Block) (c : Crew) (i j : Instr) (n k : Nat),
    let l := List.range 16
    let m := (List.range 16).map (· + 16)
    twoBundles.second = none ∧ twoBundles.duePrompt = none ∧ twoBundles.nextPosted = none ∧
    twoBundles.nextMove = (none, s1) ∧ s1.regroupDue = false ∧ s1.againNow = none ∧ s1.nextPick = some p ∧
    sortBy (fun ls : List Nat => ls.headD 32) p.ready = [l, m] ∧ (s1.recordPick p).block? p.uid = some b ∧ b.crew? p.ci = some c ∧
    (s1.recordPick p).bundleInstr b c l = .ok i n ∧ (s1.recordPick p).bundleInstr b c m = .ok j k := by
  obtain ⟨s1, p, a, b, c, d, e, f, g, h⟩ := pick_of (s := twoBundles) (p := fun s1 p =>
    let l := List.range 16
    let m := (List.range 16).map (· + 16)
    decide (sortBy (fun ls : List Nat => ls.headD 32) p.ready = [l, m]) && pickedB (s1.recordPick p) p fun b c =>
      decodes ((s1.recordPick p).bundleInstr b c l) && decodes ((s1.recordPick p).bundleInstr b c m)) (by decide +kernel)
  simp only [Bool.and_eq_true, decide_eq_true_eq] at h
  obtain ⟨k, hk, h2⟩ := some_of h.2
  obtain ⟨cr, hc, h3⟩ := some_of h2
  rw [Bool.and_eq_true] at h3
  obtain ⟨i, n, hi⟩ := decodes_of h3.1
  obtain ⟨j, m, hj⟩ := decodes_of h3.2
  exact ⟨s1, p, k, cr, i, j, n, m, a, b, c, d, e, f, g, h.1, hk, hc, hi, hj⟩
theorem wit_StepRunsDecoded_fetch : ∃ (b : Block) (c : Crew) (h : Thread) (ps : List Word), fetchState.block? 0 = some b ∧ b.crew? 0 = some c ∧
    c.threads[(List.range 32).headD 0]? = some h ∧ fetchState.ibFetch b.core b.ctx h.pc.toNat h.stale = some ps :=
  ⟨_, _, _, [0x0481DC04], rfl, rfl, rfl, by decide +kernel⟩
theorem wit_StepRunsDecoded_event : ({ fetchState with agenda := [(0, .heartbeatSend)] } : State).second = none ∧
    ({ fetchState with agenda := [(0, .heartbeatSend)] } : State).duePrompt = some (0, .heartbeatSend) := ⟨rfl, by decide +kernel⟩
/-- A lane whose load waits for a copy that has ended. -/
def againState : State :=
  { (plainState 0).updThread 0 0 3 fun t => { t with again := some ⟨.range 40, .iadd (flds 4 5 6 0 0 0), []⟩ } with turn := 1 }
theorem wit_StepRunsDecoded_again : againState.second = none ∧ againState.duePrompt = none ∧ againState.nextPosted = none ∧
    ∃ s1 k i j, againState.nextMove = (none, s1) ∧ s1.regroupDue = false ∧ s1.againNow = some (k, i, j) := by
  refine ⟨by decide +kernel, by decide +kernel, by decide +kernel, ?_⟩
  have h : (againState.nextMove.1.isNone && !againState.nextMove.2.regroupDue && againState.nextMove.2.againNow.isSome) = true := by
    decide +kernel
  simp only [Bool.and_eq_true, Bool.not_eq_true', Option.isNone_iff_eq_none] at h
  obtain ⟨p, hp⟩ := Option.isSome_iff_exists.mp h.2
  exact ⟨_, p.1, p.2.1, p.2.2, Prod.ext h.1.1 rfl, h.1.2, hp⟩

/-- For `Obligations.StepKeepsMemoryCanonical`: reset, and a state with memory and a scratchpad, each of which takes a step. -/
theorem wit_StepKeepsMemoryCanonical : MemoryCanonical (mem2 0) ∧ (∃ t, step (mem2 0) = .next t) ∧ MemoryCanonical fetchState ∧
    ∃ t, step fetchState = .next t :=
  ⟨canonical_of (by decide +kernel), goesOn_next (by decide +kernel), canonical_of (by decide +kernel), goesOn_next (by decide +kernel)⟩

end Sys2Proof.Tests
end

/-! The family of R4, R380 and R386 to R394: what the firmware's, the power limiter's and the scrubber's events do, and what reads and
writes of the registers of context slots and ports do. -/

namespace Sys2Proof.Machine
open Sys2Proof

/-! ### The events as `exec` runs them -/

section
variable (s : State)
@[simp] theorem exec_boot (img : FwImage) : exec (.boot img) s = execBoot img s := rfl
@[simp] theorem exec_recoveryRetry (img : FwImage) : exec (.recoveryRetry img) s = execRecoveryRetry img s := rfl
@[simp] theorem exec_minimumVersionRaise (v : Nat) : exec (.minimumVersionRaise v) s = execMinimumVersionRaise v s := rfl
@[simp] theorem exec_attreq (nonce : Nat) : exec (.attreq nonce) s = execAttreq nonce s := rfl
@[simp] theorem exec_managementAttestationRequest (nonce : Nat) :
    exec (.managementAttestationRequest nonce) s = execManagementAttestationRequest nonce s := rfl
@[simp] theorem exec_attestationDone : exec .attestationDone s = execAttestationDone s := rfl
@[simp] theorem exec_debugChallenge (c : Nat) (sig : List Byte) :
    exec (.debugChallenge c sig) s = execDebugChallenge c sig s := rfl
@[simp] theorem exec_pwrlim (v : Nat) : exec (.pwrlim v) s = execPwrlim v s := rfl
@[simp] theorem exec_powerSample (d : Nat) : exec (.powerSample d) s = execPowerSample d s := rfl
@[simp] theorem exec_scrub (p : ScrubAt) (r : ScrubRes) : exec (.scrub p r) s = execScrub p r s := rfl
@[simp] theorem exec_registerWrite (off v : Nat) (firmware : Bool) :
    exec (.registerWrite off v firmware) s = execRegisterWrite off v firmware s := rfl
end

/-! ### Boot (R386, R387) -/

section
variable (f : Firmware) (img : FwImage)
@[simp] theorem Firmware.start_started : (f.start img).started = true := rfl
@[simp] theorem Firmware.start_tried : (f.start img).tried = f.tried := rfl
@[simp] theorem Firmware.start_measurement : (f.start img).measurement = digest img.bytes := rfl
@[simp] theorem Firmware.start_version : (f.start img).version = img.version % 2 ^ 32 := rfl
@[simp] theorem Firmware.retry_started (now : Nat) : (f.retry now).started = f.started := rfl
@[simp] theorem Firmware.retry_retryAt (now : Nat) : (f.retry now).retryAt = now + 10000000000 := rfl
end

/-- The firmware once the ROM has read the flash, before it looks at the image. -/
def Firmware.readFlash (f : Firmware) (img : FwImage) (now : Nat) : Firmware :=
  { f with tried := true, flash := some img, retryAt := now }

section
variable (f : Firmware) (img : FwImage) (now : Nat)
@[simp] theorem Firmware.readFlash_tried : (f.readFlash img now).tried = true := rfl
@[simp] theorem Firmware.readFlash_started : (f.readFlash img now).started = f.started := rfl
end

theorem execBoot_of_untried (img : FwImage) {s : State} (h : s.fw.tried = false) :
    execBoot img s = .next { s with
      fw := if s.fw.accepts img = true then (s.fw.readFlash img s.hubCycle).start img else s.fw.readFlash img s.hubCycle } := by
  rw [execBoot, h]; rfl

theorem execRecoveryRetry_of_due (img : FwImage) {s : State} (ht : s.fw.tried = true) (hs : s.fw.started = false)
    (hr : s.fw.retryAt ≤ s.hubCycle) :
    execRecoveryRetry img s =
      .next { s with fw := if s.fw.accepts img then { s.fw.start img with flash := some img } else s.fw.retry s.hubCycle } := by
  have hdue : decide (s.hubCycle < s.fw.retryAt) = false := by simpa using hr
  simp only [execRecoveryRetry, ht, hs, hdue]; rfl

theorem boot_starts_accepted_image (img : FwImage) (s : State) (h : s.fw.tried = false) :
    ∃ t, exec (.boot img) s = .next t ∧ t.fw.tried = true ∧ t.mem = s.mem ∧
      if s.fw.accepts img = true
      then t.fw.started = true ∧ t.fw.measurement = digest img.bytes ∧ t.fw.version = img.version % 2 ^ 32
      else t.fw.started = s.fw.started := by
  refine ⟨_, (exec_boot s img).trans (execBoot_of_untried img h), ?_⟩
  by_cases ha : s.fw.accepts img = true
  · simp [ha]
  · simp [ha]

theorem recoveryRetry_starts_or_waits (img : FwImage) (s : State) (ht : s.fw.tried = true) (hs : s.fw.started = false)
    (hr : s.fw.retryAt ≤ s.hubCycle) :
    ∃ t, exec (.recoveryRetry img) s = .next t ∧ if s.fw.accepts img = true then t.fw.started = true ∧ t.fw.flash = some img
      else t.fw.started = false ∧ t.fw.retryAt = s.hubCycle + 10000000000 := by
  refine ⟨_, (exec_recoveryRetry s img).trans (execRecoveryRetry_of_due img ht hs hr), ?_⟩
  by_cases ha : s.fw.accepts img = true
  · simp [ha]
  · simp [ha, hs]

theorem minimumVersionRaise_takes_max (v : Nat) (s : State) (h : s.fw.started = true) :
    ∃ t, exec (.minimumVersionRaise v) s = .next t ∧ t.fw.minVersion = max s.fw.minVersion (v % 2 ^ 32) :=
  ⟨_, by rw [exec_minimumVersionRaise, execMinimumVersionRaise, if_pos h], rfl⟩

/-! ### Attestation and debug access (R389, R394) -/

theorem execAttreq_of_host_live (nonce : Nat) {s : State} (hw : s.awake = true) (hd : s.agentDead hostAgent = false) :
    execAttreq nonce s = .next { s with mgmt := s.mgmt.ask nonce } := by simp [execAttreq, hw, hd]

theorem execAttreq_of_host_dead (nonce : Nat) {s : State} (hd : s.agentDead hostAgent = true) : execAttreq nonce s = .next s := by
  simp [execAttreq, hd]

theorem execManagementAttestationRequest_of_awake (nonce : Nat) {s : State} (hw : s.awake = true) :
    execManagementAttestationRequest nonce s = .next { s with mgmt := s.mgmt.ask nonce } := by
  rw [execManagementAttestationRequest, if_pos hw]

theorem attestation_requested (nonce : Nat) (s : State) (hw : s.awake = true) :
    (s.agentDead hostAgent = false → ∃ t, exec (.attreq nonce) s = .next t ∧ t.mgmt.pending = some (nonce % 2 ^ 256) ∧
      t.mgmt.done = false) ∧
    (s.agentDead hostAgent = true → exec (.attreq nonce) s = .next s) ∧
    (∃ t, exec (.managementAttestationRequest nonce) s = .next t ∧ t.mgmt.pending = some (nonce % 2 ^ 256) ∧ t.mgmt.done = false) :=
  ⟨fun hd => ⟨_, (exec_attreq s nonce).trans (execAttreq_of_host_live nonce hw hd), rfl, rfl⟩,
   fun hd => (exec_attreq s nonce).trans (execAttreq_of_host_dead nonce hd),
   ⟨_, (exec_managementAttestationRequest s nonce).trans (execManagementAttestationRequest_of_awake nonce hw), rfl, rfl⟩⟩

theorem attestationDone_gives_report (nonce : Nat) (s : State) (h : s.mgmt.pending = some nonce) :
    ∃ t, exec .attestationDone s = .next t ∧ t.mgmt.pending = none ∧ t.mgmt.done = true ∧
      t.mgmt.report = s.reportBody nonce ++ signature (s.reportBody nonce) ++ publicKey :=
  ⟨_, by rw [exec_attestationDone, execAttestationDone, h], rfl, rfl, rfl⟩

theorem debugChallenge_opens_when_granted (c : Nat) (sig : List Byte) (s : State) :
    ∃ t, exec (.debugChallenge c sig) s = .next t ∧ t.mgmt.debug =
      (s.mgmt.debug || Config.debugFuse || hssVerify Config.vendorKey sig (toBytes c 32)) ∧ t.mem = s.mem := by
  refine ⟨_, exec_debugChallenge s c sig, ?_⟩
  rw [Bool.or_assoc]
  by_cases hg : (Config.debugFuse || hssVerify Config.vendorKey sig (toBytes c 32)) = true
  · rw [if_pos hg, hg, Bool.or_true]; exact ⟨rfl, rfl⟩
  · rw [if_neg hg, Bool.eq_false_iff.mpr hg, Bool.or_false]; exact ⟨rfl, rfl⟩

/-! ### Power (R391, R392) -/

theorem le_clampLimit (v : Nat) : 300 ≤ clampLimit v := Nat.le_max_left ..

theorem pwrlim_clamps (v : Nat) (s : State) (h : s.awake = true) :
    ∃ t, exec (.pwrlim v) s = .next t ∧ t.power.limit = max 300 (min (v % 2 ^ 16) powerCap) ∧ 300 ≤ t.power.limit :=
  ⟨_, by rw [exec_pwrlim, execPwrlim, if_pos h], rfl, le_clampLimit v⟩

theorem powerSample_moves_clock (d : Nat) (s : State) (h : s.power.sampledAt + 10000 ≤ s.hubCycle) :
    ∃ t, exec (.powerSample d) s = .next t ∧
      t.power.power = d % 2 ^ 16 ∧ t.power.lower = decide (s.power.limit < d % 2 ^ 16) ∧
      t.power.freq = (if s.power.lower = true then max 250 (s.power.freq - 25)
        else if 100 * (d % 2 ^ 16) ≤ 95 * s.power.limit then min 1250 (s.power.freq + 25) else s.power.freq) ∧
      t.power.capped = (t.power.freq == 250 && decide (s.power.limit < d % 2 ^ 16)) :=
  ⟨_, by rw [exec_powerSample, execPowerSample, if_neg (Nat.not_lt.mpr h)], rfl, rfl, rfl, rfl⟩

/-! ### The scrubber (R393) -/

@[simp] theorem markBad_mem (s : State) (p : ScrubAt) : (s.markBad p).mem = s.mem := by
  cases p with
  | register uid crew lane code => unfold State.markBad; dsimp only; split <;> rfl
  | _ => rfl

theorem mem_markBad_poison (s : State) (line : Nat) : line ∈ (s.markBad (.memory line)).poison := by
  simp [State.markBad]

theorem markBad_l1_bad (s : State) {core ctx vline : Nat} {l : L1Line} (h : l ∈ (s.markBad (.l1 core ctx vline)).l1)
    (hcore : l.core = core) (hctx : l.ctx = ctx) (hline : l.vline = vline) : l.bad = true := by
  obtain ⟨k, -, rfl⟩ := List.mem_map.mp h
  by_cases hk : (k.core == core && k.ctx == ctx && k.vline == vline) = true
  · rw [if_pos hk]
  · rw [if_neg hk] at hcore hctx hline
    simp [hcore, hctx, hline] at hk

theorem scrub_counts_and_marks (p : ScrubAt) (s : State) : exec (.scrub p .clean) s = .next s ∧
    (∃ t, exec (.scrub p .correctable) s = .next t ∧ t.mgmt.ce = (s.mgmt.ce + 1) % 2 ^ 32 ∧ t.mem = s.mem ∧
      t.poison = s.poison ∧ t.l1 = s.l1 ∧ t.blocks = s.blocks) ∧
    (∃ t, exec (.scrub p .uncorrectable) s = .next t ∧ t.mgmt.ue = (s.mgmt.ue + 1) % 2 ^ 16 ∧ t.mem = s.mem ∧
      (∀ line, p = .memory line → line ∈ t.poison) ∧
      (∀ core ctx line, p = .l1 core ctx line → ∀ l ∈ t.l1, l.core = core → l.ctx = ctx → l.vline = line → l.bad = true)) := by
  simp only [exec_scrub, execScrub]
  refine ⟨trivial, ⟨_, rfl, rfl, rfl, rfl, rfl, rfl⟩, _, rfl, rfl, markBad_mem s p, ?_, ?_⟩
  · rintro line rfl
    exact mem_markBad_poison s line
  · rintro core ctx line rfl l hl
    exact markBad_l1_bad s hl

/-! ### Registers without an event of their own (R4) -/

/-- The registers of context slot `n` (R324). -/
theorem readReg_context (s : State) {n off : Nat} (hn : n < 64) (ho : off < 256) :
    s.readReg (0x200000 + 256 * n + off) = s.ctxs[n]?.bind fun c => c.readReg off := by
  have hidx : (0x200000 + 256 * n + off - 0x200000) / 256 = n := by omega
  have hoff : (0x200000 + 256 * n + off) % 256 = off := by omega
  rw [State.readReg, if_neg (by omega), if_pos (by omega), hidx, hoff]

/-- The registers of fabric port `p` (R376). -/
theorem readReg_link (s : State) {p off : Nat} (hp : p < 36) (ho : off < 64) :
    s.readReg (0x500000 + 64 * p + off) = s.links[p]?.bind fun k => k.readReg off := by
  have hidx : (0x500000 + 64 * p + off - 0x500000) / 64 = p := by omega
  have hoff : (0x500000 + 64 * p + off) % 64 = off := by omega
  rw [State.readReg, if_neg (by omega), if_neg (by omega), if_neg (by omega), if_neg (by omega), if_pos (by omega), hidx, hoff]

theorem writeReg_context (s : State) {n off : Nat} (v : Nat) (hn : n < 64) (ho : off < 256) :
    s.writeReg (0x200000 + 256 * n + off) v = s.updCtx n fun c => if c.writable then c.writeReg off v else c := by
  have hidx : (0x200000 + 256 * n + off - 0x200000) / 256 = n := by omega
  have hoff : (0x200000 + 256 * n + off) % 256 = off := by omega
  rw [State.writeReg, if_neg (by omega), if_pos (by omega), hidx, hoff]

theorem updCtx_getElem? (s : State) {n : Nat} {c : Context} (f : Context → Context) (h : s.ctxs[n]? = some c) :
    (s.updCtx n f).ctxs[n]? = some (f c) := by
  simp [State.updCtx, updAt_getElem?, h]

theorem Context.writable_iff (c : Context) : c.writable = true ↔ c.state = .free ∨ c.state = .ready ∨ c.state = .saved := by
  simp [Context.writable, or_assoc]

@[simp] theorem writeRoute_mem (s : State) (off v : Nat) : (s.writeRoute off v).mem = s.mem := by
  unfold State.writeRoute
  split
  · rfl
  · split <;> rfl

/-- A write changes the registers of one unit, none of which is memory. -/
@[simp] theorem writeReg_mem (s : State) (off v : Nat) : (s.writeReg off v).mem = s.mem := by
  unfold State.writeReg
  split
  next => exact putQueue_mem s _ _
  next =>
    split
    next => exact updCtx_mem s _ _
    next =>
      split
      next => rfl
      next =>
        split
        next =>
          split
          next => exact updLink_mem s _ _
          next => rfl
        next =>
          split
          next => exact writeRoute_mem s _ _
          next => rfl

theorem contextRegisters_read (n : Nat) (s : State) (c : Context) (hn : n < 64) (hc : s.ctxs[n]? = some c) :
    s.readReg (0x200000 + 256 * n) = some 0 ∧ s.readReg (0x200000 + 256 * n + 0x18) = some c.tvec ∧
    s.readReg (0x200000 + 256 * n + 0x08) = some (c.logcnt % 2 ^ 32 * 2 ^ 32 + c.lastcls * 2 ^ 24 + c.state.code) := by
  have hread : ∀ off < 256, s.readReg (0x200000 + 256 * n + off) = c.readReg off := fun off ho => by
    rw [readReg_context s hn ho, hc]; rfl
  exact ⟨hread 0 (by decide), hread 0x18 (by decide), hread 0x08 (by decide)⟩

theorem linkStatus_read (p : Nat) (s : State) (k : Link) (hp : p < 36) (hk : s.links[p]? = some k) :
    s.readReg (0x500000 + 64 * p + 8) = some (k.peer * 2 ^ 52 + k.pinc * 2 ^ 44 + k.st.code * 2 ^ 4 + k.lanes) := by
  rw [readReg_link s hp (by decide), hk]; rfl

theorem registerWrite_by_writer (off v : Nat) (s : State) (hw : s.awake = true) :
    (s.agentDead hostAgent = false → exec (.registerWrite off v false) s = .next (s.writeReg off v)) ∧
    (s.agentDead hostAgent = true → exec (.registerWrite off v false) s = .next s) ∧
    (off ≠ 0x6F0000 → exec (.registerWrite off v true) s = .next (s.writeReg off v)) ∧
    (s.writeReg off v).mem = s.mem := by
  refine ⟨fun hd => ?_, fun hd => ?_, fun ho => ?_, writeReg_mem s off v⟩
  · simp [execRegisterWrite, hw, hd]
  · simp [execRegisterWrite, hd]
  · simp [execRegisterWrite, hw, ho]

theorem contextTvec_written (n v : Nat) (s : State) (c : Context) (hn : n < 64) (hc : s.ctxs[n]? = some c) :
    ∃ c', (s.writeReg (0x200000 + 256 * n + 0x18) v).ctxs[n]? = some c' ∧
      c'.tvec = (if c.state = .free ∨ c.state = .ready ∨ c.state = .saved then v % 2 ^ 53 else c.tvec) ∧ c'.root = c.root := by
  rw [writeReg_context s v hn (by decide)]
  refine ⟨_, updCtx_getElem? s _ hc, ?_⟩
  by_cases h : c.writable = true
  · rw [if_pos h, if_pos (c.writable_iff.mp h)]
    exact ⟨by simp [Context.writeReg, bitsOf], rfl⟩
  · rw [if_neg h, if_neg (mt c.writable_iff.mpr h)]
    exact ⟨rfl, rfl⟩

/-- Settles O52: each clause is the lemma above that says what its event, read or write does. -/
theorem managementEvents : Obligations.ManagementEvents :=
  ⟨boot_starts_accepted_image, recoveryRetry_starts_or_waits, minimumVersionRaise_takes_max, attestation_requested,
   attestationDone_gives_report, debugChallenge_opens_when_granted, pwrlim_clamps, powerSample_moves_clock, scrub_counts_and_marks,
   contextRegisters_read, linkStatus_read, registerWrite_by_writer, contextTvec_written⟩

end Sys2Proof.Machine

/-! The family of R9 and R104 to R111: which branch of the order of a step is taken, and that the bundle which issues runs the
instruction that it has read. The order is said once (`CoreTurn`); the crew that a pick names is still there when its bundle issues,
since the bookkeeping of the pick loses no crew. -/

namespace Sys2Proof.Machine
open Sys2Proof

/-! ### The issue of a bundle -/

/-- What a step makes of the outcome of a bundle: the crew's cycle ends when no other bundle of the pick is left. -/
def endIssue (u ci : Nat) : Host.Outcome State Fault Refusal → Host.Outcome State Fault Refusal
  | .next t => .next (if t.second.isNone then t.endPick u ci else t)
  | r => r

/-- The instruction that a bundle has read, or ILL where the decoder has refused its word. -/
def Issue.run (i : Issue) (s : State) : Host.Outcome State Fault Refusal :=
  match i.instr with
  | some k => exec k s
  | none => raiseIll i.ill s

theorem issueBundle_of_crew {s : State} {i : Issue} (h : (s.crew? i.uid i.crew).isSome = true) :
    issueBundle s i = endIssue i.uid i.crew (i.run { s with issue := some i }) := by
  rw [issueBundle, if_neg (by simpa using Option.isSome_iff_ne_none.mp h)]
  change (match i.run { s with issue := some i } with
    | .next t => .next (if t.second.isNone then t.endPick i.uid i.crew else t)
    | .fault f => .fault f
    | .refused e => .refused e : Host.Outcome State Fault Refusal) = _
  cases i.run { s with issue := some i } <;> rfl

/-! ### The bookkeeping of a pick loses no crew -/

@[simp] theorem crew?_updCrew_isSome (s : State) (u i v j : Nat) (f : Crew → Crew) :
    ((s.updCrew u i f).crew? v j).isSome = (s.crew? v j).isSome := by
  rw [updCrew_crew?]; split <;> simp

@[simp] theorem crew?_markFetch_isSome (s : State) (b : Block) (ci : Nat) (ls : List Nat) (v j : Nat) :
    ((s.markFetch b ci ls).crew? v j).isSome = (s.crew? v j).isSome := crew?_updCrew_isSome ..

@[simp] theorem crew?_markPicked_isSome (s : State) (u ci : Nat) (ls : List (List Nat)) (v j : Nat) :
    ((s.markPicked u ci ls).crew? v j).isSome = (s.crew? v j).isSome := by
  refine ls.foldlRecOn _ (motive := fun t : State => (t.crew? v j).isSome = (s.crew? v j).isSome) rfl fun t ht l _ => ?_
  split
  · exact ht
  · exact (crew?_markFetch_isSome ..).trans ht

/-! ### What a bundle reads -/

section
variable {s : State} {b : Block} {c : Crew} {u ci : Nat} {ls : List Nat}

theorem crew?_of_block (hb : s.block? u = some b) (hc : b.crew? ci = some c) : s.crew? u ci = some c := by
  rw [State.crew?, hb]; exact hc

theorem readIssue_of_ok {i : Instr} {n : Nat} (hb : s.block? u = some b) (hc : b.crew? ci = some c)
    (h : s.bundleInstr b c ls = .ok i n) : s.readIssue u ci ls = ⟨u, ci, ls, some i, 0⟩ := by
  simp [State.readIssue, crew?_of_block hb hc, hb, h]

theorem readIssue_of_ill {e : DecodeErr} (hb : s.block? u = some b) (hc : b.crew? ci = some c)
    (h : s.bundleInstr b c ls = .ill e) : s.readIssue u ci ls = ⟨u, ci, ls, none, e.detail⟩ := by
  simp [State.readIssue, crew?_of_block hb hc, hb, h]

theorem bundleInstr_of_fetch {h : Thread} {ps : List Word} (hh : c.threads[ls.headD 0]? = some h)
    (hp : s.ibFetch b.core b.ctx h.pc.toNat h.stale = some ps) :
    s.bundleInstr b c ls = decode ⟨b.sheet.gregs, b.sheet.kregs, b.sheet.qregs⟩ ps := by
  simp only [State.bundleInstr, hh, hp]

end

/-! ### The order of a step -/

section
variable {s s1 : State}

theorem step_of_second {q : Issue} (h : s.second = some q) : step s = issueBundle { s with second := none } q := by
  rw [step, h]

theorem step_of_prompt {e : Nat × Instr} (h : s.second = none) (he : s.duePrompt = some e) :
    step s = exec e.2 (s.takeEvent e) := by
  rw [step, h, he]

/-- The step comes to the slices: nothing of the pick before is left, no event comes, the regroup is made (log entry 7). -/
structure CoreTurn (s s1 : State) : Prop where
  second : s.second = none
  prompt : s.duePrompt = none
  posted : s.nextPosted = none
  move : s.nextMove = (none, s1)
  regroup : s1.regroupDue = false

theorem step_of_again {a : Nat × Issue × Instr} (h : CoreTurn s s1) (ha : s1.againNow = some a) :
    step s = issueAgain s1 a.1 a.2.1 a.2.2 := by
  simp [step, step.stepPosted, step.stepInside, h.second, h.prompt, h.posted, h.move, h.regroup, ha]

theorem step_of_pick {p : Pickable} (h : CoreTurn s s1) (ha : s1.againNow = none) (hp : s1.nextPick = some p) :
    step s = issuePick s1 p := by
  simp [step, step.stepPosted, step.stepInside, h.second, h.prompt, h.posted, h.move, h.regroup, ha, hp]

end

/-! ### The issue of a picked crew -/

section
variable {s : State} {p : Pickable} {b : Block} {c : Crew} {l m : List Nat} {rest : List (List Nat)} {q r : Issue}

/-- A pick of one bundle: it issues, whether it has an instruction or not. -/
theorem issuePick_one (hl : sortBy (fun ls : List Nat => ls.headD 32) p.ready = [l]) (hb : (s.recordPick p).block? p.uid = some b)
    (hc : b.crew? p.ci = some c) (hq : (s.recordPick p).readIssue p.uid p.ci l = q) (hu : q.uid = p.uid) (hi : q.crew = p.ci) :
    issuePick s p = endIssue p.uid p.ci
      (q.run { (s.recordPick p).markPicked p.uid p.ci [l] with second := none, issue := some q }) := by
  have hw : (((s.recordPick p).markPicked p.uid p.ci [l]).crew? q.uid q.crew).isSome = true := by
    simp [hu, hi, crew?_of_block hb hc]
  have hp : issuePick s p = issueBundle { (s.recordPick p).markPicked p.uid p.ci [l] with second := none } q := by
    simp only [issuePick, State.pickedIssues, hl, List.map_cons, List.map_nil, List.head?_nil, hq]
  rw [hp, issueBundle_of_crew (by exact hw), hu, hi]

/-- A pick of two bundles: the first issues, the second waits with the instruction that it has read. -/
theorem issuePick_two (hl : sortBy (fun ls : List Nat => ls.headD 32) p.ready = l :: m :: rest)
    (hb : (s.recordPick p).block? p.uid = some b) (hc : b.crew? p.ci = some c) (hq : (s.recordPick p).readIssue p.uid p.ci l = q)
    (hr : (s.recordPick p).readIssue p.uid p.ci m = r) (hu : q.uid = p.uid) (hi : q.crew = p.ci) :
    issuePick s p = endIssue p.uid p.ci
      (q.run { (s.recordPick p).markPicked p.uid p.ci (l :: m :: rest) with second := some r, issue := some q }) := by
  have hw : (((s.recordPick p).markPicked p.uid p.ci (l :: m :: rest)).crew? q.uid q.crew).isSome = true := by
    simp [hu, hi, crew?_of_block hb hc]
  have hp : issuePick s p =
      issueBundle { (s.recordPick p).markPicked p.uid p.ci (l :: m :: rest) with second := some r } q := by
    simp only [issuePick, State.pickedIssues, hl, List.map_cons, List.head?_cons, hq, hr]
  rw [hp, issueBundle_of_crew (by exact hw), hu, hi]

end

/-- Settles O58: each clause is one branch of the order of a step. -/
theorem stepRunsDecoded : Obligations.StepRunsDecoded := by
  unfold Obligations.StepRunsDecoded
  refine ⟨fun s q hs hc => ?_, ?_, ?_, fun s b c ls h ps => bundleInstr_of_fetch, fun s e => step_of_prompt, ?_⟩
  · have hstep := (step_of_second hs).trans (issueBundle_of_crew hc)
    exact ⟨fun i hi => by rw [hstep, Issue.run, hi]; rfl, fun hi => by rw [hstep, Issue.run, hi]; rfl⟩
  · intro s s1 p ls b c hs hd hp hm hg ha hk hl hb hc
    have hstep := step_of_pick ⟨hs, hd, hp, hm, hg⟩ ha hk
    exact ⟨fun i n hi => hstep.trans (issuePick_one hl hb hc (readIssue_of_ok hb hc hi) rfl rfl),
      fun e he => hstep.trans (issuePick_one hl hb hc (readIssue_of_ill hb hc he) rfl rfl)⟩
  · intro s s1 p l m rest b c i j n k hs hd hp hm hg ha hk hl hb hc hi hj
    have hstep := step_of_pick ⟨hs, hd, hp, hm, hg⟩ ha hk
    exact hstep.trans (issuePick_two hl hb hc (readIssue_of_ok hb hc hi) (readIssue_of_ok hb hc hj) rfl rfl)
  · intro s s1 k i j hs hd hp hm hg ha
    rw [step_of_again ⟨hs, hd, hp, hm, hg⟩ ha, issueAgain]
    cases exec j { s1 with issue := some i, turn := max s1.turn (k + 1) } <;> rfl

end Sys2Proof.Machine

/-! The family of R82 to R100: what the instructions of the thread class write. One that nothing stops is its effect in each active lane
(`writes_of_regBody`), so that each clause rests on one equation of the effect. -/

namespace Sys2Proof.Machine
open Sys2Proof

/-! ### From an effect to an instruction -/

section
variable {op : Nat} {reads : List ReadAs} {f : Ctx → Nat → Except LaneFault Eff} {e : Ctx → Nat → Eff}

theorem writes_of_regBody {fn : Option Nat} {i : Fields → Instr}
    (hi : ∀ w s, exec (i w) s = runLong op fn w s reads (regBody f)) (hf : ∀ x l, f x l = .ok (e x l)) : Writes op fn reads i e :=
  fun w s x h => by rw [hi, runLong_issues h, close_regBody x f (e x) (hf x)]

/-- An instruction whose body is the effect itself, without a fault. -/
theorem writes_of_exec {fn : Option Nat} {i : Fields → Instr}
    (hi : ∀ w s, exec (i w) s = runLong op fn w s reads (regBody fun x l => .ok (e x l))) : Writes op fn reads i e :=
  writes_of_regBody hi fun _ _ => rfl

theorem writesShort_of_regBody {i : ShortFields → Instr}
    (hi : ∀ w s, exec (i w) s = runShort op w s reads (regBody f)) (hf : ∀ x l, f x l = .ok (e x l)) : WritesShort op reads i e :=
  fun w s x h => by rw [hi, runShort_issues h, close_regBody x f (e x) (hf x)]

end

/-! ### Integers (R86 to R91) -/

theorem arithEff_eq (f : Int → Int → Int → Int) (x : Ctx) (l : Nat) : arithEff f x l = .ok (x.elementwise f l) := rfl

theorem minFn_eq : minFn = fun a b _ => min a b := by
  funext a b c; exact (Int.min_def a b).symm

theorem maxFn_eq : maxFn = fun a b _ => max a b := by
  funext a b c; exact (Int.max_def a b).symm

/-- Settles O1: each is the element-wise effect of its function, in the long and in the short form. -/
theorem integerArithmetic : Obligations.IntegerArithmetic := by
  have long {op fn reads i} (f) (hi : ∀ w s, exec (i w) s = runLong op fn w s reads (regBody (arithEff f))) :
      Writes op fn reads i fun x => x.elementwise f := writes_of_regBody hi (arithEff_eq f)
  have short {op reads i} (f) (hi : ∀ w s, exec (i w) s = runShort op w s reads (regBody (arithEff f))) :
      WritesShort op reads i fun x => x.elementwise f := writesShort_of_regBody hi (arithEff_eq f)
  exact ⟨long addFn fun _ _ => rfl, long subFn fun _ _ => rfl, long mulFn fun _ _ => rfl, writes_of_exec fun _ _ => rfl,
    long madFn fun _ _ => rfl, minFn_eq ▸ long minFn fun _ _ => rfl, maxFn_eq ▸ long maxFn fun _ _ => rfl,
    long (fun a _ _ => a.natAbs) fun _ _ => rfl, long (fun a _ _ => -a) fun _ _ => rfl,
    short addFn fun _ _ => rfl, short subFn fun _ _ => rfl, short mulFn fun _ _ => rfl, minFn_eq ▸ short minFn fun _ _ => rfl⟩

theorem wrapInt_natCast (v n : Nat) : wrapInt (v : Int) n = v % 2 ^ n := by
  rw [wrapInt]; exact_mod_cast Int.toNat_natCast _

theorem wrapInt_zero (n : Nat) : wrapInt 0 n = 0 := by simp [wrapInt]

theorem divEff_quotient (x : Ctx) (l : Nat) : divEff false x l = .ok (
    if x.int l x.w.b = 0 then { x.result x.width 0 with flags := fDZ }
    else x.result x.width (wrapInt ((x.int l x.w.a).tdiv (x.int l x.w.b)) (elemWidth (x.mod % 8)))) := by
  change Except.ok ({ x.result x.width (wrapInt (divElem (x.int l x.w.a) (x.int l x.w.b)).1 _) with
    flags := (divElem (x.int l x.w.a) (x.int l x.w.b)).2.2 } : Eff) = _
  by_cases hb : x.int l x.w.b = 0
  · simp [divElem, hb, wrapInt_zero]
  · simp only [divElem, if_neg hb]; rfl

theorem divEff_remainder (x : Ctx) (l : Nat) : divEff true x l = .ok (
    if x.int l x.w.b = 0 then { x.result x.width (wrapInt (x.int l x.w.a) (elemWidth (x.mod % 8))) with flags := fDZ }
    else x.result x.width
      (wrapInt (x.int l x.w.a - (x.int l x.w.a).tdiv (x.int l x.w.b) * x.int l x.w.b) (elemWidth (x.mod % 8)))) := by
  change Except.ok ({ x.result x.width (wrapInt (divElem (x.int l x.w.a) (x.int l x.w.b)).2.1 _) with
    flags := (divElem (x.int l x.w.a) (x.int l x.w.b)).2.2 } : Eff) = _
  by_cases hb : x.int l x.w.b = 0
  · simp [divElem, hb]
  · simp only [divElem, if_neg hb, Int.tmod_def, Int.mul_comm (x.int l x.w.b)]; rfl

theorem carryEff_add (x : Ctx) (l : Nat) : carryEff false x l = .ok (
    let n := if x.fn = 1 then 64 else 32
    let sum := x.a l n + x.bv l n + ofBool ((x.t l).pred (x.mod % 8))
    { x.result n (sum % 2 ^ n) with preds := [(x.mod % 8, decide (2 ^ n ≤ sum))] }) := by
  dsimp only
  rw [← wrapInt_natCast]
  simp only [carryEff, Ctx.out, Ctx.result, Ctx.a, Ctx.bv, Ctx.rd]
  push_cast
  norm_cast

theorem condHolds_eq (fn : Nat) (a b : Int) : condHolds fn (decide (a < b)) (decide (a = b)) = (match fn with
    | 0 => decide (a = b)
    | 1 => decide (a ≠ b)
    | 2 => decide (a < b)
    | 3 => decide (a ≤ b)
    | 4 => decide (a > b)
    | _ => decide (a ≥ b)) := by
  rw [Bool.eq_iff_iff]
  unfold condHolds
  split <;> simp <;> omega

theorem icmp_writes : Writes 0x0C none readsAB .icmp fun x l =>
    let a := elemInt x.mod (x.ty l x.w.a x.mod)
    let b := elemInt x.mod (x.ty l x.w.b x.mod)
    { preds := [(x.w.d.toNat, match x.fn with
        | 0 => decide (a = b)
        | 1 => decide (a ≠ b)
        | 2 => decide (a < b)
        | 3 => decide (a ≤ b)
        | 4 => decide (a > b)
        | _ => decide (a ≥ b))] } :=
  writes_of_exec fun w s => by simp only [← condHolds_eq]; rfl

/-- Settles O2: `divEff` and `carryEff` are the effects of R88 and R89, `condHolds` the comparison of R90. -/
theorem divisionCarryCompareSelect : Obligations.DivisionCarryCompareSelect :=
  ⟨writes_of_regBody (f := divEff false) (fun _ _ => rfl) divEff_quotient,
   writes_of_regBody (f := divEff true) (fun _ _ => rfl) divEff_remainder,
   writes_of_regBody (f := carryEff false) (fun _ _ => rfl) carryEff_add,
   writes_of_regBody (f := carryEff true) (fun _ _ => rfl) fun _ _ => rfl,
   icmp_writes, writes_of_exec fun _ _ => rfl⟩

/-! ### Logic, shifts, fields, counts and addresses (R92 to R98) -/

/-- Settles O3: `logicEff` and `shiftEff` of each function, by definition. -/
theorem logicAndShifts : Obligations.LogicAndShifts := by
  have logic {op fn i} (f) (hi : ∀ w s, exec (i w) s = runLong op fn w s readsAB (regBody (logicEff f))) :
      Writes op fn readsAB i fun x l => x.result x.wide (f x.wide (x.a l x.wide) (x.bv l x.wide)) :=
    writes_of_regBody hi fun _ _ => rfl
  have shift {op fn i} (f) (hi : ∀ w s, exec (i w) s = runLong op fn w s readsAB (regBody (shiftEff f))) :
      Writes op fn readsAB i fun x l => x.result x.wide (f x.wide (x.a l x.wide) (x.bv l 32 % x.wide)) :=
    writes_of_regBody hi fun _ _ => rfl
  exact ⟨logic andFn fun _ _ => rfl, logic (fun _ a b => a ||| b) fun _ _ => rfl, logic (fun _ a b => a ^^^ b) fun _ _ => rfl,
    logic (fun n a b => a &&& notBits n b) fun _ _ => rfl, logic (fun n a b => a ||| notBits n b) fun _ _ => rfl,
    shift shlFn fun _ _ => rfl, shift (fun _ a s => a / 2 ^ s) fun _ _ => rfl,
    shift (fun n a s => wrapInt (sext a n / 2 ^ s) n) fun _ _ => rfl,
    shift (fun n a s => (a * 2 ^ s + a / 2 ^ (n - s)) % 2 ^ n) fun _ _ => rfl,
    writesShort_of_regBody (f := logicEff andFn) (fun _ _ => rfl) fun _ _ => rfl,
    writesShort_of_regBody (f := shiftEff shlFn) (fun _ _ => rfl) fun _ _ => rfl⟩

theorem bitsOf_low_byte (b : Nat) : bitsOf b 0 8 = b % 256 := by simp [bitsOf]

theorem bitsOf_second_byte (b : Nat) : bitsOf b 8 8 = b / 256 % 256 := rfl

theorem extractField_unsigned (a b : Nat) : extractField false a b =
    let o := b % 256
    let k := b / 256 % 256
    if k = 0 ∨ 32 ≤ o then 0 else a / 2 ^ o % 2 ^ (min (o + k) 32 - o) := by
  simp only [extractField, bitsOf_low_byte, bitsOf_second_byte]
  by_cases hk : b / 256 % 256 = 0
  · simp [hk]
  · by_cases ho : 32 ≤ b % 256
    · simp [hk, ho]
    · simp [hk, ho, bitsOf]

/-- A number read as two's complement counts only its low bits (R18). -/
theorem sext_mod (v n : Nat) : sext (v % 2 ^ n) n = sext v n := by simp only [sext, Nat.mod_mod]

theorem extractField_signed (a b : Nat) : extractField true a b =
    let o := b % 256
    let k := b / 256 % 256
    if k = 0 then 0 else if 32 ≤ o then (if a.testBit 31 then 0xFFFFFFFF else 0)
    else wrapInt (sext (a / 2 ^ o) (min (o + k) 32 - o)) 32 := by
  simp only [extractField, bitsOf_low_byte, bitsOf_second_byte, Bool.true_and, if_true]
  rw [bitsOf, sext_mod]; rfl

theorem insertField_eq (r f c : Nat) : insertField r f c =
    let o := c % 256
    let k := c / 256 % 256
    if k = 0 ∨ 32 ≤ o then r else setBits r o (min (o + k) 32 - o) f := by
  simp only [insertField, bitsOf_low_byte, bitsOf_second_byte]
  by_cases h : c / 256 % 256 = 0 ∨ 32 ≤ c % 256
  · rw [if_pos h, if_neg (by omega)]
  · rw [if_neg h, if_pos (by omega)]

theorem countEff_eq (f : Nat → Nat → Nat) (x : Ctx) (l : Nat) : countEff f x l = .ok (x.counted l f) := by
  simp only [countEff, unpackElems, List.map_map]; rfl

/-- Settles O4: the field, count, permute and address functions as R94 to R98 write them. -/
theorem fieldsCountsAddresses : Obligations.FieldsCountsAddresses := by
  have count {fn i} (f) (hi : ∀ w s, exec (i w) s = runLong 0x12 fn w s readsA (regBody (countEff f))) :
      Writes 0x12 fn readsA i fun x l => x.counted l f := writes_of_regBody hi (countEff_eq f)
  exact ⟨writes_of_exec fun _ _ => by simp only [← extractField_unsigned]; rfl,
    writes_of_exec fun _ _ => by simp only [← extractField_signed]; rfl,
    writes_of_exec fun _ _ => by simp only [← insertField_eq]; rfl,
    count clzOf fun _ _ => rfl, count ffsOf fun _ _ => rfl, count (fun n x => popcount x n) fun _ _ => rfl,
    count brevOf fun _ _ => rfl, writes_of_exec fun _ _ => rfl,
    writes_of_regBody (f := leaEff) (fun _ _ => rfl) fun _ _ => rfl⟩

/-! ### Moves, predicates and special registers (R81, R82, R99, R100) -/

/-- Settles O5: each instruction's effect is the one stated, by definition. -/
theorem movesPredicatesSpecials : Obligations.MovesPredicatesSpecials := by
  have pred {fn i} (f) (hi : ∀ w s, exec (i w) s = runLong 0x18 fn w s [] (regBody (predEff f))) :
      Writes 0x18 fn [] i fun x l => { preds := [(x.w.d.toNat, f (x.predA l) (x.predB l))] } :=
    writes_of_regBody hi fun _ _ => rfl
  exact ⟨writes_of_regBody (f := movEff) (fun _ _ => rfl) fun _ _ => rfl,
    writesShort_of_regBody (f := movEff) (fun _ _ => rfl) fun _ _ => rfl, writes_of_exec fun _ _ => rfl,
    pred (fun a b => a && b) fun _ _ => rfl, pred (fun a b => a || b) fun _ _ => rfl, pred (fun a b => a != b) fun _ _ => rfl,
    pred (fun a _ => !a) fun _ _ => rfl, pred (fun a _ => a) fun _ _ => rfl,
    writes_of_regBody (f := getEff) (fun _ _ => rfl) fun _ _ => rfl, writes_of_regBody (f := getEff) (fun _ _ => rfl) fun _ _ => rfl⟩

end Sys2Proof.Machine

/-! What an instruction leaves as it was when every lane stays in its bundle: its end is one update of its crew (`ends_of_stays`), so
that the frame of an instruction is the frame of that update. -/

namespace Sys2Proof.Machine
open Sys2Proof

/-! ### Updates of one crew -/

theorem updAt_updAt {α : Type} (f g : α → α) (xs : List α) (i : Nat) : updAt (updAt xs i f) i g = updAt xs i fun x => g (f x) := by
  induction xs generalizing i with
  | nil => rfl
  | cons x r ih => cases i with
    | zero => rfl
    | succ i => simp only [updAt, ih]

theorem mapWhere_mapWhere {α : Type} (p : α → Bool) (f g : α → α) (xs : List α) (h : ∀ x, p (f x) = p x) :
    mapWhere p g (mapWhere p f xs) = mapWhere p (fun x => g (f x)) xs := by
  simp only [mapWhere, List.map_map]
  refine List.map_congr_left fun x _ => ?_
  by_cases hp : p x = true <;> simp [hp, h]

theorem updCrew_updCrew (s : State) (u i : Nat) (f g : Crew → Crew) :
    (s.updCrew u i f).updCrew u i g = s.updCrew u i fun c => g (f c) := by
  have hb : ∀ b : Block, (b.updCrew i f).updCrew i g = b.updCrew i fun c => g (f c) := fun b => by
    simp only [Block.updCrew, updAt_updAt]
  have hbs := mapWhere_mapWhere (fun b => b.uid == u) (·.updCrew i f) (·.updCrew i g) s.blocks fun _ => rfl
  simp only [hb] at hbs
  rw [State.updCrew, State.updCrew, State.updCrew, State.updBlock, State.updBlock, State.updBlock, hbs]

/-- A state in which one crew has changed, with marks on its registers alone, has changed nothing else. -/
theorem onlyCrew_of_updCrew (s : State) (u i : Nat) (f : Crew → Crew) (keep : Nat × Nat × Nat × Nat → Bool)
    (hk : ∀ r, ¬(r.1 = u ∧ r.2.1 = i) → keep r = true) :
    OnlyCrew s { s.updCrew u i f with issue := none, badRegs := s.badRegs.filter keep } u i := by
  have hblock : ∀ v, (s.updCrew u i f).block? v = if v = u then (s.block? v).map (·.updCrew i f) else s.block? v := fun v =>
    updBlock_block? s u v _ fun _ => rfl
  refine ⟨rfl, fun r hr => (List.mem_filter.mp hr).1, fun r hr hn => List.mem_filter.mpr ⟨hr, hk r hn⟩,
    fun v hv => (hblock v).trans (if_neg hv), fun b hb => ⟨b.updCrew i f, ?_, rfl, fun j hj => ?_⟩⟩
  · exact (hblock u).trans (by rw [if_pos rfl, hb]; rfl)
  · exact (updAt_getElem? _ _ _ _).trans (if_neg hj)

/-! ### The end of an instruction in which no lane faults or exits -/

/-- Whether a lane stays with its crew: it neither faults nor exits. -/
def LaneRes.stays : LaneRes → Bool
  | .fault _ => false
  | .exit => false
  | _ => true

/-- The result of a lane among those that a body gives: next where it gives none. -/
def resultOf (rs : List (Nat × LaneRes)) (l : Nat) : LaneRes := match rs.find? fun r => r.1 == l with | some r => r.2 | none => .next

theorem resultOf_stays {rs : List (Nat × LaneRes)} (h : ∀ r ∈ rs, r.2.stays = true) (l : Nat) : (resultOf rs l).stays = true := by
  unfold resultOf
  split
  next r hr => exact h r (List.mem_of_find?_eq_some hr)
  next => rfl

/-- The crew at the end of an instruction in which every lane stays (R62, R78, R106, R108, R111). -/
def Ctx.endCrew (x : Ctx) (rs : List (Nat × LaneRes)) (staleAt : Nat → Option Nat) (c : Crew) : Crew :=
  (x.hints (x.bundle.foldl (fun c l => c.updThread l fun t =>
    t.finish (resultOf rs l) x.instr (frozenK x.c.k x.clk) x.len x.w.stall.toNat x.clk staleAt) c)).followBundle x.bundle

/-- Whether an instruction writes a marked register anew (R393). -/
def Ctx.rewrites (x : Ctx) (r : Nat × Nat × Nat × Nat) : Bool :=
  r.1 == x.uid && r.2.1 == x.ci && (fieldUnits x.op x.w fun c => !c.isSrc).contains r.2.2.2 && (r.2.2.1 == 32 || x.act.contains r.2.2.1)

theorem ends_of_stays (x : Ctx) (s : State) {rs : List (Nat × LaneRes)} (h : ∀ r ∈ rs, r.2.stays = true) :
    x.ends s rs = { s.updCrew x.uid x.ci (x.endCrew rs s.staleAt) with
      issue := none, badRegs := s.badRegs.filter fun r => !x.rewrites r } := by
  unfold Ctx.ends finishIssue
  extract_lets +onlyGivenNames res faults exits
  have hres : ∀ l, (res l).stays = true := resultOf_stays h
  have hfaults : faults = [] := List.filterMap_eq_nil_iff.mpr fun l _ => by
    have hl := hres l
    split
    next f hf => rw [hf] at hl; cases hl
    next => rfl
  have hexits : exits = [] := List.filter_eq_nil_iff.mpr fun l _ => by
    have hl := hres l
    split
    next hf => rw [hf] at hl; cases hl
    next => exact Bool.false_ne_true
  clear_value faults exits
  subst hfaults hexits
  simp only [List.any_nil, Bool.not_false, Bool.and_true]
  rfl

/-! ### The frame of a crew

What a crew keeps when an instruction changes registers of its threads: `CrewFrame R` for a relation `R` of what each lane's thread keeps. -/

/-- What a program reads of a thread's own registers is as it was. -/
def RegsSame (h h' : Thread) : Prop := ThreadKeeps h h' ∧ h'.g = h.g ∧ h'.o = h.o ∧ h'.p = h.p ∧ h'.rand = h.rand

theorem RegsSame.refl (h : Thread) : RegsSame h h := ⟨⟨rfl, rfl, rfl, rfl, rfl, rfl, rfl, rfl, rfl, rfl, rfl⟩, rfl, rfl, rfl, rfl⟩

/-- The end of an instruction moves a lane on and leaves its registers as they are. -/
theorem finish_regsSame (t : Thread) (r : LaneRes) (i : Option Instr) (ks : List KCell) (len stall clk : Nat)
    (staleAt : Nat → Option Nat) : RegsSame t (t.finish r i ks len stall clk staleAt) := by
  cases r <;> exact RegsSame.refl t

theorem CrewKeeps.refl (c : Crew) : CrewKeeps c c := ⟨rfl, rfl, rfl, rfl, rfl, rfl, rfl, rfl, rfl⟩

theorem CrewKeeps.trans {a b c : Crew} (h : CrewKeeps a b) (k : CrewKeeps b c) : CrewKeeps a c := by
  obtain ⟨h1, h2, h3, h4, h5, h6, h7, h8, h9⟩ := h
  obtain ⟨k1, k2, k3, k4, k5, k6, k7, k8, k9⟩ := k
  exact ⟨k1.trans h1, k2.trans h2, k3.trans h3, k4.trans h4, k5.trans h5, k6.trans h6, k7.trans h7, k8.trans h8, k9.trans h9⟩

theorem ThreadKeeps.trans {a b c : Thread} (h : ThreadKeeps a b) (k : ThreadKeeps b c) : ThreadKeeps a c := by
  obtain ⟨h1, h2, h3, h4, h5, h6, h7, h8, h9, h10, h11⟩ := h
  obtain ⟨k1, k2, k3, k4, k5, k6, k7, k8, k9, k10, k11⟩ := k
  exact ⟨k1.trans h1, k2.trans h2, k3.trans h3, k4.trans h4, k5.trans h5, k6.trans h6, k7.trans h7, k8.trans h8, k9.trans h9,
    k10.trans h10, k11.trans h11⟩

/-- A crew keeps its own registers, flags and places, and each of its threads what `R` says of its lane. -/
def CrewFrame (R : Nat → Thread → Thread → Prop) (c c' : Crew) : Prop :=
  CrewKeeps c c' ∧ c'.fstat = c.fstat ∧ c'.k = c.k ∧
    ∀ l h, c.threads[l]? = some h → ∃ h', c'.threads[l]? = some h' ∧ R l h h'

section
variable {R : Nat → Thread → Thread → Prop}

theorem CrewFrame.refl (hR : ∀ l h, R l h h) (c : Crew) : CrewFrame R c c := ⟨.refl c, rfl, rfl, fun l h hl => ⟨h, hl, hR l h⟩⟩

theorem CrewFrame.trans (hR : ∀ l a b c, R l a b → R l b c → R l a c) {a b c : Crew} (h : CrewFrame R a b) (k : CrewFrame R b c) :
    CrewFrame R a c := by
  obtain ⟨hc, hf, hk, ht⟩ := h
  obtain ⟨kc, kf, kk, kt⟩ := k
  refine ⟨hc.trans kc, kf.trans hf, kk.trans hk, fun l t hl => ?_⟩
  obtain ⟨u, hu, hru⟩ := ht l t hl
  obtain ⟨v, hv, hrv⟩ := kt l u hu
  exact ⟨v, hv, hR l t u v hru hrv⟩

/-- A thread changed within what its lane may change. -/
theorem CrewFrame.updThread (hR : ∀ l h, R l h h) (c : Crew) (i : Nat) (f : Thread → Thread) (hf : ∀ h, R i h (f h)) :
    CrewFrame R c (c.updThread i f) := by
  refine ⟨⟨rfl, rfl, rfl, rfl, rfl, rfl, rfl, rfl, updAt_length _ _ _⟩, rfl, rfl, fun l h hl => ?_⟩
  have hget : (c.updThread i f).threads[l]? = if l = i then some (f h) else some h := by
    rw [Crew.updThread, updAt_getElem?, hl]; rfl
  by_cases hli : l = i
  · exact ⟨f h, hget.trans (if_pos hli), hli ▸ hf h⟩
  · exact ⟨h, hget.trans (if_neg hli), hR l h⟩

theorem CrewFrame.foldl (hR : ∀ l h, R l h h) (hT : ∀ l a b c, R l a b → R l b c → R l a c) (f : Crew → Nat → Crew) (ls : List Nat)
    (hf : ∀ c, ∀ l ∈ ls, CrewFrame R c (f c l)) (c : Crew) : CrewFrame R c (ls.foldl f c) :=
  ls.foldlRecOn f (motive := CrewFrame R c) (.refl hR c) fun d hd l hl => hd.trans hT (hf d l hl)

theorem CrewFrame.inCycle (hR : ∀ l h, R l h h) (c : Crew) (clk : Nat) : CrewFrame R c (c.inCycle clk) := by
  unfold Crew.inCycle
  split
  · exact .refl hR c
  · exact .refl hR c

theorem CrewFrame.hints (hR : ∀ l h, R l h h) (x : Ctx) (c : Crew) : CrewFrame R c (x.hints c) := by
  unfold Ctx.hints
  split
  · exact .refl hR c
  · exact .refl hR c

/-- The end of an instruction keeps the crew where `R` lets a lane move on. -/
theorem CrewFrame.endCrew (hR : ∀ l h, R l h h) (hT : ∀ l a b c, R l a b → R l b c → R l a c)
    (hS : ∀ l h h', RegsSame h h' → R l h h') (x : Ctx) (rs : List (Nat × LaneRes)) (staleAt : Nat → Option Nat) (c : Crew) :
    CrewFrame R c (x.endCrew rs staleAt c) := by
  have hlanes := CrewFrame.foldl hR hT (fun c l => c.updThread l fun t =>
    t.finish (resultOf rs l) x.instr (frozenK x.c.k x.clk) x.len x.w.stall.toNat x.clk staleAt) x.bundle
    (fun c l _ => .updThread hR c l _ fun h => hS l _ _ (finish_regsSame ..)) c
  exact hlanes.trans hT (.hints hR x _)

end

end Sys2Proof.Machine

/-! What an instruction that changes registers alone makes of its crew, and the frame of one that writes a predicate (R85, R90, R100,
R125, R134). -/

namespace Sys2Proof.Machine
open Sys2Proof

section
variable {s : State} {op len : Nat} {w : Fields} {x : Ctx}

theorem issueCtx_s0 (h : s.issueCtx op len w = some x) :
    x.s0 = s.updCrew x.uid x.ci fun c => c.inCycle x.clk := by
  unfold State.issueCtx at h
  split at h
  · cases h
  · split at h
    · cases h
    · split at h
      · cases h
      · cases h; rfl

/-- The crew after a register instruction: the effect of each active lane, then the end of the instruction. -/
def Ctx.writesCrew (x : Ctx) (e : Nat → Eff) (staleAt : Nat → Option Nat) (c : Crew) : Crew :=
  x.endCrew [] staleAt (x.act.foldl (fun c l => (e l).apply c x.clk l x.w) (c.inCycle x.clk))

/-- A register instruction is one update of its crew. -/
theorem writes_eq_updCrew (h : s.issueCtx op len w = some x) (e : Nat → Eff) :
    ∃ staleAt, x.writes e = { s.updCrew x.uid x.ci (x.writesCrew e staleAt) with
      issue := none, badRegs := s.badRegs.filter fun r => !x.rewrites r } := by
  rw [Ctx.writes, ends_of_stays _ _ (List.forall_mem_nil _), issueCtx_s0 h, updCrew_updCrew, updCrew_updCrew]
  exact ⟨_, rfl⟩

theorem rewrites_of_other (x : Ctx) (r : Nat × Nat × Nat × Nat) (h : ¬(r.1 = x.uid ∧ r.2.1 = x.ci)) : x.rewrites r = false := by
  by_cases hu : r.1 = x.uid <;> simp_all [Ctx.rewrites]

theorem writes_onlyCrew (h : s.issueCtx op len w = some x) (e : Nat → Eff) :
    OnlyCrew s (x.writes e) x.uid x.ci := by
  obtain ⟨_, he⟩ := writes_eq_updCrew h e
  rw [he]
  exact onlyCrew_of_updCrew s _ _ _ _ fun r hr => by rw [rewrites_of_other x r hr]; rfl

theorem writes_mem (h : s.issueCtx op len w = some x) (e : Nat → Eff) :
    (x.writes e).mem = s.mem := by
  obtain ⟨f, he⟩ := writes_eq_updCrew h e
  rw [he]; exact updCrew_mem s x.uid x.ci (x.writesCrew e f)

theorem writes_crew? (h : s.issueCtx op len w = some x) (e : Nat → Eff) {c : Crew}
    (hc : s.crew? x.uid x.ci = some c) : ∃ staleAt, (x.writes e).crew? x.uid x.ci = some (x.writesCrew e staleAt c) := by
  obtain ⟨f, he⟩ := writes_eq_updCrew h e
  refine ⟨f, ?_⟩
  rw [he]
  exact (updCrew_crew? s _ _ _ _ _).trans (by rw [if_pos ⟨rfl, rfl⟩, hc]; rfl)

end

theorem CrewFrame.writesCrew {R : Nat → Thread → Thread → Prop} (hR : ∀ l h, R l h h)
    (hT : ∀ l a b c, R l a b → R l b c → R l a c) (hS : ∀ l h h', RegsSame h h' → R l h h') (x : Ctx) (e : Nat → Eff)
    (he : ∀ c, ∀ l ∈ x.act, CrewFrame R c ((e l).apply c x.clk l x.w)) (staleAt : Nat → Option Nat) (c : Crew) :
    CrewFrame R c (x.writesCrew e staleAt c) :=
  ((CrewFrame.inCycle hR c x.clk).trans hT (.foldl hR hT _ x.act he _)).trans hT (.endCrew hR hT hS x [] staleAt _)

/-! ### The frame of an instruction that writes a predicate -/

theorem setPred_pred_ne (t : Thread) {i d : Nat} (v : Bool) (h : i ≠ d) : (t.setPred d v).pred i = t.pred i := by
  unfold Thread.setPred
  split
  · rfl
  · simp [Thread.pred, List.getD_eq_getElem?_getD, List.getElem?_set_ne (Ne.symm h)]

theorem apply_preds (d : Nat) (v : Bool) (c : Crew) (clk l : Nat) (w : Fields) :
    ({ preds := [(d, v)] } : Eff).apply c clk l w = c.updThread l fun t => t.setPred d v := rfl

/-- What a write of predicate `d` in the lanes `act` leaves of a lane's thread: every register and every other predicate, and in the
other lanes all of them. -/
def PredicateOnly (d : Nat) (act : List Nat) (l : Nat) (h h' : Thread) : Prop :=
  ThreadKeeps h h' ∧ h'.g = h.g ∧ h'.o = h.o ∧ h'.rand = h.rand ∧ (∀ i, i ≠ d → h'.pred i = h.pred i) ∧ (l ∉ act → h'.p = h.p)

section
variable {d : Nat} {act : List Nat}

theorem PredicateOnly.of_regsSame (l : Nat) (h h' : Thread) (hs : RegsSame h h') : PredicateOnly d act l h h' := by
  obtain ⟨hk, hg, ho, hp, hr⟩ := hs
  exact ⟨hk, hg, ho, hr, fun i _ => by rw [Thread.pred, Thread.pred, hp], fun _ => hp⟩

theorem PredicateOnly.refl (l : Nat) (h : Thread) : PredicateOnly d act l h h := .of_regsSame l h h (.refl h)

theorem PredicateOnly.trans (l : Nat) (a b c : Thread) (h : PredicateOnly d act l a b) (k : PredicateOnly d act l b c) :
    PredicateOnly d act l a c := by
  obtain ⟨hk, hg, ho, hr, hi, hp⟩ := h
  obtain ⟨kk, kg, ko, kr, ki, kp⟩ := k
  exact ⟨hk.trans kk, kg.trans hg, ko.trans ho, kr.trans hr, fun i n => (ki i n).trans (hi i n), fun n => (kp n).trans (hp n)⟩

theorem PredicateOnly.setPred {l : Nat} (hl : l ∈ act) (h : Thread) (v : Bool) : PredicateOnly d act l h (h.setPred d v) := by
  refine ⟨?_, ?_, ?_, ?_, fun i hi => setPred_pred_ne h v hi, fun hn => absurd hl hn⟩ <;> simp [ThreadKeeps]

end

/-- An instruction whose effect in each lane is one predicate changes that predicate in the active lanes and nothing else. -/
theorem predicateFrame_of_writes {op : Nat} {fn : Option Nat} {reads : List ReadAs} {i : Fields → Instr} {v : Ctx → Nat → Bool}
    (hi : Writes op fn reads i fun x l => { preds := [(x.w.d.toNat, v x l)] }) {w : Fields} {s t : State} {x : Ctx}
    (hx : IssuesLong op fn reads w s x) (ht : exec (i w) s = .next t) :
    OnlyCrew s t x.uid x.ci ∧ (∀ a, readByte t.mem a = readByte s.mem a) ∧ ∀ c : Crew, s.crew? x.uid x.ci = some c →
      ∃ c' : Crew, t.crew? x.uid x.ci = some c' ∧ CrewFrame (PredicateOnly x.w.d.toNat x.act) c c' := by
  obtain rfl : x.writes _ = t := Host.Outcome.next.inj ((hi w s x hx).symm.trans ht)
  refine ⟨writes_onlyCrew hx.1 _, fun a => by rw [writes_mem hx.1], fun c hc => ?_⟩
  obtain ⟨f, hf⟩ := writes_crew? hx.1 _ hc
  refine ⟨_, hf, .writesCrew PredicateOnly.refl PredicateOnly.trans PredicateOnly.of_regsSame x _ (fun c l hl => ?_) f c⟩
  rw [apply_preds]
  exact .updThread PredicateOnly.refl c l _ fun h => .setPred hl h _

theorem elect_writes : Writes 0x31 none [] .elect fun x l =>
    { preds := [(x.w.d.toNat, l == if x.fn = 0 then x.act.headD 0 else x.act.getLastD 0)] } := writes_of_exec fun _ _ => rfl

theorem fclass_writes : Writes 0x47 none readsAB .fclass fun x l =>
    { preds := [(x.w.d.toNat, bitAt (x.bv l 32) (classBit (x.a l 32)))] } := writes_of_exec fun _ _ => rfl

/-- Settles O54: each instruction's effect is one predicate. -/
theorem predicateFrame : Obligations.PredicateFrame := by
  unfold Obligations.PredicateFrame
  obtain ⟨-, -, -, hand, hor, hxor, hnot, hmov, -, -⟩ := movesPredicatesSpecials
  intro p hp w s t x hx ht
  simp only [List.mem_cons, List.not_mem_nil, or_false] at hp
  rcases hp with rfl | rfl | rfl | rfl | rfl | rfl | rfl | rfl
  · exact predicateFrame_of_writes icmp_writes hx ht
  · exact predicateFrame_of_writes hand hx ht
  · exact predicateFrame_of_writes hor hx ht
  · exact predicateFrame_of_writes hxor hx ht
  · exact predicateFrame_of_writes hnot hx ht
  · exact predicateFrame_of_writes hmov hx ht
  · exact predicateFrame_of_writes elect_writes hx ht
  · exact predicateFrame_of_writes fclass_writes hx ht

end Sys2Proof.Machine

/-! The family of R77 and of the reset rules: what reset leaves and what a thread holds at creation. -/

namespace Sys2Proof.Machine
open Sys2Proof

theorem mem_reset_ctxs {c : Context} (h : c ∈ State.reset.ctxs) : c = Context.reset := List.eq_of_mem_replicate h

theorem reset_links {p : Nat} (h : p < 36) : State.reset.links[p]? = some Link.port := by
  change (List.replicate 36 Link.port ++ _ ++ _)[p]? = _
  rw [List.append_assoc, List.getElem?_append_left (by rwa [List.length_replicate]), List.getElem?_replicate, if_pos h]

theorem reset_queue (n : Nat) : State.reset.queue n = Queue.reset := rfl

theorem reset_agent (a : Nat) : State.reset.agent a = Agent.reset := rfl

theorem scratchCanonical_directorBlock (d : Nat) : ScratchCanonical (directorBlock d) :=
  ⟨wf_nil, fun _ h => nomatch h⟩

theorem memoryCanonical_reset : MemoryCanonical State.reset := by
  refine ⟨wf_nil, fun b hb => ?_⟩
  obtain ⟨d, -, rfl⟩ := List.mem_map.mp (show b ∈ [0, 1, 2, 3].map directorBlock from hb)
  exact scratchCanonical_directorBlock d

/-- Settles O59: each object holds its reset value. -/
theorem resetState : Obligations.ResetState := by
  refine ⟨⟨List.length_replicate, fun c hc => ?_⟩, fun n => ?_, fun p hp => ⟨_, reset_links hp, rfl, rfl, rfl, rfl, rfl⟩, fun a => ?_,
    rfl, rfl, rfl, rfl, rfl, fun _ => rfl, fun g entry => ?_, memoryCanonical_reset⟩
  · rw [mem_reset_ctxs hc]
    exact ⟨rfl, rfl, rfl, rfl, rfl, rfl, rfl, rfl, rfl, rfl, rfl, rfl, rfl, rfl, rfl, rfl⟩
  · rw [reset_queue]; exact ⟨rfl, rfl, rfl, rfl⟩
  · rw [reset_agent]; exact ⟨rfl, rfl⟩
  · refine ⟨rfl, fun r hr => List.eq_of_mem_replicate hr, List.length_replicate, rfl, rfl, rfl, fun l hl => ?_, rfl, rfl, rfl⟩
    rw [List.eq_of_mem_replicate hl]; rfl

end Sys2Proof.Machine

/-! The family of R46 and R121 to R125: what the cross-lane instructions write. The one case that is not by definition is the group of
lanes of a shuffle, given by its first lane in the model and by the quotient in the statement. -/

namespace Sys2Proof.Machine
open Sys2Proof

/-! ### Shuffles (R123) -/

/-- The groups of `z` lanes: `k` lies in the one that begins at the multiple of `z` below `l`. -/
theorem mem_laneGroup_iff {z : Nat} (hz : 0 < z) (l k : Nat) : l - l % z ≤ k ∧ k < l - l % z + z ↔ l / z = k / z := by
  have hl : l - l % z = l / z * z := (Nat.div_mul_self_eq_mod_sub_self).symm
  rw [hl, ← Nat.le_div_iff_mul_le hz, ← Nat.succ_mul, ← Nat.div_lt_iff_lt_mul hz]
  omega

theorem laneGroup_pos (n : Nat) : 0 < 32 / 2 ^ min n 5 := by
  have h : 2 ^ min n 5 ≤ 2 ^ 5 := Nat.pow_le_pow_right (by decide) (Nat.min_le_right n 5)
  exact Nat.div_pos h (Nat.two_pow_pos _)

/-- The lane that a shuffle of a function code names, in groups of `z` lanes. -/
def shflSource (fn b z l : Nat) : Option Nat := match fn with
  | 0 => some (l / z * z + b % 32 % z)
  | 1 => if b % 256 ≤ l then some (l - b % 256) else none
  | 2 => some (l + b % 256)
  | _ => some (l ^^^ (b % 32 % z))

/-- Whether the lane that a shuffle names lies in the lane's group and takes part. -/
def Ctx.shflValid (x : Ctx) (z l : Nat) : Option Nat → Bool
  | some k => decide (l / z = k / z) && x.act.contains k
  | none => false

theorem shflValid_eq (x : Ctx) {z : Nat} (hz : 0 < z) (l : Nat) (src : Option Nat) : (match src with
    | some k => decide (l - l % z ≤ k) && decide (k < l - l % z + z) && x.act.contains k
    | none => false) = x.shflValid z l src := by
  cases src with
  | none => rfl
  | some k => simp only [Ctx.shflValid, ← mem_laneGroup_iff hz, Bool.decide_and]

theorem shflEff_eq (x : Ctx) (l : Nat) : shflEff x l = .ok (
    let b := x.bv l 32
    let z := 32 / 2 ^ min (b / 256 % 8) 5
    let ok := x.shflValid z l (shflSource x.fn b z l)
    let n := if x.mod.testBit 3 then 64 else 32
    { x.result n (x.a (if ok then (shflSource x.fn b z l).getD l else l) n) with preds := [(x.mod % 8, ok)] }) := by
  have hz := laneGroup_pos (x.bv l 32 / 256 % 8)
  simp only [← shflValid_eq x hz]
  simp only [shflSource, Nat.div_mul_self_eq_mod_sub_self, shflEff, bitsOf, bitAt, Nat.pow_zero, Nat.div_one]
  rfl

/-! ### Votes and matches (R121, R124) -/

theorem voteEff_eq (x : Ctx) (l : Nat) : voteEff x l = .ok (
    let yes := x.act.filter fun k => x.predA k
    match x.fn with
    | 0 => { preds := [(x.w.d.toNat, laneMask yes == laneMask x.act)] }
    | 1 => { preds := [(x.w.d.toNat, laneMask yes != 0)] }
    | 2 => { preds := [(x.w.d.toNat, laneMask yes == 0 || laneMask yes == laneMask x.act)] }
    | 3 => x.result 32 (laneMask yes)
    | _ => x.result 32 (popcount (laneMask yes) 32)) := by
  unfold voteEff
  rcases x.fn with _ | _ | _ | _ | _ <;> rfl

theorem matchEff_eq (x : Ctx) (l : Nat) : matchEff x l = .ok (
    let n := typeWidth (x.mod % 2)
    let same := x.act.filter fun k => x.a k n == x.a l n
    x.result 32 (if x.fn = 0 then laneMask same else if same = x.act then laneMask x.act else 0)) := by
  unfold matchEff
  dsimp only
  by_cases hf : x.fn = 0
  · rw [if_pos hf, if_pos hf]; rfl
  · simp only [if_neg hf, List.filter_eq_self, List.all_eq_true]; rfl

/-- Settles O6: the effect of each instruction; that of an election is the one of `elect_writes`. -/
theorem crossLane : Obligations.CrossLane := by
  refine ⟨writes_of_regBody (f := voteEff) (fun _ _ => rfl) voteEff_eq, writes_of_regBody (f := shflEff) (fun _ _ => rfl) shflEff_eq,
    writes_of_regBody (f := reduxEff) (fun _ _ => rfl) fun _ _ => rfl,
    writes_of_regBody (f := scanxEff) (fun _ _ => rfl) fun _ _ => rfl,
    writes_of_regBody (f := matchEff) (fun _ _ => rfl) matchEff_eq, ?_⟩
  simpa only [apply_ite (BEq.beq _)] using elect_writes

end Sys2Proof.Machine

/-! The family of R109 and R114 to R119: where the lanes go at a branch, a rejoin mask, `brk`, `exit` and `yield`. One that nothing stops
ends as its body does (`ends_of_body`). -/

namespace Sys2Proof.Machine
open Sys2Proof

section
variable {op : Nat} {reads : List ReadAs} {ok : Ctx → Prop} {t : Ctx → State × List (Nat × LaneRes)} {body : Ctx → BodyRes}

theorem ends_of_body {fn : Option Nat} {i : Fields → Instr} (hi : ∀ w s, exec (i w) s = runLong op fn w s reads body)
    (hb : ∀ x, ok x → body x = .done (t x).1 (t x).2) : Ends op fn reads i ok t :=
  fun w s x h hx => by rw [hi, runLong_issues h, hb x hx]; rfl

theorem endsShort_of_body {i : ShortFields → Instr} (hi : ∀ w s, exec (i w) s = runShort op w s reads body)
    (hb : ∀ x, ok x → body x = .done (t x).1 (t x).2) : EndsShort op reads i ok t :=
  fun w s x h hx => by rw [hi, runShort_issues h, hb x hx]; rfl

end

/-! ### Branches (R114) -/

theorem branchTo_aligned {a : Nat} (h : a % 4 = 0) : branchTo a = .jump a := if_pos h

/-- The active lanes that all branch to aligned targets. -/
theorem branches_aligned {x : Ctx} {target : Nat → Nat} (h : ∀ l ∈ x.act, target l % 4 = 0) :
    x.act.map (fun l => (l, branchTo (target l))) = x.act.map fun l => (l, .jump (target l)) :=
  List.map_congr_left fun l hl => by rw [branchTo_aligned (h l hl)]

theorem moveBody_branch {x : Ctx} {target : Ctx → Nat → Nat} (h : ∀ l ∈ x.act, target x l % 4 = 0) :
    moveBody (fun x l => branchTo (target x l)) x = .done x.s0 (x.act.map fun l => (l, .jump (target x l))) := by
  rw [moveBody, branches_aligned h]

/-! ### Rejoin masks (R116 to R119) -/

theorem crewBody_of_active {x : Ctx} (f : Ctx → Crew → Crew) (h : x.act ≠ []) :
    crewBody f x = .done (x.s0.updCrew x.uid x.ci (f x)) [] := by
  rw [crewBody, if_neg (by simpa using h)]

/-- `brk` where no target is misaligned: every active lane leaves the masks (R119). -/
theorem brk_ends : Ends 0x29 none readsA .brk (fun x => x.act ≠ [] ∧ ∀ l ∈ x.act, x.relTarget l % 4 = 0)
    (fun x => (x.s0.updCrew x.uid x.ci fun c => c.removeFromMasks x.w.d.toNat (laneMask x.act),
      x.act.map fun l => (l, .jump (x.relTarget l)))) := by
  have hexec : ∀ w s, exec (.brk w) s = execBrk w s := fun _ _ => rfl
  refine ends_of_body (fun w s => (hexec w s).trans rfl) fun x ⟨hne, hal⟩ => ?_
  have hgone : x.act.filter (fun l => x.relTarget l % 4 == 0) = x.act :=
    List.filter_eq_self.mpr fun l hl => beq_iff_eq.mpr (hal l hl)
  simp only [hgone, branches_aligned hal]
  rw [if_neg (by simpa using hne)]

/-- Settles O7: the end of each instruction from its body. -/
theorem controlTransfer : Obligations.ControlTransfer := by
  have move {op fn reads i} (f : Ctx → Nat → LaneRes) (hi : ∀ w s, exec (i w) s = runLong op fn w s reads (moveBody f)) :
      Ends op fn reads i (fun _ => True) fun x => (x.s0, x.act.map fun l => (l, f x l)) := ends_of_body hi fun _ _ => rfl
  have branch {op fn reads i} (target : Ctx → Nat → Nat)
      (hi : ∀ w s, exec (i w) s = runLong op fn w s reads (moveBody fun x l => branchTo (target x l))) :
      Ends op fn reads i (fun x => ∀ l ∈ x.act, target x l % 4 = 0)
        fun x => (x.s0, x.act.map fun l => (l, .jump (target x l))) := ends_of_body hi fun _ h => moveBody_branch h
  have mask {op fn reads i} (f : Ctx → Crew → Crew) (hi : ∀ w s, exec (i w) s = runLong op fn w s reads (crewBody f)) :
      Ends op fn reads i (fun x => x.act ≠ []) fun x => (x.s0.updCrew x.uid x.ci (f x), []) :=
    ends_of_body hi fun _ h => crewBody_of_active f h
  exact ⟨move (fun _ _ => .next) fun _ _ => rfl, endsShort_of_body (body := moveBody fun _ _ => .next) (fun _ _ => rfl) fun _ _ => rfl,
    branch Ctx.relTarget fun _ _ => rfl, branch (fun x l => x.a l 64) fun _ _ => rfl,
    mask (fun x c => c.setMask x.w.d.toNat (laneMask x.act)) fun _ _ => rfl, mask (fun x c => c.clearMask x.w.d.toNat) fun _ _ => rfl,
    move (fun x _ => .wait (.mask x.w.d.toNat)) fun _ _ => rfl, brk_ends, move (fun _ _ => .exit) fun _ _ => rfl,
    ends_of_body (fun _ _ => rfl) fun _ _ => rfl⟩

end Sys2Proof.Machine

/-! The frames of R109, R114, R118 and R229: what a branch or a wait leaves as it was, and what a scratchpad store changes beside it. Both
end in lanes that stay with their crew, so that the crew's frame is that of `Ctx.endCrew`. -/

namespace Sys2Proof.Machine
open Sys2Proof

/-! ### The end of an instruction that writes no register -/

theorem RegsSame.trans {a b c : Thread} (h : RegsSame a b) (k : RegsSame b c) : RegsSame a c := by
  obtain ⟨hk, hg, ho, hp, hr⟩ := h
  obtain ⟨kk, kg, ko, kp, kr⟩ := k
  exact ⟨hk.trans kk, kg.trans hg, ko.trans ho, kp.trans hp, kr.trans hr⟩

section
variable {s t : State} {op len : Nat} {w : Fields} {x : Ctx} {rs : List (Nat × LaneRes)} {c : Crew}

/-- Where every lane stays and the body has left the crew as it stood at issue, the crew's registers are as they were. -/
theorem ends_crewFrame (hrs : ∀ r ∈ rs, r.2.stays = true) (ht : t.crew? x.uid x.ci = some (c.inCycle x.clk)) :
    ∃ c', (x.ends t rs).crew? x.uid x.ci = some c' ∧ CrewFrame (fun _ => RegsSame) c c' := by
  have hR : ∀ (_ : Nat) h, RegsSame h h := fun _ => RegsSame.refl
  have hT : ∀ (_ : Nat) a b c, RegsSame a b → RegsSame b c → RegsSame a c := fun _ _ _ _ => RegsSame.trans
  refine ⟨x.endCrew rs t.staleAt (c.inCycle x.clk), ?_,
    (CrewFrame.inCycle hR c x.clk).trans hT (.endCrew hR hT (fun _ _ _ => id) x rs t.staleAt _)⟩
  rw [ends_of_stays x t hrs]
  exact (updCrew_crew? t _ _ _ _ _).trans (by rw [if_pos ⟨rfl, rfl⟩, ht]; rfl)

theorem issueCtx_s0_crew? (h : s.issueCtx op len w = some x) (hc : s.crew? x.uid x.ci = some c) :
    x.s0.crew? x.uid x.ci = some (c.inCycle x.clk) := by
  rw [issueCtx_s0 h, updCrew_crew?, if_pos ⟨rfl, rfl⟩, hc]; rfl

/-- An instruction whose body changes nothing, and whose lanes stay, changes its crew alone. -/
theorem ends_s0_onlyCrew (h : s.issueCtx op len w = some x) (hrs : ∀ r ∈ rs, r.2.stays = true) :
    OnlyCrew s (x.ends x.s0 rs) x.uid x.ci := by
  rw [ends_of_stays x _ hrs, issueCtx_s0 h, updCrew_updCrew]
  exact onlyCrew_of_updCrew s _ _ _ _ fun r hr => by rw [rewrites_of_other x r hr]; rfl

/-- What an instruction that only moves its lanes leaves as it was. -/
theorem moves_frame {i : Instr} (h : s.issueCtx op len w = some x) (f : Nat → LaneRes) (hf : ∀ l, (f l).stays = true)
    (he : exec i s = .next (x.ends x.s0 (x.act.map fun l => (l, f l)))) :
    ∃ t, exec i s = .next t ∧ OnlyCrew s t x.uid x.ci ∧ ∀ c, s.crew? x.uid x.ci = some c →
      ∃ c', t.crew? x.uid x.ci = some c' ∧ CrewFrame (fun _ => RegsSame) c c' := by
  have hrs : ∀ r ∈ x.act.map fun l => (l, f l), r.2.stays = true := List.forall_mem_map.mpr fun l _ => hf l
  exact ⟨_, he, ends_s0_onlyCrew h hrs, fun c hc => ends_crewFrame hrs (issueCtx_s0_crew? h hc)⟩

end

/-! ### Scratchpad writes (R229) -/

section
variable (s : State) (u a : Nat) (bs : List Byte)

theorem scratchWrite_block? (v : Nat) : (s.scratchWrite u a bs).block? v = if v = u then
    (s.block? v).map fun b => { b with body := { b.body with scratch := writeBytes b.body.scratch a bs } } else s.block? v :=
  updBlock_block? s u v _ fun _ => rfl

@[simp] theorem scratchWrite_crew? (v j : Nat) : (s.scratchWrite u a bs).crew? v j = s.crew? v j := by
  unfold State.crew?
  rw [scratchWrite_block?]
  split
  · cases s.block? v <;> rfl
  · rfl

@[simp] theorem scratchWrite_rangeWait (v lo n : Nat) (wr : Bool) : (s.scratchWrite u a bs).rangeWait v lo n wr = s.rangeWait v lo n wr :=
  rfl

@[simp] theorem scratchWrite_lateClash (v ci lo n : Nat) : (s.scratchWrite u a bs).lateClash v ci lo n = s.lateClash v ci lo n := by
  unfold State.lateClash
  rw [scratchWrite_block?]
  by_cases hv : v = u
  · rw [if_pos hv]; cases s.block? v <;> rfl
  · rw [if_neg hv]

end

/-- The scratchpad of a number is in the canonical form of memory. -/
def State.ScratchWf (s : State) (u : Nat) : Prop := ∀ b, s.block? u = some b → Memory.wf b.body.scratch = true

theorem scratchWf_of_canonical {s : State} (h : MemoryCanonical s) (u : Nat) : s.ScratchWf u :=
  fun b hb => (h.2 b (List.mem_of_find?_eq_some hb)).1

section
variable {s : State} {u : Nat}

theorem scratchWf_scratchWrite (h : s.ScratchWf u) (a : Nat) (bs : List Byte) : (s.scratchWrite u a bs).ScratchWf u := by
  intro b hb
  rw [scratchWrite_block?, if_pos rfl] at hb
  obtain ⟨b', hb', rfl⟩ := Option.map_eq_some_iff.mp hb
  exact wf_writeBytes a bs (h b' hb')

/-- A byte of the scratchpad that a write does not reach. -/
theorem scratchRead_scratchWrite_other (h : s.ScratchWf u) {a k : Nat} {bs : List Byte} (hk : ¬(a ≤ k ∧ k < a + bs.length)) :
    (s.scratchWrite u a bs).scratchRead u k 1 = s.scratchRead u k 1 := by
  unfold State.scratchRead
  rw [scratchWrite_block?, if_pos rfl]
  cases hb : s.block? u with
  | none => rfl
  | some b =>
    have hbyte := readByte_writeBytes_other (h b hb) a k bs (by omega)
    exact congrArg (· :: []) hbyte

theorem scratchRead_updCrew (s : State) (u ci : Nat) (f : Crew → Crew) (v a n : Nat) :
    (s.updCrew u ci f).scratchRead v a n = s.scratchRead v a n := by
  unfold State.scratchRead
  rw [State.updCrew, updBlock_block? s u v (fun b => b.updCrew ci f) fun _ => rfl]
  by_cases hv : v = u
  · rw [if_pos hv]; cases s.block? v <;> rfl
  · rw [if_neg hv]

theorem scratchWf_updCrew (h : s.ScratchWf u) (v ci : Nat) (f : Crew → Crew) : (s.updCrew v ci f).ScratchWf u := by
  intro b hb
  rw [State.updCrew, updBlock_block? s v u (fun b => b.updCrew ci f) fun _ => rfl] at hb
  split at hb
  · obtain ⟨b', hb', rfl⟩ := Option.map_eq_some_iff.mp hb
    exact h b' hb'
  · exact h b hb

end

/-! ### Stores of the active lanes (R236) -/

/-- A body whose active lanes each change the state by `f` and go on, as long as `P` holds. -/
theorem laneBody_of_next {x : Ctx} {act : Ctx → State → Nat → State × LaneRes} {f : State → Nat → State} (P : State → Prop)
    (h0 : P x.s0) (hstep : ∀ s, P s → ∀ l ∈ x.act, act x s l = (f s l, .next) ∧ P (f s l)) :
    laneBody act x = .done (x.act.foldl f x.s0) x.allNext := by
  have hfold : ∀ ls ⊆ x.act, ∀ s, P s → ∀ acc : List (Nat × LaneRes),
      ls.foldl (fun (a : State × List (Nat × LaneRes)) l => ((act x a.1 l).1, a.2 ++ [(l, (act x a.1 l).2)])) (s, acc) =
        (ls.foldl f s, acc ++ ls.map fun l => (l, .next)) := by
    intro ls
    induction ls with
    | nil => intro _ s _ acc; simp
    | cons l r ih =>
      intro hsub s hs acc
      obtain ⟨hl, hr⟩ := List.cons_subset.mp hsub
      obtain ⟨hact, hP⟩ := hstep s hs l hl
      rw [List.foldl_cons, hact, ih hr _ hP, List.append_assoc]
      rfl
  have hbody := hfold x.act (List.Subset.refl _) x.s0 h0 []
  rw [List.nil_append] at hbody
  unfold laneBody
  simp only [hbody]
  rfl

/-- A scratchpad store that no check, no copy and no late access stops. -/
theorem scratchLane_store {x : Ctx} {s : State} {l sa n align b d : Nat} {act : State → State × LaneRes} (hop : x.op = 0xA5)
    (hc : x.checkScratch sa n align = none) (hw : s.rangeWait x.uid sa n true = none) (hl : s.lateClash x.uid x.ci sa n = false) :
    scratchLane x s l sa n align true b d act = act s := by
  simp [scratchLane, hop, hc, hw, hl]

theorem checkScratch_none {x : Ctx} {sa n align : Nat} (ha : sa % align = 0) (hn : sa + n ≤ x.b.sheet.scratch) :
    x.checkScratch sa n align = none := by
  rw [Ctx.checkScratch, if_neg (fun h => h ha), if_neg (Nat.not_lt.mpr hn)]

/-- The stores of `sts`, in ascending lane order. -/
def Ctx.stored (x : Ctx) : State := x.act.foldl (fun s l => s.scratchWrite x.uid (x.sa l) (x.storeBytes l)) x.s0

theorem storeBytes_length (x : Ctx) (l : Nat) : (x.storeBytes l).length = memBytes x.mod := by
  simp [Ctx.storeBytes, toBytes]

section
variable {s : State} {w : Fields} {x : Ctx}

/-- What `sts` does where nothing stops its lanes. -/
theorem sts_ends (h : IssuesLong 0xA5 none readsABC w s x) (hok : x.scratchOk x.sa (memBytes x.mod) true) :
    exec (.sts w) s = .next (x.ends x.stored x.allNext) := by
  have hop : x.op = 0xA5 := (issueCtx_op h.1).1
  have hfree : ∀ l ∈ x.act, x.s0.rangeWait x.uid (x.sa l) (memBytes x.mod) true = none ∧
      x.s0.lateClash x.uid x.ci (x.sa l) (memBytes x.mod) = false := fun l hl =>
    have ⟨_, _, hwait, hlate, _⟩ := hok l hl
    ⟨hwait, hlate⟩
  have hexec : exec (.sts w) s = execSts w s := rfl
  refine hexec.trans ((runLong_issues h _).trans ?_)
  rw [laneBody_of_next (f := fun s l => s.scratchWrite x.uid (x.sa l) (x.storeBytes l)) (fun t => ∀ l ∈ x.act,
    t.rangeWait x.uid (x.sa l) (memBytes x.mod) true = none ∧ t.lateClash x.uid x.ci (x.sa l) (memBytes x.mod) = false) hfree]
  · rfl
  · intro t ht l hl
    obtain ⟨hal, hin, -⟩ := hok l hl
    exact ⟨scratchLane_store hop (checkScratch_none hal hin) (ht l hl).1 (ht l hl).2, fun k hk => by simpa using ht k hk⟩

theorem stored_mem (x : Ctx) : x.stored.mem = x.s0.mem :=
  x.act.foldlRecOn _ (motive := fun t : State => t.mem = x.s0.mem) rfl fun _ ht _ _ => ht

theorem stored_crew? (x : Ctx) (v j : Nat) : x.stored.crew? v j = x.s0.crew? v j :=
  x.act.foldlRecOn _ (motive := fun t : State => t.crew? v j = x.s0.crew? v j) rfl fun _ ht _ _ => (scratchWrite_crew? ..).trans ht

/-- The stores leave every byte of the scratchpad that no lane stores to. -/
theorem stored_scratchRead_other (hwf : x.s0.ScratchWf x.uid) {a : Nat}
    (ha : ∀ l ∈ x.act, ¬(x.sa l ≤ a ∧ a < x.sa l + memBytes x.mod)) :
    x.stored.scratchRead x.uid a 1 = x.s0.scratchRead x.uid a 1 := by
  have hfold : x.stored.ScratchWf x.uid ∧ x.stored.scratchRead x.uid a 1 = x.s0.scratchRead x.uid a 1 :=
    x.act.foldlRecOn _ (motive := fun t : State => t.ScratchWf x.uid ∧ t.scratchRead x.uid a 1 = x.s0.scratchRead x.uid a 1)
      ⟨hwf, rfl⟩ fun t ⟨ht, hr⟩ l hl => ⟨scratchWf_scratchWrite ht _ _,
        (scratchRead_scratchWrite_other ht (by rw [storeBytes_length]; exact ha l hl)).trans hr⟩
  exact hfold.2

theorem allNext_stays (x : Ctx) : ∀ r ∈ x.allNext, r.2.stays = true := List.forall_mem_map.mpr fun _ _ => rfl

/-- The frame of `sts`. -/
theorem sts_frame (h : IssuesLong 0xA5 none readsABC w s x) (hok : x.scratchOk x.sa (memBytes x.mod) true) (hm : MemoryCanonical s) :
    ∃ t, exec (.sts w) s = .next t ∧ t.mem = s.mem ∧
      (∀ a, (∀ l ∈ x.act, ¬(x.sa l ≤ a ∧ a < x.sa l + memBytes x.mod)) → t.scratchRead x.uid a 1 = s.scratchRead x.uid a 1) ∧
      ∀ c, s.crew? x.uid x.ci = some c → ∃ c', t.crew? x.uid x.ci = some c' ∧ CrewFrame (fun _ => RegsSame) c c' := by
  have hs0 := issueCtx_s0 h.1
  refine ⟨_, sts_ends h hok, ?_, fun a ha => ?_, fun c hc => ends_crewFrame (allNext_stays x) ?_⟩
  · rw [ends_of_stays x _ (allNext_stays x)]
    exact (stored_mem x).trans (by rw [hs0]; rfl)
  · have hwf : x.s0.ScratchWf x.uid := by
      rw [hs0]; exact scratchWf_updCrew (scratchWf_of_canonical hm _) _ _ _
    rw [ends_of_stays x _ (allNext_stays x)]
    calc _ = x.stored.scratchRead x.uid a 1 := scratchRead_updCrew x.stored _ _ _ _ _ _
      _ = x.s0.scratchRead x.uid a 1 := stored_scratchRead_other hwf ha
      _ = s.scratchRead x.uid a 1 := by rw [hs0]; exact scratchRead_updCrew ..
  · rw [stored_crew?]; exact issueCtx_s0_crew? h.1 hc

end

/-- Settles O55: the moves by where `controlTransfer` says that their lanes go, `sts` by its stores. -/
theorem moveAndStoreFrame : Obligations.MoveAndStoreFrame := by
  unfold Obligations.MoveAndStoreFrame
  obtain ⟨hnop, -, hbra, hbrx, -, -, hwait, -⟩ := controlTransfer
  refine ⟨fun p hp w s x hx h21 h22 => ?_, fun w s x => sts_frame⟩
  simp only [List.mem_cons, List.not_mem_nil, or_false] at hp
  rcases hp with rfl | rfl | rfl | rfl
  · exact moves_frame hx.1 _ (fun _ => rfl) (hnop w s x hx trivial)
  · exact moves_frame hx.1 _ (fun _ => rfl) (hbra w s x hx (h21 rfl))
  · exact moves_frame hx.1 _ (fun _ => rfl) (hbrx w s x hx (h22 rfl))
  · exact moves_frame hx.1 _ (fun _ => rfl) (hwait w s x hx trivial)

end Sys2Proof.Machine

/-! The family of R105, R106, R332 and R338: the bundles that a regroup forms, and a crew whose comparator is reached. -/

namespace Sys2Proof.Machine
open Sys2Proof

/-! ### The groups of a crew's eligible lanes (R105, R109) -/

/-- The lanes of a group stand at its address. -/
def Group.AtPc (g : Group) (c : Crew) : Prop := ∀ l ∈ g.lanes, ∃ t, c.threads[l]? = some t ∧ t.pc.toNat = g.pc

theorem groupsOf_atPc (s : State) (b : Block) (c : Crew) : ∀ g ∈ s.groupsOf b c, g.AtPc c := by
  have hkey : ∀ (k : Nat × Bool) (p : Thread × Nat), p ∈ c.threads.zipIdx → ((p.1.pc.toNat, s.marked b p.1) == k) = true →
      ∃ t, c.threads[p.2]? = some t ∧ t.pc.toNat = k.1 := fun k p hp hk =>
    ⟨p.1, List.mem_zipIdx_iff_getElem?.mp hp, congrArg Prod.fst (beq_iff_eq.mp hk)⟩
  intro g hg
  unfold State.groupsOf at hg
  extract_lets ts keys gs at hg
  have hgs : ∀ g ∈ gs, g.AtPc c := by
    intro g hg l hl
    obtain ⟨k, -, rfl⟩ := List.mem_map.mp hg
    obtain ⟨p, hp, rfl⟩ := List.mem_map.mp hl
    obtain ⟨hts, hk⟩ := List.mem_filter.mp hp
    exact hkey k p (List.mem_filter.mp hts).1 hk
  split at hg
  · obtain ⟨g', hg', rfl⟩ := List.mem_map.mp hg
    exact hgs g' hg'
  · exact hgs g hg

/-- The group that is chosen is one of those to choose from. -/
theorem firstGroup_mem {gs : List Group} {g : Group} (h : firstGroup gs = some g) : g ∈ gs := by
  have hfold : ∀ h, firstGroup gs = some h → h ∈ gs := by
    refine gs.foldlRecOn _ (motive := fun o : Option Group => ∀ h, o = some h → h ∈ gs) (by simp) fun o ho k hk h hh => ?_
    split at hh
    next => obtain rfl := Option.some.inj hh; exact hk
    next b =>
      split at hh
      · obtain rfl := Option.some.inj hh; exact hk
      · exact ho h hh
  exact hfold g h

theorem chooseGroups_length_le (gs : List Group) : (chooseGroups gs).length ≤ 2 := by
  unfold chooseGroups
  split
  · exact Nat.zero_le 2
  · split
    · exact Nat.le_succ 1
    · exact Nat.le_refl 2

/-- A bundle that a regroup forms is a group. -/
theorem mem_chooseGroups {gs : List Group} {bd : Bundle} (h : bd ∈ chooseGroups gs) : ∃ g ∈ gs, bd = ⟨g.lanes⟩ := by
  unfold chooseGroups at h
  split at h
  next => cases h
  next g hg =>
    have hmem := firstGroup_mem hg
    split at h
    next => exact ⟨g, hmem, List.mem_singleton.mp h⟩
    next k hk =>
      have hkm := (List.mem_filter.mp (firstGroup_mem hk)).1
      simp only [List.mem_cons, List.not_mem_nil, or_false] at h
      rcases h with rfl | rfl
      · exact ⟨g, hmem, rfl⟩
      · exact ⟨k, hkm, rfl⟩

/-! ### The regroup (R105, R106) -/

/-- At most two bundles, the lanes of each at one address. -/
def Crew.Regrouped (c : Crew) : Prop :=
  c.bundles.length ≤ 2 ∧ ∀ bd ∈ c.bundles, ∀ l ∈ bd.lanes, ∀ k ∈ bd.lanes, ∀ t u, c.threads[l]? = some t → c.threads[k]? = some u →
    t.pc = u.pc

theorem regroupCrew_regrouped (s : State) (b : Block) (c : Crew) : (s.regroupCrew b c).Regrouped := by
  refine ⟨chooseGroups_length_le _, fun bd hbd => ?_⟩
  obtain ⟨g, hg, rfl⟩ := mem_chooseGroups hbd
  have hpc : ∀ l ∈ g.lanes, ∀ t, (s.regroupCrew b c).threads[l]? = some t → t.pc.toNat = g.pc := by
    intro l hl t ht
    obtain ⟨t0, ht0, hpc⟩ := groupsOf_atPc s b c g hg l hl
    rw [State.regroupCrew, List.getElem?_map, ht0] at ht
    obtain rfl := Option.some.inj ht
    exact hpc
  exact fun l hl k hk t u ht hu => BitVec.eq_of_toNat_eq ((hpc l hl t ht).trans (hpc k hk u hu).symm)

theorem regroupAll_regrouped (s : State) {b : Block} (hb : b ∈ s.regroupAll.blocks) (hr : b.state = .resident)
    (hc : s.clockOf b.core % 4 = 0) {c : Crew} (hmem : c ∈ b.body.crews) (hl : c.live = true) : c.Regrouped := by
  obtain ⟨b0, -, rfl⟩ := List.mem_map.mp hb
  by_cases hdue : (decide (b0.state = .resident) && s.clockOf b0.core % 4 == 0) = true
  · rw [if_pos hdue] at hmem
    obtain ⟨c0, -, rfl⟩ := List.mem_map.mp hmem
    by_cases h0 : c0.live = true
    · rw [if_pos h0]; exact regroupCrew_regrouped s b0 c0
    · rw [if_neg h0] at hl; exact absurd hl h0
  · rw [if_neg hdue] at hr hc
    simp [hr, hc] at hdue

/-! ### The comparator (R332, R338) -/

section
variable {c : Crew} {clk : Nat}

/-- The comparator at or below the clock: the timer is disarmed and has fired. -/
theorem fireTimer_reached (ht : c.tmr ≠ 0) (hc : c.tmr.toNat ≤ clk) :
    (c.fireTimer clk).tmr = 0 ∧ (c.fireTimer clk).fired = some c.tmr.toNat := by
  rw [Crew.fireTimer, if_pos ⟨ht, hc⟩]; exact ⟨rfl, rfl⟩

theorem fireTimer_threads (c : Crew) (clk : Nat) : (c.fireTimer clk).threads = c.threads := by
  unfold Crew.fireTimer; split <;> rfl

theorem oweTimer_tmr (c : Crew) : c.oweTimer.tmr = c.tmr := by
  unfold Crew.oweTimer
  dsimp only
  split
  · split <;> rfl
  · rfl

/-- A timer that has fired is owed by every READY lane, where there is one and none is in handler mode. -/
theorem mem_oweTimer_owed {v l : Nat} {t : Thread} (hf : c.fired = some v) (hmode : ∀ t ∈ c.threads, t.st = .ready → t.hmode = false)
    (hl : c.threads[l]? = some t) (ht : t.st = .ready) : (l, v) ∈ c.oweTimer.owed := by
  have hmem : (t, l) ∈ c.threads.zipIdx.filter fun t => t.1.st == .ready :=
    List.mem_filter.mpr ⟨List.mem_zipIdx_iff_getElem?.mpr hl, beq_iff_eq.mpr ht⟩
  have hopen : ((c.threads.zipIdx.filter fun t => t.1.st == .ready).isEmpty ||
      (c.threads.zipIdx.filter fun t => t.1.st == .ready).any fun t => t.1.hmode) = false := by
    refine Bool.or_eq_false_iff.mpr ⟨?_, List.any_eq_false.mpr fun p hp => ?_⟩
    · exact List.isEmpty_eq_false_iff.mpr (List.ne_nil_of_mem hmem)
    · obtain ⟨hz, hr⟩ := List.mem_filter.mp hp
      simp [hmode p.1 (List.fst_mem_of_mem_zipIdx hz) (beq_iff_eq.mp hr)]
  simp only [Crew.oweTimer, hf, hopen, Bool.false_eq_true, if_false]
  by_cases ho : (l, v) ∈ c.owed
  · exact List.mem_append_left _ ho
  · exact List.mem_append_right _ (List.mem_filter.mpr ⟨List.mem_map.mpr ⟨_, hmem, rfl⟩, by simpa using ho⟩)

end

section
variable {uid ci : Nat} {s : State} {b : Block} {c d : Crew}

/-- The state once the lanes `ls` have taken the TIMERs that they owe: lane, comparator and address of each (log entries 52, 80). -/
def State.takeTimers (s : State) (uid ci : Nat) (ls : List (Nat × Nat × Nat)) : State :=
  ((ls.map (·.2)).eraseDups).foldl (fun (s : State) k =>
    s.takeFaults uid ci k.2 k.2 ((ls.filter fun l => l.2 == k).map fun l => (l.1, ⟨0x10, 0, 0, k.1, 0⟩)) true false)
    (if ls.isEmpty then s else s.updCrew uid ci fun c => { c with owed := c.owed.filter fun o => !ls.any fun l => (l.1, l.2.1) == o })

/-- What CREW_TIMER_FIRE does to a crew that becomes `d`. -/
theorem exec_crewTimerFire (hb : s.block? uid = some b) (hc : b.crew? ci = some c)
    (hd : (c.fireTimer (s.clockOf b.core)).oweTimer = d) :
    exec (.crewTimerFire uid ci) s =
      .next ((s.updCrew uid ci fun c => (c.fireTimer (s.clockOf b.core)).oweTimer).takeTimers uid ci d.timerLanes) := by
  have hcrew : (s.updCrew uid ci fun c => (c.fireTimer (s.clockOf b.core)).oweTimer).crew? uid ci = some d := by
    rw [updCrew_crew?, if_pos ⟨rfl, rfl⟩, crew?_of_block hb hc, ← hd]; rfl
  change execCrewTimerFire uid ci s = _
  simp only [execCrewTimerFire, hb, hcrew]
  rfl

theorem takeTimers_nil (s : State) (uid ci : Nat) : s.takeTimers uid ci [] = s := rfl

end

/-- Settles O41: the regroup by its groups, the comparator by what fires and what is then owed. -/
theorem crewEvents : Obligations.CrewEvents := by
  refine ⟨fun s => ⟨s.regroupAll, rfl, rfl, fun b hb hr hc c hmem hl => regroupAll_regrouped s hb hr hc hmem hl⟩, ?_⟩
  intro uid ci s b c hb hc ht hclk d s1
  obtain ⟨htmr, hfired⟩ := fireTimer_reached ht hclk
  have hexec := exec_crewTimerFire hb hc (d := d) rfl
  refine ⟨(oweTimer_tmr _).trans htmr, hfired, fun _ hmode l t hl hready => ?_, fun hnone => ?_, fun hsome => ?_⟩
  · rw [← fireTimer_threads c (s.clockOf b.core)] at hmode hl
    exact mem_oweTimer_owed hfired hmode hl hready
  · rw [hexec, hnone, takeTimers_nil]
  · rw [hexec, State.takeTimers, if_neg (by simpa using hsome)]

end Sys2Proof.Machine

/-! The family of R115. `Quiet` bounds the core number of every unpublished notice and not its home: a notice of a peer's core (R221) may
bear the number of the calling core, and where it lies on the line of the return stack the call raises MME in place of the jump that
`Obligations.Calls` states. -/

namespace Sys2Proof.Machine
open Sys2Proof

/-- A translation of the first 8 GiB to themselves, for programs to read and write. -/
def identityPage : TlbEntry := ⟨.core 0, 0, 0, 1, none, 0, 0, 0, true, true, true, true, true, 0⟩

/-- `call` with no guard, to the address that g0 is away. -/
def plainCall : Fields :=
  { gp := 7, gn := false, d := 0, a := 0, b := 0, c := 0, fn := 0, mod := 0, wbs := false, stall := 0, yld := false, hold := false,
    ext := .none }

/-- Lane 0 of core 0 is about to call, and core 0 of agent 1 has a notice on every byte of its return stack's first line. -/
def foreignNotice : State :=
  { State.reset.withFetchWord 0 0 with
    tlb := [identityPage], issue := some ⟨0, 0, [0], none, 0⟩, intents := [⟨0, 0, some 1, 0, 0, BitVec.allOnes 128⟩] }

/-- The element of the lane's return stack at depth 0. -/
def stackTop : Elem := ⟨0, 8, 0, identityPage.leaf⟩

/-- The state that `Obligations.Calls` states after a call whose every active lane reaches the elements `es`. -/
def Ctx.called (x : Ctx) (es : Nat → List Elem) : State :=
  let r := x.lanesRun fun x s l =>
    let r := storeLane x s l (x.relTarget l) x.privOwner false (cutBytes (toBytes (x.pc + x.len) 8) (es l))
    (r.1.updThread x.uid x.ci l fun t => { t with depth := t.depth + 1 }, .jump (x.relTarget l))
  x.ends (r.1.seeWalks x.b.core x.b.ctx (x.vas fun x l => stackElems x l (x.t l).depth)) r.2

/-- The issue of the call from `foreignNotice`. -/
def foreignIssue : Option Ctx := foreignNotice.issueCtx 0x23 (fieldsLength plainCall) plainCall

theorem foreignIssue_isSome : foreignIssue.isSome = true := by decide +kernel

theorem foreignIssue_unstopped : ∀ x ∈ foreignIssue, x.unstopped (illLong 0x23 none plainCall) readsA = true := by decide +kernel

theorem foreignIssue_lanes : ∀ x ∈ foreignIssue, ∀ l ∈ x.act, (x.t l).depth < 32 ∧ x.relTarget l % 4 = 0 ∧
    x.plan .write (stackElems x l (x.t l).depth) = .ready [stackTop] := by decide +kernel

theorem foreignIssue_inDevice : ∀ x ∈ foreignIssue, x.inDevice fun _ => [stackTop] := by
  have hplace : ∀ x ∈ foreignIssue, placeOf x.s0.hubid stackTop.pa stackTop.leaf.type = .home 0 := by decide +kernel
  have hwait : ∀ x ∈ foreignIssue, x.storesWait x.s0 = false := by decide +kernel
  exact fun x hx => ⟨fun _ _ e he => ⟨0, List.mem_singleton.mp he ▸ hplace x hx⟩, hwait x hx⟩

/-- Nothing is amiss but for the notice, whose core number is the caller's. -/
theorem foreignIssue_quiet : ∀ x ∈ foreignIssue, Quiet x.s0 x.b.core := by
  have hstate : ∀ x ∈ foreignIssue, x.s0.poison = [] ∧ x.s0.l1 = [] ∧ (∀ i ∈ x.s0.intents, i.core = x.b.core) ∧ x.s0.copies = [] ∧
      x.s0.agents = [] ∧ x.s0.recs = [] ∧ x.s0.dir = [] ∧ x.s0.downSpokes = [] := by decide +kernel
  intro x hx
  obtain ⟨hp, hl, hi, hc, ha, hr, hd, hs⟩ := hstate x hx
  refine ⟨hp, by simp [hl], hi, by simp [hc], fun a => ?_, by simp [hr], by simp [hd], hs⟩
  simp [State.agentDead, State.agent, ha, Agent.reset]

/-- MME has no handler: the block of the call is killed. -/
theorem foreignCall_kills : (match exec (.call plainCall) foreignNotice with | .next t => (t.block? 0).isSome | _ => true) = false := by
  decide +kernel

/-- The state that is stated has the block. -/
theorem foreignCalled_block : ∀ x ∈ foreignIssue, ((x.called fun _ => [stackTop]).block? 0).isSome = true := by decide +kernel

/-- Refutes O19: the call from `foreignNotice` meets a peer's notice and kills its block. -/
theorem not_calls : ¬ Obligations.Calls := by
  unfold Obligations.Calls
  rintro ⟨hcall, -, -⟩
  obtain ⟨x, hx⟩ := Option.isSome_iff_exists.mp foreignIssue_isSome
  have hnext : exec (.call plainCall) foreignNotice = .next (x.called fun _ => [stackTop]) :=
    (hcall plainCall foreignNotice x _ Ctx.relTarget (foreignIssue_inDevice x hx) (foreignIssue_lanes x hx) (foreignIssue_quiet x hx)).1
      ⟨hx, foreignIssue_unstopped x hx⟩ fun _ _ => rfl
  have hkill := foreignCall_kills
  rw [hnext] at hkill
  exact Bool.false_ne_true (hkill.symm.trans (foreignCalled_block x hx))

end Sys2Proof.Machine

/-! The family of R129 to R149, R151 and R152: what the vector class writes in the register form. An instruction that has a sweep form too
runs its register body where it is no sweep (`register_body`), and ends as that body's effects say (`ends_of_regBody`). -/

namespace Sys2Proof.Machine
open Sys2Proof

/-! ### From an effect to the end of an instruction -/

section
variable {op : Nat} {reads : List ReadAs} {ok : Ctx → Prop} {body : Ctx → BodyRes} {f : Ctx → Nat → Except LaneFault Eff}
  {e : Ctx → Nat → Eff}

/-- An instruction whose body, in the form that `ok` describes, changes registers alone. -/
theorem ends_of_regBody {fn : Option Nat} {i : Fields → Instr} (hi : ∀ w s, exec (i w) s = runLong op fn w s reads body)
    (hb : ∀ x, ok x → body x = regBody f x) (he : ∀ x l, f x l = .ok (e x l)) :
    Ends op fn reads i ok fun x => x.lanesSet (e x) :=
  fun w s x h hx => by rw [hi, runLong_issues h, hb x hx, close_regBody x f (e x) (he x)]; rfl

theorem endsShort_of_regBody {i : ShortFields → Instr} (hi : ∀ w s, exec (i w) s = runShort op w s reads body)
    (hb : ∀ x, ok x → body x = regBody f x) (he : ∀ x l, f x l = .ok (e x l)) :
    EndsShort op reads i ok fun x => x.lanesSet (e x) :=
  fun w s x h hx => by rw [hi, runShort_issues h, hb x hx, close_regBody x f (e x) (he x)]; rfl

end

/-! ### The register form and the sweep form (R63) -/

/-- The body of a register form where the instruction has a sweep form too. -/
theorem register_body {x : Ctx} (h : x.isSweep = false) (sweep register : BodyRes) :
    (if x.isSweep then sweep else register) = register := if_neg (Bool.eq_false_iff.mp h)

/-- A 32-bit instruction has no sweep form (R50). -/
theorem isSweep_of_short {op : Nat} {reads : List ReadAs} {f : ShortFields} {s : State} {x : Ctx} (h : IssuesShort op reads f s x) :
    x.isSweep = false := by
  rw [Ctx.isSweep, (issueCtx_op h.1).2.1]; rfl

theorem endsShort_of_register {op : Nat} {reads : List ReadAs} {i : ShortFields → Instr} {t : Ctx → State × List (Nat × LaneRes)}
    (h : EndsShort op reads i (fun x => x.isSweep = false) t) : EndsShort op reads i (fun _ => True) t :=
  fun f s x hx _ => h f s x hx (isSweep_of_short hx)

/-! ### Float arithmetic (R131, R132, R139) -/

/-- Settles O8: the register form of each is its element operation. -/
theorem floatArithmetic : Obligations.FloatArithmetic := by
  have elem {op reads i} (g : ElemFn) (hi : ∀ w s, exec (i w) s = runLong op none w s reads (elemBody true g)) :
      Ends op none reads i (fun x => x.isSweep = false) fun x => x.floats (fnFmt x.fn) x.rm g :=
    ends_of_regBody hi (f := fun x => floatEff (fnFmt x.fn) x.rm g x) (fun _ h => register_body h ..) fun _ _ => rfl
  have short {op reads i} (g : ElemFn) (hi : ∀ f s, exec (i f) s = runShort op f s reads (elemBody true g)) :
      EndsShort op reads i (fun _ => True) fun x => x.floats (fnFmt x.fn) x.rm g :=
    endsShort_of_register
      (endsShort_of_regBody hi (f := fun x => floatEff (fnFmt x.fn) x.rm g x) (fun _ h => register_body h ..) fun _ _ => rfl)
  have hsqrt : ∀ w s, exec (.fsqrt w) s = execFsqrt w s := fun _ _ => rfl
  have sqrt : Ends 0x4D none readsA .fsqrt (fun x => x.isSweep = false) fun x => x.floats fp32 x.rm elemSqrt :=
    ends_of_regBody hsqrt (f := fun x => floatEff fp32 x.rm elemSqrt x) (fun _ h => register_body h ..) fun _ _ => rfl
  have div : Ends 0x4E none readsAB .fdiv (fun _ => True) fun x => x.floats fp32 x.rm elemDiv :=
    ends_of_regBody (fun _ _ => rfl) (fun _ _ => rfl) fun _ _ => rfl
  exact ⟨elem elemAdd fun _ _ => rfl, elem elemSub fun _ _ => rfl, elem elemMul fun _ _ => rfl, elem elemFma fun _ _ => rfl,
    elem elemMin fun _ _ => rfl, elem elemMax fun _ _ => rfl, sqrt, div,
    short elemAdd fun _ _ => rfl, short elemMul fun _ _ => rfl, short elemMin fun _ _ => rfl⟩

/-! ### Comparison, classes, rounding to integral, exponents and functions (R133 to R138) -/

theorem snanFlag_pair (a b : Fv) : snanFlag [a, b] = if a.isSnan || b.isSnan then fNV else 0 := by
  rw [snanFlag, List.any_cons, List.any_cons, List.any_nil, Bool.or_false]

theorem fcmpEff_eq (x : Ctx) (l : Nat) : fcmpEff x l = .ok (
    let a := fp32.decode (x.a l 32)
    let b := fp32.decode (x.bv l 32)
    let un := a.isNan || b.isNan
    { preds := [(x.w.d.toNat, match x.fn with
        | 0 => !un && fvCompare a b == 0
        | 1 => un || fvCompare a b != 0
        | 2 => !un && decide (fvCompare a b < 0)
        | 3 => !un && decide (fvCompare a b ≤ 0)
        | 4 => !un && decide (fvCompare a b > 0)
        | 5 => !un && decide (fvCompare a b ≥ 0)
        | 6 => un
        | _ => !un)], flags := if a.isSnan || b.isSnan then fNV else 0 }) := by
  simp only [← snanFlag_pair]; rfl

/-- Settles O9: a comparison and a class by their effects, the others by their element operations. -/
theorem floatFunctions : Obligations.FloatFunctions := by
  have elem {op reads i} (rm : Ctx → Nat) (g : Ctx → ElemFn)
      (hi : ∀ w s, exec (i w) s = runLong op none w s reads (regBody fun x l => floatEff fp32 (rm x) (g x) x l)) :
      Ends op none reads i (fun _ => True) fun x => x.floats fp32 (rm x) (g x) :=
    ends_of_regBody hi (fun _ _ => rfl) fun _ _ => rfl
  have function {op i} (g : Nat → FRes) (hi : ∀ w s, exec (i w) s = runLong op none w s readsA (fnBody g)) :
      Ends op none readsA i (fun x => x.isSweep = false) fun x => x.floats fp32 0 (elemFn1 g) :=
    ends_of_regBody hi (fun _ h => register_body h ..) fun _ _ => rfl
  exact ⟨writes_of_regBody (f := fcmpEff) (fun _ _ => rfl) fcmpEff_eq, fclass_writes,
    elem Ctx.rm (fun _ => frndElem) fun _ _ => rfl, function fnExp fun _ _ => rfl, function fnLog fun _ _ => rfl,
    function fnRcp fun _ _ => rfl, function fnRsq fun _ _ => rfl, function fnSin fun _ _ => rfl, function fnCos fun _ _ => rfl,
    elem Ctx.rm (fun _ => expinsElem) fun _ _ => rfl, elem (fun _ => 0) (fun x => expextElem (x.fn == 1)) fun _ _ => rfl⟩

/-! ### Conversions and block encodings (R141 to R147) -/

theorem cvt_ends : Ends 0x53 none readsA .cvt (fun x => x.isSweep = false) fun x => x.lanesSet fun l =>
    let st := x.w.b.toNat
    let d := drawModes x.rm (x.key l) 1 (x.count l)
    let r := cvtElem x.fn st (d.1.headD .rne) (if st = 4 then x.rdS l x.w.a 64 else x.a l (cvtWidth st))
    { x.result (cvtWidth x.fn) r.1 with flags := r.2 ||| d.2.2, rand := some d.2.1 } :=
  ends_of_regBody (fun _ _ => rfl) (fun _ h => register_body h ..) fun _ _ => rfl

section
variable {x : Ctx} {s : State} {w : Fields}

/-- The register form has no third parcel, or a literal there. -/
theorem ext_of_register {op len : Nat} (hx : s.issueCtx op len w = some x) (h : x.isSweep = false) :
    w.ext = .none ∨ ∃ v, w.ext = .lit v := by
  rw [Ctx.isSweep, (issueCtx_op hx).2.1] at h
  cases hw : w.ext with
  | none => exact .inl rfl
  | lit v => exact .inr ⟨v, rfl⟩
  | sweep => rw [hw] at h; cases h

theorem runLong_register {op : Nat} {reads : List ReadAs} (hx : IssuesLong op none reads w s x) (h : x.isSweep = false)
    (sweep : Ctx → SweepOp) (f : Ctx → Nat → Except LaneFault Eff) {e : Nat → Eff} (hf : ∀ l, f x l = .ok (e l)) :
    runLong op none w s reads (fun x => if x.isSweep then sweepBody sweep x else regBody f x) = .next (x.writes e) := by
  rw [runLong_issues hx, register_body h, close_regBody x f e hf]

theorem cvq_register (h : x.isSweep = false) (hx : IssuesLong 0x54 none [⟨0, 1⟩, ⟨2, 64 / shapeCount w.b.toNat⟩] w s x) :
    exec (.cvq w) s = .next (x.writes fun l => Eff.ofLane (cvqEff x l)) := by
  have hexec : exec (.cvq w) s = execCvq w s := rfl
  rw [← runLong_register hx h cvqSweep cvqEff (e := fun l => Eff.ofLane (cvqEff x l)) fun _ => rfl, hexec, execCvq]
  obtain hext | ⟨v, hext⟩ := ext_of_register hx.1 h
  · rw [hext]
  · rw [hext]

theorem cvd_register (h : x.isSweep = false) (hx : IssuesLong 0x55 none
      ([⟨0, 1⟩, ⟨0, 64 / shapeCount w.b.toNat⟩] ++ (if w.b.toNat = 3 then [⟨2, 32⟩] else [])) w s x) :
    exec (.cvd w) s = .next (x.writes fun l => Eff.ofLane (cvdEff x l)) := by
  have hexec : exec (.cvd w) s = execCvd w s := rfl
  rw [← runLong_register hx h cvdSweep cvdEff (e := fun l => Eff.ofLane (cvdEff x l)) fun _ => rfl, hexec, execCvd]
  obtain hext | ⟨v, hext⟩ := ext_of_register hx.1 h
  · rw [hext]
  · rw [hext]

end

/-! ### Random streams, segment folds and groups (R148, R149, R151, R152) -/

theorem scale_down (v : Nat) : Q.scale ⟨v, 1⟩ (-24) = ⟨v, 2 ^ 24⟩ := by simp [Q.scale]

/-- The result of `rand` under a function code: a word, a draw or the fraction `q`. -/
theorem out_rand (x : Ctx) (n draw q : Nat) : (
    let r : Nat × Nat := match n with
      | 0 => (32, draw % 2 ^ 32)
      | 1 => (64, draw)
      | _ => (32, q)
    x.out r.1 r.2) = x.result (if n = 1 then 64 else 32) (match n with
      | 0 => draw % 2 ^ 32
      | 1 => draw
      | _ => q) := by
  rcases n with _ | _ | _ <;> rfl

theorem randEff_eq (x : Ctx) (l : Nat) : randEff x l = .ok (
    let d := drawWord (x.key l) (x.count l)
    { x.result (if x.fn = 1 then 64 else 32) (match x.fn with
        | 0 => d.1 % 2 ^ 32
        | 1 => d.1
        | _ => (roundQ fp32 .rne false ⟨bitsOf d.1 8 24, 2 ^ 24⟩).1) with flags := d.2.2, rand := some d.2.1 }) := by
  dsimp only
  rw [← scale_down, ← out_rand]
  rfl

theorem segredEff_eq (x : Ctx) (l : Nat) : segredEff x l = .ok (
    let m := x.mod % 8
    let mask := x.bv x.low 32
    let starts := x.act.filter fun k => mask.testBit k || k == x.low
    let first := (starts.filter fun k => decide (k ≤ l)).getLastD x.low
    let after := (starts.find? fun k => decide (l < k)).getD 32
    let lanes := x.act.filter fun k => decide (first ≤ k ∧ k < after) && (!x.mod.testBit 3 || decide (k ≤ l))
    let r := foldVals x.fn m (lanes.map fun k => x.foldA m k)
    { x.result (foldWidth x.fn m) r.1 with flags := r.2 }) := by
  unfold segredEff segmentOf bitAt
  cases hm : x.mod.testBit 3 with
  | true => simp only [if_true, List.filter_filter, Bool.decide_and, Bool.not_true, Bool.false_or, Bool.and_comm]; rfl
  | false => simp only [Bool.false_eq_true, if_false, Bool.decide_and, Bool.not_false, Bool.true_or, Bool.and_true]; rfl

theorem issueLong_fn {w : Fields} {s : State} {x : Ctx} {op : Nat} {fn : Option Nat} {reads : List ReadAs}
    (h : IssuesLong op fn reads w s x) : x.fn = w.fn.toNat := by rw [Ctx.fn, (issueCtx_op h.1).2.1]

theorem rgrpEff_rank {x : Ctx} (h : x.fn = 0) (l : Nat) : rgrpEff x l = .ok (
    x.result 32 (x.bv l 32 + (x.act.filter fun k => decide (x.a k 32 < x.a l 32 ∨ (k < l ∧ x.a k 32 = x.a l 32))).length)) := by
  simp only [rgrpEff, h, Bool.decide_or, Bool.decide_and]; rfl

theorem rgrpEff_size {x : Ctx} (h : x.fn = 1) (l : Nat) :
    rgrpEff x l = .ok (x.result 32 (x.act.filter fun k => x.a k 32 == x.a l 32).length) := by
  rw [rgrpEff, if_pos h]; rfl

theorem rgrp_writes {w : Fields} {s : State} {x : Ctx} {reads : List ReadAs} (hr : (if w.fn = 0 then readsAB else readsA) = reads)
    (h : IssuesLong 0x5C none reads w s x) {e : Nat → Eff} (he : ∀ l, rgrpEff x l = .ok (e l)) :
    exec (.rgrp w) s = .next (x.writes e) := by
  have hexec : exec (.rgrp w) s = execRgrp w s := rfl
  rw [hexec, execRgrp, hr, runLong_issues h, close_regBody x rgrpEff e he]

/-- Settles O10: each instruction by the effect of its body; `cvq` and `cvd` read as their register form does. -/
theorem conversionsAndStreams : Obligations.ConversionsAndStreams := by
  refine ⟨cvt_ends, fun w s x => cvq_register, fun w s x => cvd_register, writes_of_regBody (f := hadqEff) (fun _ _ => rfl) fun _ _ => rfl,
    writes_of_regBody (f := cvrnEff) (fun _ _ => rfl) fun _ _ => rfl, writes_of_regBody (f := randEff) (fun _ _ => rfl) randEff_eq,
    writes_of_exec fun _ _ => rfl, writes_of_regBody (f := segredEff) (fun _ _ => rfl) segredEff_eq,
    fun w s x => ⟨fun hw h => ?_, fun hw h => ?_⟩⟩
  · exact rgrp_writes (if_pos hw) h (rgrpEff_rank ((issueLong_fn h).trans (by rw [hw]; rfl)))
  · exact rgrp_writes (by rw [hw]; rfl) h (rgrpEff_size ((issueLong_fn h).trans (by rw [hw]; rfl)))

end Sys2Proof.Machine

/-! The family of R150, R154 and R155: the ragged-row search, a walk of one lane, and the append to a list. Their bodies change the state
lane after lane, so that the effects of the lanes are gathered into one update of the crew (`foldl_updCrew`), or followed with the count of
the list (`foldl_frontLane`). -/

namespace Sys2Proof.Machine
open Sys2Proof

/-! ### From a body to an instruction -/

theorem exec_of_body {op : Nat} {fn : Option Nat} {reads : List ReadAs} {i : Fields → Instr} {body : Ctx → BodyRes} {w : Fields}
    {s t : State} {x : Ctx} {rs : List (Nat × LaneRes)} (hi : ∀ w s, exec (i w) s = runLong op fn w s reads body)
    (hx : IssuesLong op fn reads w s x) (hb : body x = .done t rs) : exec (i w) s = .next (x.ends t rs) := by
  rw [hi, runLong_issues hx, hb]; rfl

/-! ### Updates of the crew, lane after lane -/

theorem updAt_id {α : Type} (xs : List α) (i : Nat) : updAt xs i id = xs := by
  induction xs generalizing i with
  | nil => rfl
  | cons x r ih => cases i with
    | zero => rfl
    | succ i => rw [updAt, ih]

theorem updCrew_id (s : State) (u i : Nat) : s.updCrew u i id = s := by
  have hb : ∀ b : Block, b.updCrew i id = b := fun b => by rw [Block.updCrew, updAt_id]
  simp only [State.updCrew, State.updBlock, mapWhere, hb, ite_self, List.map_id']

/-- Updates of one crew, lane after lane, are one update of it. -/
theorem foldl_updCrew (u i : Nat) (f : Nat → Crew → Crew) (ls : List Nat) (s : State) :
    ls.foldl (fun s l => s.updCrew u i (f l)) s = s.updCrew u i fun c => ls.foldl (fun c l => f l c) c := by
  induction ls generalizing s with
  | nil => exact (updCrew_id s u i).symm
  | cons l r ih => rw [List.foldl_cons, ih, updCrew_updCrew]; rfl

/-! ### Ragged rows (R150) -/

section
variable {x : Ctx} {v : Nat → Option (Nat × Nat)}

/-- Whether the index of a lane begins a row. -/
def beginsRow (v : Nat → Option (Nat × Nat)) (k : Nat) : Bool := match v k with | some p => p.2 == 0 | none => false

/-- A body may gather the lanes that begin a row by any `g` that keeps exactly those. -/
theorem filterMap_beginsRow {g : Nat → Option Nat} (hg : ∀ l, g l = Option.guard (beginsRow v) l) (ls : List Nat) :
    ls.filterMap g = ls.filter (beginsRow v) := by
  rw [funext hg, List.filterMap_eq_filter]

/-- What `ragw` writes in a lane, from the row and position that each lane has found. -/
def Ctx.ragEff (x : Ctx) (v : Nat → Option (Nat × Nat)) (l : Nat) : Eff :=
  { x.result (if x.fn = 0 then 64 else 32)
      (if x.fn = 0 then (match v l with | some p => p.1 + p.2 * 2 ^ 32 | none => 2 ^ 64 - 1)
        else laneMask (x.act.filter (beginsRow v))) with
    preds := [(x.mod % 8, (v l).isSome)] }

theorem ragwBody_of_found (h : ∀ l ∈ x.act, ragFind x l = .ok (v l)) :
    ragwBody x = .done (x.lanesSet (x.ragEff v)).1 [] := by
  have hrs : (x.act.map fun l => (l, ragFind x l)) = x.act.map fun l => (l, .ok (v l)) :=
    List.map_congr_left fun l hl => by rw [h l hl]
  have hwaits : x.act.findSome? (fun _ => (none : Option AgainOn)) = none := List.findSome?_eq_none_iff.mpr fun _ _ => rfl
  have hfaults : x.act.filterMap (fun _ => (none : Option (Nat × LaneRes))) = [] := List.filterMap_eq_nil_iff.mpr fun _ _ => rfl
  unfold ragwBody
  rw [hrs]
  simp only [List.filterMap_map, List.findSome?_map, List.foldl_map, Function.comp_def, hwaits, hfaults, ite_self,
    foldl_updCrew]
  rw [filterMap_beginsRow (v := v)]
  · rfl
  · intro l
    rw [Option.guard, beginsRow]
    rcases v l with _ | ⟨row, _ | place⟩ <;> rfl

end

/-! ### Walks (R154) -/

/-- The walk of one lane that ends with a result. -/
theorem vxwalkBody_of_result {x : Ctx} {l d : Nat} (hl : x.act = [l]) (hd : (vxLane x x.s0 l).1.out = some (.result d)) :
    vxwalkBody x = .done ((((vxLane x x.s0 l).1.s.endBring (dieOf x.b.core) (laneReader x.uid x.ci l)).updCrew
      x.uid x.ci fun c => ({ x.out 64 d with flags := (vxLane x x.s0 l).2 } : Eff).apply c x.clk l x.w).seeWalks x.b.core x.b.ctx
        (vxLane x x.s0 l).1.seen) [] := by
  unfold vxwalkBody
  rw [hl]
  simp only [List.foldl_cons, List.foldl_nil, hd]
  rfl

/-- Settles O12: the search of every lane gives one update of the crew, the walk of one lane its end. -/
theorem raggedRowsAndWalks : Obligations.RaggedRowsAndWalks :=
  ⟨fun _ _ _ _ hx h => exec_of_body (fun _ _ => rfl) hx (ragwBody_of_found h),
   fun _ _ _ _ _ hx _ hb _ => exec_of_body (fun _ _ => rfl) hx hb,
   fun _ _ _ _ _ hx hl hd => exec_of_body (fun _ _ => rfl) hx (vxwalkBody_of_result hl hd)⟩

/-! ### Numbers in the scratchpad -/

theorem readBytes_add (m : List Host.Cell) (a n k : Nat) : readBytes m a (n + k) = readBytes m a n ++ readBytes m (a + n) k := by
  induction n generalizing a with
  | zero => simp [readBytes]
  | succ n ih => rw [Nat.add_right_comm, readBytes, ih, readBytes, List.cons_append, Nat.add_right_comm, Nat.add_assoc]

theorem readBytes_length (m : List Host.Cell) (a n : Nat) : (readBytes m a n).length = n := by
  induction n generalizing a with
  | zero => rfl
  | succ n ih => rw [readBytes, List.length_cons, ih]

theorem scratchRead_add (s : State) (u a n k : Nat) :
    s.scratchRead u a (n + k) = s.scratchRead u a n ++ s.scratchRead u (a + n) k := by
  unfold State.scratchRead
  cases s.block? u with
  | none => exact List.replicate_append_replicate.symm
  | some b => exact readBytes_add ..

theorem scratchRead_length (s : State) (u a n : Nat) : (s.scratchRead u a n).length = n := by
  unfold State.scratchRead
  cases s.block? u with
  | none => exact List.length_replicate
  | some b => exact readBytes_length ..

theorem fromBytes_cons (b : Byte) (bs : List Byte) : fromBytes (b :: bs) = fromBytes bs * 256 + b.toNat := rfl

theorem two_pow_bytes_succ (n : Nat) : 2 ^ (8 * (n + 1)) = 2 ^ (8 * n) * 256 := by rw [Nat.mul_succ, Nat.pow_add]

theorem fromBytes_append (bs cs : List Byte) : fromBytes (bs ++ cs) = fromBytes bs + 2 ^ (8 * bs.length) * fromBytes cs := by
  induction bs with
  | nil => simp [fromBytes]
  | cons b r ih =>
    rw [List.cons_append, fromBytes_cons, fromBytes_cons, ih, List.length_cons, two_pow_bytes_succ, Nat.add_mul,
      Nat.mul_right_comm _ (fromBytes cs) 256, Nat.add_right_comm]

theorem fromBytes_lt (bs : List Byte) : fromBytes bs < 2 ^ (8 * bs.length) := by
  induction bs with
  | nil => exact Nat.one_pos
  | cons b r ih =>
    have hb : b.toNat < 256 := b.isLt
    rw [fromBytes_cons, List.length_cons, two_pow_bytes_succ]
    omega

/-- The two words of an 8-byte header. -/
theorem header_words (s : State) (u a : Nat) :
    bitsOf (fromBytes (s.scratchRead u a 8)) 0 32 = fromBytes (s.scratchRead u a 4) ∧
    bitsOf (fromBytes (s.scratchRead u a 8)) 32 32 = fromBytes (s.scratchRead u (a + 4) 4) := by
  have hlow := fromBytes_lt (s.scratchRead u a 4)
  have hhigh := fromBytes_lt (s.scratchRead u (a + 4) 4)
  rw [scratchRead_length] at hlow hhigh
  have h8 := fromBytes_append (s.scratchRead u a 4) (s.scratchRead u (a + 4) 4)
  rw [← scratchRead_add, scratchRead_length] at h8
  rw [h8]
  unfold bitsOf
  omega

/-! ### Appends (R155) -/

section
variable {x : Ctx} {base cap : Nat}

/-- The append of lane `p.1` at place `p.2` behind `count`. -/
def Ctx.frontAppend (x : Ctx) (base count : Nat) (t : State) (p : Nat × Nat) : State :=
  (t.scratchWrite x.uid (base + 32 + 4 * (count + p.2)) (toBytes (x.bv p.1 32) 4)).updCrew x.uid x.ci fun c =>
    ({ x.result 32 (count + p.2) with preds := [(x.mod % 8, true)] } : Eff).apply c x.clk p.1 x.w

/-- A lane of `front` that finds room. -/
theorem frontLane_append {t : State} {count j l : Nat} {rs : List (Nat × LaneRes)} (hl : x.a l 32 = base) (hj : count + j < cap)
    (hin : base + 32 + 4 * cap ≤ x.b.sheet.scratch) (hw : ∀ a n, t.rangeWait x.uid a n true = none) :
    frontLane x base cap (t, count + j, rs) l = (x.frontAppend base count t (l, j), count + (j + 1), rs) := by
  have hroom : decide (base + 32 + 4 * (count + j) + 4 > x.b.sheet.scratch) = false := decide_eq_false (by omega)
  simp only [frontLane, hl, hj, hroom, hw, ne_eq, not_true_eq_false, if_false, if_true, decide_true, Bool.and_false, Bool.false_eq_true]
  rfl

/-- The lanes of `front` that all find room append one behind another. -/
theorem foldl_frontLane (count : Nat) (hin : base + 32 + 4 * cap ≤ x.b.sheet.scratch) (ls : List Nat) (hl : ∀ l ∈ ls, x.a l 32 = base)
    (j : Nat) (hj : count + j + ls.length ≤ cap) (t : State) (hw : ∀ a n, t.rangeWait x.uid a n true = none)
    (rs : List (Nat × LaneRes)) :
    ls.foldl (frontLane x base cap) (t, count + j, rs) = ((ls.zipIdx j).foldl (x.frontAppend base count) t, count + j + ls.length, rs) := by
  induction ls generalizing j t with
  | nil => rfl
  | cons l r ih =>
    rw [List.length_cons] at hj ⊢
    obtain ⟨hbase, hr⟩ := List.forall_mem_cons.mp hl
    have hrest := ih hr (j + 1) (by omega) (x.frontAppend base count t (l, j)) hw
    rw [List.foldl_cons, frontLane_append hbase (by omega) hin hw, hrest, List.zipIdx_cons, List.foldl_cons]
    congr 2
    omega

theorem frontBody_of_room {count : Nat} (hne : x.act ≠ []) (hl : ∀ l ∈ x.act, x.a l 32 = base) (hal : base % 32 = 0)
    (hin : base + 32 + 4 * cap ≤ x.b.sheet.scratch) (hw : ∀ a n, x.s0.rangeWait x.uid a n true = none)
    (hbad : x.badScratch x.s0 base 8 = false) (hcount : fromBytes (x.s0.scratchRead x.uid base 4) = count)
    (hcap : fromBytes (x.s0.scratchRead x.uid (base + 4) 4) = cap) (hroom : count + x.act.length ≤ cap) :
    frontBody x = .done ((x.act.zipIdx.foldl (x.frontAppend base count) x.s0).scratchWrite x.uid base
      (toBytes (count + x.act.length) 4)) [] := by
  obtain ⟨l, ls, hact⟩ := List.exists_cons_of_ne_nil hne
  have hlow : x.a x.low 32 = base := hl _ (by rw [Ctx.low, hact]; exact List.mem_cons_self)
  obtain ⟨hlo, hhi⟩ := header_words x.s0 x.uid base
  have hfold := foldl_frontLane count hin x.act hl 0 hroom x.s0 hw []
  rw [Nat.add_zero] at hfold
  have hempty : x.act.isEmpty = false := by rw [hact]; rfl
  have hhdr : ¬base + 8 > x.b.sheet.scratch := by omega
  simp only [frontBody, hempty, hlow, hal, hhdr, hbad, hw, hlo, hhi, hcount, hcap, hfold, ne_eq, not_true_eq_false, if_false,
    Bool.false_eq_true, List.findSome?_nil]

end

/-- Settles O13: where all lanes find room, the body appends their items one behind another and writes the count. -/
theorem frontAppends : Obligations.FrontAppends :=
  fun _ _ _ _ _ _ hx hne hl hal hin hw hbad hcount hcap hroom =>
    exec_of_body (fun _ _ => rfl) hx (frontBody_of_room hne hl hal hin hw hbad hcount hcap hroom)

end Sys2Proof.Machine

/-! The family of R157 to R179: tracked arithmetic and the leaves, the comparisons and the requests to the retake engine, the sweep unit and
the engine's answers. Counts come and go without a change to which nodes are live and where they stand (`Reel.places`), so that a reel
with room for every active lane has room for each of them in turn (`reelBody_of_room`). -/

namespace Sys2Proof.Machine
open Sys2Proof

/-! ### The nodes of a reel and their places (R160, R163) -/

/-- The handle of each live node, and whether the node is spilled. -/
def Reel.places (r : Reel) : List (Nat × Bool) := r.nodes.map fun n => (n.handle, n.spilled)

section
variable (r : Reel) (h : Nat)

theorem Reel.length_places : r.places.length = r.nodes.length := List.length_map ..

theorem Reel.inWindow_length : r.inWindow.length = (r.places.filter fun p => !p.2).length := by
  rw [Reel.places, List.filter_map, List.length_map]; rfl

theorem Reel.node?_eq_none_iff : r.node? h = none ↔ h ∉ r.places.map Prod.fst := by
  simp [Reel.node?, Reel.places]

theorem Reel.add_places (op : Nat) (kids : List Nat) (payload nfl : Nat) :
    (r.add h op kids payload nfl).places = (kids.foldl Reel.gain r).places ++ [(h, false)] := List.map_append ..

theorem Reel.upd_places {f : RNode → RNode} (hf : ∀ n, (f n).handle = n.handle ∧ (f n).spilled = n.spilled) :
    (r.upd h f).places = r.places := by
  simp only [Reel.places, Reel.upd, mapWhere, List.map_map]
  refine List.map_congr_left fun n _ => ?_
  obtain ⟨hh, hs⟩ := hf n
  dsimp only [Function.comp]
  split
  · exact Prod.ext hh hs
  · rfl

@[simp] theorem Reel.gain_places : (r.gain h).places = r.places := by
  unfold Reel.gain
  split
  · rfl
  · refine r.upd_places h fun n => ?_
    unfold RNode.gain
    split <;> exact ⟨rfl, rfl⟩

@[simp] theorem Reel.drop_places : (r.drop h).places = r.places := by
  have hupd := r.upd_places h (f := fun n => { n with count := n.count - 1 }) fun _ => ⟨rfl, rfl⟩
  unfold Reel.drop
  split
  · rfl
  · split
    · rfl
    · dsimp only
      split <;> exact hupd

/-- Changes of the reel that keep the places, one after another, keep them. -/
theorem Reel.foldl_places {f : Reel → Nat → Reel} (hf : ∀ r k, (f r k).places = r.places) (ks : List Nat) :
    (ks.foldl f r).places = r.places :=
  ks.foldlRecOn f (motive := fun t => t.places = r.places) rfl fun t ht k _ => (hf t k).trans ht

end

/-! ### Room in a reel (R160) -/

/-- A reel has a node and a slot of the window for `k` more appends. -/
def Reel.RoomFor (r : Reel) (sh : Sheet) (k : Nat) : Prop :=
  r.nodes.length + k ≤ sh.reelCap ∧ r.inWindow.length + k ≤ sh.window

section
variable {r r' : Reel} {sh : Sheet} {k : Nat}

theorem Reel.RoomFor.of_places (hp : r'.places = r.places) (h : r.RoomFor sh k) : r'.RoomFor sh k := by
  rwa [RoomFor, ← length_places, inWindow_length, hp, length_places, ← inWindow_length]

theorem Reel.RoomFor.empty (h : r.RoomFor sh k) : Reel.empty.RoomFor sh k := by
  obtain ⟨hn, hw⟩ := h
  exact ⟨Nat.le_trans (Nat.add_le_add_right (Nat.zero_le _) k) hn, Nat.le_trans (Nat.add_le_add_right (Nat.zero_le _) k) hw⟩

theorem Reel.RoomFor.add (h : r.RoomFor sh (k + 1)) (handle op : Nat) (kids : List Nat) (payload nfl : Nat) :
    (r.add handle op kids payload nfl).RoomFor sh k := by
  obtain ⟨hn, hw⟩ := of_places (foldl_places r gain_places kids) h
  rw [RoomFor, ← length_places, inWindow_length, add_places]
  rw [← length_places] at hn
  rw [inWindow_length] at hw
  rw [List.filter_append, List.length_append, List.length_append]
  exact ⟨Nat.le_trans (Nat.le_of_eq (Nat.add_right_comm _ 1 k)) hn, Nat.le_trans (Nat.le_of_eq (Nat.add_right_comm _ 1 k)) hw⟩

end

/-! ### The reel of a block after a change (R163, R164) -/

section
variable (s : State) (b : Block) (r : Reel)

theorem spillWrite_blocks {n : RNode} {t : State} (h : s.spillWrite b n = .ok t) : t.blocks = s.blocks := by
  unfold State.spillWrite at h
  split at h
  · cases h
  · split at h
    · cases h
    · cases h; rw [homeWrite_blocks, setDirty_blocks]

/-- Spilled nodes written at their places are no change of a block. -/
theorem syncSpilled_blocks : (s.syncSpilled b r).blocks = s.blocks := by
  refine List.foldlRecOn _ _ (motive := fun t : State => t.blocks = s.blocks) rfl fun t ht n _ => ?_
  split
  next u hu => exact (spillWrite_blocks t b hu).trans ht
  next => exact ht

theorem reelOf_setReel (u : Nat) : (s.setReel u r).reelOf u = if (s.block? u).isSome then r else Reel.empty := by
  have hset : ∀ t : State, t.blocks = s.blocks →
      (t.updBlock u fun b => { b with body := { b.body with reel := r } }).reelOf u = if (s.block? u).isSome then r else Reel.empty := by
    intro t ht
    have hblock : t.block? u = s.block? u := by rw [State.block?, ht]; rfl
    rw [State.reelOf, updBlock_block? t u u (fun b => { b with body := { b.body with reel := r } }) fun _ => rfl, if_pos rfl, hblock]
    cases s.block? u <;> rfl
  refine hset _ ?_
  split
  · split
    · exact syncSpilled_blocks ..
    · rfl
  · rfl

theorem reelOf_updThread (u ci l : Nat) (f : Thread → Thread) (v : Nat) : (s.updThread u ci l f).reelOf v = s.reelOf v := by
  unfold State.reelOf
  rw [State.updThread, State.updCrew, updBlock_block? s u v (fun b => b.updCrew ci _) fun _ => rfl]
  by_cases hv : v = u
  · rw [if_pos hv]; cases s.block? v <;> rfl
  · rw [if_neg hv]

variable {s r}

theorem roomFor_setReel {sh : Sheet} {k : Nat} (h : r.RoomFor sh k) (u : Nat) : ((s.setReel u r).reelOf u).RoomFor sh k := by
  rw [reelOf_setReel]
  split
  · exact h
  · exact h.empty

/-- A register written gains and drops counts alone. -/
theorem roomFor_setq {sh : Sheet} {k u : Nat} (h : (s.reelOf u).RoomFor sh k) (ci l d : Nat) (q : QReg) :
    ((s.setq u ci l d q).reelOf u).RoomFor sh k := by
  unfold State.setq
  extract_lets old r r'
  rw [reelOf_updThread]
  refine roomFor_setReel (Reel.RoomFor.of_places ?_ h) u
  unfold r'
  split
  · exact Reel.gain_places ..
  · rw [Reel.drop_places]; exact Reel.gain_places ..

/-- An append to a reel whose window has room (R163). -/
theorem append_of_room {b : Block} {k : Nat} (h : (s.reelOf b.uid).RoomFor b.sheet (k + 1)) (op : Nat) (kids : List Nat)
    (payload nfl : Nat) : s.append b op kids payload nfl =
      (s.setReel b.uid ((s.reelOf b.uid).add (s.reelOf b.uid).freeHandle op kids payload nfl), .ok (s.reelOf b.uid).freeHandle) := by
  obtain ⟨hn, hw⟩ := h
  have hcap : ¬(s.reelOf b.uid).nodes.length ≥ b.sheet.reelCap := by omega
  have hwin : (s.reelOf b.uid).inWindow.length < b.sheet.window := by omega
  simp only [State.append, if_neg hcap, if_pos hwin]

end

/-! ### Appends of the active lanes (R163) -/

/-- Steps that change the first of a pair alone, as long as a condition on what is still to come holds. -/
theorem foldl_counted {σ α ι : Type} {g : σ × α → ι → σ × α} {f : σ → ι → σ} {a : α} (P : Nat → σ → Prop)
    (h : ∀ k s i, P (k + 1) s → g (s, a) i = (f s i, a) ∧ P k (f s i)) (is : List ι) (s : σ) (hs : P is.length s) :
    is.foldl g (s, a) = (is.foldl f s, a) := by
  induction is generalizing s with
  | nil => rfl
  | cons i r ih =>
    obtain ⟨hg, hr⟩ := h r.length s i hs
    rw [List.foldl_cons, hg, ih _ hr, List.foldl_cons]

/-- A lane appends a node and writes its D with it: `lane` as the machine does it, `f` where the reel has room. -/
def Ctx.AppendsAs (x : Ctx) (lane : State → Nat → State × Option LaneFault) (f : State → Nat → State) : Prop :=
  ∀ s l, ∃ op kids payload nfl q, lane s l = s.appendSet x.b x.ci l x.w.d.toNat op kids payload nfl q ∧
    f s l = x.appendNode s l op kids payload nfl q

section
variable {x : Ctx}

theorem roomFor_appendNode {s : State} {k : Nat} (h : (s.reelOf x.uid).RoomFor x.b.sheet (k + 1)) (l op : Nat) (kids : List Nat)
    (payload nfl : Nat) (q : Nat → QReg) : ((x.appendNode s l op kids payload nfl q).reelOf x.uid).RoomFor x.b.sheet k :=
  roomFor_setq (roomFor_setReel (h.add ..) _) ..

theorem appendSet_of_room (hu : x.b.uid = x.uid) {s : State} {k : Nat} (h : (s.reelOf x.uid).RoomFor x.b.sheet (k + 1)) (l op : Nat)
    (kids : List Nat) (payload nfl : Nat) (q : Nat → QReg) :
    s.appendSet x.b x.ci l x.w.d.toNat op kids payload nfl q = (x.appendNode s l op kids payload nfl q, none) := by
  rw [← hu] at h
  rw [State.appendSet, append_of_room h, hu]; rfl

/-- Where the reel has room for every active lane, each appends in turn and none meets REEL. -/
theorem reelBody_of_room (hu : x.b.uid = x.uid) (hroom : x.reelRoom) {lane : Ctx → State → Nat → State × Option LaneFault}
    {f : State → Nat → State} (hf : x.AppendsAs (lane x) f) : reelBody lane x = .done (x.appends f).1 (x.appends f).2 := by
  have hlane : ∀ k s l, (s.reelOf x.uid).RoomFor x.b.sheet (k + 1) →
      lane x s l = (f s l, none) ∧ ((f s l).reelOf x.uid).RoomFor x.b.sheet k := by
    intro k s l hs
    obtain ⟨op, kids, payload, nfl, q, hset, hnode⟩ := hf s l
    rw [hset, hnode, appendSet_of_room hu hs]
    exact ⟨rfl, roomFor_appendNode hs ..⟩
  unfold reelBody
  dsimp only
  rw [foldl_counted (f := f) (fun k s => (s.reelOf x.uid).RoomFor x.b.sheet k) (fun k s l hs => ?_) x.act x.s0 hroom]
  · rfl
  · obtain ⟨hnext, hk⟩ := hlane k s l hs
    simp only [hnext]
    exact ⟨trivial, hk⟩

/-- The block of an issue is the one that the issue names. -/
theorem issueCtx_uid {s : State} {op len : Nat} {w : Fields} (h : s.issueCtx op len w = some x) : x.b.uid = x.uid := by
  unfold State.issueCtx at h
  split at h
  · cases h
  · split at h
    · cases h
    next b hb =>
      split at h
      · cases h
      · have huid := List.find?_some hb
        cases h; exact beq_iff_eq.mp huid

end

theorem ends_of_appends {op : Nat} {reads : List ReadAs} {i : Fields → Instr} {ok : Ctx → Prop} {f : Ctx → State → Nat → State}
    {lane : Ctx → State → Nat → State × Option LaneFault} (hi : ∀ w s, exec (i w) s = runLong op none w s reads (reelBody lane))
    (hok : ∀ x, ok x → x.reelRoom ∧ x.AppendsAs (lane x) (f x)) : Ends op none reads i ok fun x => x.appends (f x) :=
  fun _ _ x h hx =>
    have ⟨hroom, hf⟩ := hok x hx
    exec_of_body hi h (reelBody_of_room (issueCtx_uid h.1) hroom hf)

/-! ### Tracked arithmetic (R167) -/

/-- Tracked arithmetic by its enclosure at the registers. -/
theorem arith_ends {op kind n own : Nat} {f : Iv → Iv → Iv → Iv × Bool} {i : Fields → Instr}
    (hi : ∀ w s, exec (i w) s = runLong op none w s [] (reelBody (arithLane kind n))) (hf : ∀ a b c, ivOp 0 kind a b c = f a b c)
    (hown : (if kind = 0x15 then nflNOEX else 0) = own) : Ends op none [] i Ctx.reelRoom fun x => x.trackedOp kind n own f := by
  obtain rfl : ivOp 0 kind = f := funext fun a => funext fun b => funext fun c => hf a b c
  subst hown
  exact ends_of_appends hi fun x hroom => ⟨hroom, fun s l => ⟨_, _, _, _, _, rfl, rfl⟩⟩

theorem ivOp_div (a b c : Iv) : ivOp 0 0x14 a b c =
    let qs := [a.1.div b.1, a.1.div b.2, a.2.div b.1, a.2.div b.2]
    if b.1.sign ≤ 0 ∧ 0 ≤ b.2.sign then ((.ninf, .pinf), b.1.sign == 0 && b.2.sign == 0)
    else if none ∈ qs then ((.ninf, .pinf), false)
    else (ivRound 0 (bdMin (qs.filterMap id), bdMax (qs.filterMap id)), false) := by
  have hzero : (Iv.hasZero b = true) = (b.1.sign ≤ 0 ∧ 0 ≤ b.2.sign) := by simp [Iv.hasZero]
  have hnone : ∀ qs : List (Option Bd), ((qs.any (·.isNone)) = true) = (none ∈ qs) := fun qs => by simp
  simp only [ivOp, hzero, hnone]
  rfl

theorem ivOp_abs (a b c : Iv) : ivOp 0 0x17 a b c =
    (if 0 ≤ a.1.sign then a else if a.2.sign ≤ 0 then (a.2.neg, a.1.neg) else (.fin ⟨0, 1⟩, a.1.neg.max a.2), false) := by
  change (if 0 ≤ a.1.sign then (a, false) else if a.2.sign ≤ 0 then ((a.2.neg, a.1.neg), false)
    else ((.fin ⟨0, 1⟩, a.1.neg.max a.2), false)) = _
  by_cases hlow : 0 ≤ a.1.sign
  · rw [if_pos hlow, if_pos hlow]
  · rw [if_neg hlow, if_neg hlow]
    by_cases hhigh : a.2.sign ≤ 0
    · rw [if_pos hhigh, if_pos hhigh]
    · rw [if_neg hhigh, if_neg hhigh]

/-! ### Leaves (R166, R177) -/

theorem qld_float : Ends 0x80 none readsA .qld (fun x => x.reelRoom ∧ x.fn = 0) (fun x => x.appends fun s l =>
    let v := x.a l 32
    match fp32.decode v with
    | .fin _ q => x.appendNode s l 0x01 [] (if q.isZero then 0 else v) 0 fun h =>
        mkQ (if q.isZero then 0 else v) (if q.isZero then 0 else v) h false false false
    | _ => x.appendNode s l 0x01 [] v nflNAN fun h => mkQ 0 0 h true false false) :=
  ends_of_appends (fun _ _ => rfl) fun x ⟨hroom, hfn⟩ => ⟨hroom, fun s l => by
    simp only [qldLane, if_pos hfn]
    cases fp32.decode (x.a l 32) with
    | fin _ q => exact ⟨_, _, _, _, _, rfl, rfl⟩
    | _ => exact ⟨_, _, _, _, _, rfl, rfl⟩⟩

theorem qld_integer : Ends 0x80 none readsA .qld (fun x => x.reelRoom ∧ x.fn ≠ 0) (fun x => x.appends fun s l =>
    let n := if x.fn ≤ 2 then 32 else 64
    let i : Int := if x.fn = 1 ∨ x.fn = 3 then sext (x.a l n) n else (x.a l n : Int)
    x.appendNode s l (if x.fn = 1 ∨ x.fn = 3 then 0x02 else 0x03) [] (wrapInt i 64) 0 fun h =>
      mkQ ((Bd.fin (Q.ofInt i)).bits false) ((Bd.fin (Q.ofInt i)).bits true) h false false false) :=
  ends_of_appends (fun _ _ => rfl) fun x ⟨hroom, hfn⟩ => ⟨hroom, fun s l => by
    simp only [qldLane, if_neg hfn, Bool.or_eq_true, beq_iff_eq]
    exact ⟨_, _, _, _, _, rfl, rfl⟩⟩

/-- Settles O24: each lane appends the node of its operation, with the enclosure at the registers. -/
theorem trackedArithmetic : Obligations.TrackedArithmetic :=
  ⟨arith_ends (fun _ _ => rfl) (fun _ _ _ => rfl) rfl, arith_ends (fun _ _ => rfl) (fun _ _ _ => rfl) rfl,
   arith_ends (fun _ _ => rfl) (fun _ _ _ => rfl) rfl, arith_ends (fun _ _ => rfl) (fun _ _ _ => rfl) rfl,
   arith_ends (fun _ _ => rfl) ivOp_div rfl, arith_ends (fun _ _ => rfl) (fun _ _ _ => rfl) rfl,
   arith_ends (fun _ _ => rfl) (fun _ _ _ => rfl) rfl, arith_ends (fun _ _ => rfl) ivOp_abs rfl,
   qld_float, qld_integer,
   ends_of_appends (fun _ _ => rfl) fun _ hroom => ⟨hroom, fun _ _ => ⟨_, _, _, _, _, rfl, rfl⟩⟩⟩

/-! ### Requests to the retake engine (R171, R172) -/

/-- The request of one lane of a group. -/
def Ctx.requestLane (x : Ctx) (g : Nat) (s : State) (l : Nat × Nat) : State :=
  { s with nextId := s.nextId + 1,
           retakes := s.retakes ++ [⟨s.nextId, g, x.uid, x.ci, l.1, x.pc, x.len, x.op, x.w, l.2, x.clk, laneMask x.act, 0, none⟩] }

section
variable (x : Ctx)

theorem request_of_ne_nil (s : State) {lanes : List (Nat × Nat)} (h : lanes ≠ []) : x.request s lanes =
    (lanes.foldl (x.requestLane s.nextId) s.fresh.2, lanes.map fun l => (l.1, .park (.refine s.nextId))) := by
  obtain ⟨l, r, rfl⟩ := List.exists_cons_of_ne_nil h
  rfl

/-- Requests touch neither memory nor a block, and each is one more. -/
theorem foldl_requestLane (g : Nat) (lanes : List (Nat × Nat)) (s : State) :
    (lanes.foldl (x.requestLane g) s).mem = s.mem ∧ (lanes.foldl (x.requestLane g) s).blocks = s.blocks ∧
      (lanes.foldl (x.requestLane g) s).retakes.length = s.retakes.length + lanes.length := by
  induction lanes generalizing s with
  | nil => exact ⟨rfl, rfl, rfl⟩
  | cons l r ih =>
    obtain ⟨hm, hb, hr⟩ := ih (x.requestLane g s l)
    refine ⟨hm, hb, hr.trans ?_⟩
    simp only [Ctx.requestLane, List.length_append, List.length_cons, List.length_nil]
    omega

theorem parks_of_ne_nil {lanes : List (Nat × Nat)} (h : lanes ≠ []) :
    (x.parks lanes).2 = lanes.map (fun l => (l.1, .park (.refine x.s0.nextId))) ∧
    (x.parks lanes).1.mem = x.s0.mem ∧ (x.parks lanes).1.blocks = x.s0.blocks ∧
    (x.parks lanes).1.retakes.length = x.s0.retakes.length + lanes.length := by
  rw [Ctx.parks, request_of_ne_nil x x.s0 h]
  exact ⟨rfl, foldl_requestLane x x.s0.nextId lanes x.s0.fresh.2⟩

end

theorem checkGlobal_none {va n : Nat} (ha : va % n = 0) (hv : va < 2 ^ 53) : checkGlobal va n = none := by
  rw [checkGlobal, if_neg (fun h => h ha), if_neg (Nat.not_le.mpr hv)]

theorem qldd_ends : Ends 0x81 none readsA .qldd (fun x => ∀ l ∈ x.act, x.a l 64 % 32 = 0 ∧ x.a l 64 < 2 ^ 53)
    (fun x => x.parks (x.act.map fun l => (l, x.a l 64))) := by
  have hexec : ∀ w s, exec (.qldd w) s = execQldd w s := fun _ _ => rfl
  refine ends_of_body (fun w s => (hexec w s).trans rfl) fun x hx => ?_
  have hcheck : ∀ l ∈ x.act, checkGlobal (x.a l 64) 32 = none := fun l hl => checkGlobal_none (hx l hl).1 (hx l hl).2
  have hbad : x.act.filterMap (fun l => (checkGlobal (x.a l 64) 32).map fun f => (l, LaneRes.fault f)) = [] :=
    List.filterMap_eq_nil_iff.mpr fun l hl => by rw [hcheck l hl]; rfl
  have hok : x.act.filter (fun l => (checkGlobal (x.a l 64) 32).isNone) = x.act :=
    List.filter_eq_self.mpr fun l hl => by rw [hcheck l hl]; rfl
  simp only [hbad, hok]
  rfl

/-! ### Comparison (R170) -/

/-- Where both operands are defined and are not one node, their enclosures alone say what becomes of the comparison at issue. -/
theorem qcmpNow_of_test {a b : QReg} {cond : Nat} {o : Option Bool} (h : a.nan = false ∧ b.nan = false ∧ a.und = false ∧
    b.und = false ∧ (a.handle = 0 ∨ a.handle ≠ b.handle) ∧ testCond cond a.iv b.iv = o) : qcmpNow cond a b = o.map .ok := by
  obtain ⟨han, hbn, hau, hbu, hh, ht⟩ := h
  have hsame : (a.handle != 0 && a.handle == b.handle) = false := by
    rcases hh with hh | hh <;> simp [hh]
  simp only [qcmpNow, han, hbn, hau, hbu, hsame, ht, Bool.or_self, Bool.false_eq_true, if_false]

section
variable {x : Ctx}

theorem qcmpNow_map {now : Nat → Option (Except Nat Bool)} (h : ∀ l ∈ x.act, qcmpNow x.fn (x.q l x.w.a) (x.q l x.w.b) = now l) :
    (x.act.map fun l => (l, qcmpNow x.fn (x.q l x.w.a) (x.q l x.w.b))) = x.act.map fun l => (l, now l) :=
  List.map_congr_left fun l hl => by rw [h l hl]

theorem qcmpBody_of_decided {r : Nat → Bool} (h : ∀ l ∈ x.act, qcmpNow x.fn (x.q l x.w.a) (x.q l x.w.b) = some (.ok (r l))) :
    qcmpBody x = .done (x.act.foldl (fun (s : State) l => s.updThread x.uid x.ci l fun t =>
      (t.setPred x.w.d.toNat (r l)).setPred (x.mod % 8) true) x.s0) [] := by
  have hnone : ∀ α : Type, x.act.filterMap (fun _ => (none : Option α)) = [] := fun α => List.filterMap_eq_nil_iff.mpr fun _ _ => rfl
  unfold qcmpBody
  rw [qcmpNow_map h]
  simp only [List.foldl_map, List.filterMap_map, Function.comp_def, hnone]
  rfl

theorem qcmpBody_of_open (h : ∀ l ∈ x.act, qcmpNow x.fn (x.q l x.w.a) (x.q l x.w.b) = none) :
    qcmpBody x = .done (x.parks (x.act.map fun l => (l, 0))).1 (x.parks (x.act.map fun l => (l, 0))).2 := by
  have hnone : x.act.filterMap (fun _ => (none : Option (Nat × LaneRes))) = [] := List.filterMap_eq_nil_iff.mpr fun _ _ => rfl
  have hkeep : x.act.foldl (fun s _ => s) x.s0 = x.s0 := x.act.foldlRecOn _ (motive := fun t : State => t = x.s0) rfl fun _ ht _ _ => ht
  unfold qcmpBody
  rw [qcmpNow_map h]
  simp only [List.foldl_map, List.filterMap_map, Function.comp_def, hnone, hkeep, List.filterMap_eq_map', List.nil_append]
  rfl

end

/-! ### Reads of tracked registers (R168, R169) -/

theorem laneBody_eq (act : Ctx → State → Nat → State × LaneRes) (x : Ctx) :
    laneBody act x = .done (x.lanesRun act).1 (x.lanesRun act).2 := rfl

/-- A write of a tracked register in every active lane. -/
theorem setq_ends {op : Nat} {i : Fields → Instr} {q : Ctx → Nat → QReg}
    (hi : ∀ w s, exec (i w) s = runLong op none w s [] (laneBody fun x s l => (s.setq x.uid x.ci l x.w.d.toNat (q x l), .next))) :
    Ends op none [] i (fun _ => True)
      fun x => (x.act.foldl (fun (s : State) l => s.setq x.uid x.ci l x.w.d.toNat (q x l)) x.s0, x.allNext) :=
  ends_of_body hi fun _ _ => laneBody_of_next (fun _ => True) trivial fun _ _ _ _ => ⟨rfl, trivial⟩

theorem fp32_nanBits : fp32.nanBits = 0x7FC00000 := by decide

theorem qmid_writes : Writes 0x8C none [] .qmid (fun x l =>
    let q := x.q l x.w.a
    x.result 32 (if q.nan ∨ q.und then 0x7FC00000 else match q.iv with
      | (.fin a, .fin b) => (roundQ fp32 .rne false ((a.add b).scale (-1))).1
      | (.fin _, _) => q.lo.toNat
      | (_, .fin _) => q.hi.toNat
      | _ => 0x7FC00000)) :=
  writes_of_exec fun w s => by simp only [← fp32_nanBits, ← Bool.or_eq_true]; rfl

/-- Settles O25: `qcmp` by what its enclosures say at issue, the others by their bodies. -/
theorem trackedReadsAndRequests : Obligations.TrackedReadsAndRequests := by
  refine ⟨setq_ends fun _ _ => rfl, setq_ends fun _ _ => rfl, qmid_writes, writes_of_exec fun _ _ => rfl,
    ends_of_body (fun _ _ => rfl) fun x _ => laneBody_eq qstatLane x, fun r => ?_, ?_, ends_of_body (fun _ _ => rfl) fun _ _ => rfl,
    ends_of_body (fun _ _ => rfl) fun _ _ => rfl, qldd_ends, fun x lanes => parks_of_ne_nil x⟩
  · exact ends_of_body (body := qcmpBody) (fun _ _ => rfl) fun x hx => qcmpBody_of_decided fun l hl => qcmpNow_of_test (hx l hl)
  · exact ends_of_body (body := qcmpBody) (fun _ _ => rfl) fun x hx => qcmpBody_of_open fun l hl => qcmpNow_of_test (hx l hl)

/-! ### The sweep unit (R165) -/

theorem sweepOne_frees {r : Reel} {h : Nat} {rest : List Nat} {n : RNode} (hs : r.sweep = h :: rest) (hn : r.node? h = some n) :
    r.sweepOne.node? h = none := by
  have hdrop : ∀ (r : Reel) k, (if k = 0 then r else r.drop k).places = r.places := fun r k => by
    split
    · rfl
    · exact r.drop_places k
  simp only [Reel.sweepOne, hs, hn, Reel.node?_eq_none_iff, Reel.foldl_places _ hdrop]
  simp [Reel.places]

theorem exec_reelSweep {s : State} {uid : Nat} {b : Block} (hb : s.block? uid = some b) (hc : b.onCore = true) :
    exec (.reelSweep uid) s = .next (s.setReel uid b.body.reel.sweepOne) := by
  change execReelSweep uid s = _
  simp only [execReelSweep, hb, hc, if_true]

/-! ### The answers of the retake engine (R171, R172) -/

/-- The state in which the engine has answered request `id` of a block with `v`. -/
def State.answered (s : State) (b : Block) (id : Nat) (v : RetakeRes) : State :=
  let a := s.endBring (dieOf b.core) (cmdReader id)
  { a with retakes := mapWhere (fun q => q.id == id) (fun q => { q with res := some v }) a.retakes }

/-- The requests of a group. -/
def State.retakesOf (s : State) (group : Nat) : List Retake := s.retakes.filter fun q => q.group == group

section
variable {s s0 : State} {id : Nat} {r : Retake} {b : Block} {t : Thread} {v : RetakeRes}

/-- No earlier request of a block on the core waits for its answer. -/
theorem retake_oldest (h : ∀ q ∈ s.retakes.takeWhile (fun q => q.id != id), q.res.isNone = true →
      ∀ c, s.block? q.uid = some c → c.core ≠ b.core ∨ c.state ≠ .resident) :
    (s.retakes.takeWhile fun q => q.id != id).any (fun q => q.res.isNone && (match s.block? q.uid with
      | some c => c.core == b.core && c.state == .resident
      | none => false)) = false := by
  refine List.any_eq_false.mpr fun q hq hbusy => ?_
  obtain ⟨hnone, hcore⟩ := Bool.and_eq_true_iff.mp hbusy
  cases hc : s.block? q.uid with
  | none => rw [hc] at hcore; cases hcore
  | some c =>
    rw [hc] at hcore
    simp only [Bool.and_eq_true, beq_iff_eq] at hcore
    exact (h q hq hnone c hc).elim (· hcore.1) (· hcore.2)

/-- The answer to the oldest request; with the last of its group the group's lanes complete. -/
theorem exec_retakeRequestDone (hr : s.retakes.find? (fun r => r.id == id && r.res.isNone) = some r) (hb : s.block? r.uid = some b)
    (ht : s.thread? r.uid r.ci r.lane = some t) (hres : b.state = .resident)
    (hold : ∀ q ∈ s.retakes.takeWhile (fun q => q.id != id), q.res.isNone = true →
      ∀ c, s.block? q.uid = some c → c.core ≠ b.core ∨ c.state ≠ .resident) (ha : s.answer b r t = (s0, some v)) :
    exec (.retakeRequestDone id) s = .next (if ∀ q ∈ (s0.answered b id v).retakesOf r.group, q.res.isSome = true then
      { s0.answered b id v with retakes := (s0.answered b id v).retakes.filter fun q => q.group != r.group }.resumeGroup b
        (sortBy (·.lane) ((s0.answered b id v).retakesOf r.group)) else s0.answered b id v) := by
  change execRetakeRequestDone id s = _
  simp only [execRetakeRequestDone, hr, hb, ht, ha]
  refine (if_neg fun hbusy => ?_).trans ?_
  · rcases (Bool.or_eq_true _ _).mp hbusy with hearlier | hstate
    · exact Bool.false_ne_true ((retake_oldest hold).symm.trans hearlier)
    · exact of_decide_eq_true hstate hres
  · by_cases hall : ∀ q ∈ (s0.answered b id v).retakesOf r.group, q.res.isSome = true
    · rw [if_pos hall]; exact if_pos (List.all_eq_true.mpr hall)
    · rw [if_neg hall]; exact if_neg (mt List.all_eq_true.mp hall)

end

/-- Settles O26: the sweep frees the handle that it takes, and an answer is that of `exec_retakeRequestDone`. -/
theorem trackedEvents : Obligations.TrackedEvents :=
  ⟨fun _ _ _ => exec_reelSweep, fun _ _ _ _ => sweepOne_frees,
   fun _ _ _ _ _ hr hb ht hres hold _ _ ha => exec_retakeRequestDone hr hb ht hres hold ha⟩

end Sys2Proof.Machine

/-! The family of R182 to R205: the tile instructions, and the events of the array and of the tile store. Where its checks pass, an
instruction of R184 is one command (`tileBody_of_ok`), so that each clause rests on what its checks ask for. -/

namespace Sys2Proof.Machine
open Sys2Proof

/-! ### The checks at issue (R184) -/

theorem need_of {ok : Bool} (h : ok = true) (f : LaneFault) (k : Except LaneFault TileCmd) : need ok f k = k := if_pos h

theorem isBound_of {b : Block} {t : Nat} (h : (b.tile t).st ≠ .unbound) : b.isBound t = true := bne_iff_ne.mpr h

theorem mkLoad_ok {b : Block} {t addr : Nat} (ht : (b.tile t).st ≠ .unbound) (ha : addr % 32 = 0) (hv : addr < 2 ^ 53)
    (k : TileCmd) : mkLoad b t addr k = .ok k := by
  rw [mkLoad, need_of (isBound_of ht), need_of (beq_iff_eq.mpr ha), need_of (decide_eq_true hv)]

theorem mkRun_ok {b : Block} {t a ks : Nat} (ht : (b.tile t).st ≠ .unbound) (ha : a % 32 = 0) (h1 : 1 ≤ ks) (h4096 : ks ≤ 4096)
    (hrange : a + wSlot (b.wreg t) * ks * (b.tile t).m * wBlocks (b.wreg t) ≤ b.sheet.scratch)
    (hprec : precOk ((b.wreg t).toNat % 2 ^ 32) = true) (hn : (b.tile t).n ≤ wMaxN (b.wreg t)) (k : TileCmd) :
    mkRun b t a ks k = .ok k := by
  have hlt : ks < 2 ^ 13 := by omega
  have hmod : ks % 2 ^ 13 = ks := Nat.mod_eq_of_lt hlt
  have hctl : (ks / 2 ^ 13 == 0 && decide (1 ≤ ks) && decide (ks ≤ 4096)) = true := by rw [Nat.div_eq_of_lt hlt]; simp [h1, h4096]
  simp only [mkRun, hmod]
  rw [need_of (isBound_of ht), need_of (beq_iff_eq.mpr ha), need_of (decide_eq_true hrange), need_of hctl, need_of hprec,
    need_of (decide_eq_true hn)]

theorem mkSave_ok {x : Ctx} (ht : x.dtile.st ≠ .unbound) (ha : x.a x.low 64 % 64 = 0) :
    mkSave x x.b = .ok (x.cmd x.b [x.w.d.toNat] (x.a x.low 64) 0 []) := by
  rw [mkSave, need_of (isBound_of ht), need_of (beq_iff_eq.mpr ha)]

theorem sliceCtlOk_of {bz : Bool} {v : Nat} (hv : v < 2 ^ 28) (he : bz = true ∨ v / 256 % 256 = 0) : sliceCtlOk bz v = true := by
  rw [sliceCtlOk, Nat.div_eq_of_lt hv]
  rcases he with he | he
  · simp [he]
  · simp [bitsOf, he]

/-! ### One command for the bundle (R184) -/

section
variable {make : Ctx → Block → Except LaneFault TileCmd} {after : Ctx → State → Nat → State}

/-- Where its checks pass, an instruction issues its command, and does at once what it does at issue. -/
theorem tileBody_of_ok {x : Ctx} {k : TileCmd} {now : State → State} (hact : x.act ≠ []) (hk : make x x.b = .ok k)
    (hnow : after x (x.s0.issueCmd x.uid k).1 x.s0.nextId = now (x.s0.issueCmd x.uid k).1) :
    tileBody make after x = .done (x.command k now).1 (x.command k now).2 := by
  rw [tileBody, if_neg (mt List.isEmpty_iff.mp hact), hk, Ctx.command, ← hnow]
  rfl

theorem ends_of_tileBody {op : Nat} {fn : Option Nat} {reads : List ReadAs} {i : Fields → Instr} {ok : Ctx → Prop}
    {k : Ctx → TileCmd} {now : Ctx → State → State} (hi : ∀ w s, exec (i w) s = runLong op fn w s reads (tileBody make after))
    (hnow : ∀ x s, after x s x.s0.nextId = now x s) (hk : ∀ x, ok x → x.act ≠ [] ∧ make x x.b = .ok (k x)) :
    Ends op fn reads i ok fun x => x.command (k x) (now x) :=
  ends_of_body hi fun x hx => tileBody_of_ok (hk x hx).1 (hk x hx).2 (hnow x _)

end

/-! ### Precision registers (R187) -/

theorem mprec_ends : Ends 0xD0 none (lowRead [0]) .mprec (fun x => x.act ≠ [] ∧ precOk (x.a x.low 32) = true) (fun x =>
    let f : BitVec 64 → BitVec 64 := fun r => BitVec.ofNat 64 (setBits r.toNat 0 32 (x.a x.low 32))
    (x.s0.updBlock x.uid fun b => { b with body := { b.body with prec := updAt b.body.prec x.w.d.toNat f } }, [])) := by
  have hexec : ∀ w s, exec (.mprec w) s = execMprec w s := fun _ _ => rfl
  refine ends_of_body (fun w s => (hexec w s).trans rfl) fun x ⟨hact, hok⟩ => ?_
  rw [if_neg (mt List.isEmpty_iff.mp hact)]
  simp only [hok, Bool.not_true, Bool.false_eq_true, if_false]

theorem mscale_ends : Ends 0xD4 none (lowRead [0]) .mscale
    (fun x => x.act ≠ [] ∧ -512 ≤ sext (x.a x.low 32) 32 ∧ sext (x.a x.low 32) 32 ≤ 511) (fun x =>
    let f : BitVec 64 → BitVec 64 := fun r => BitVec.ofNat 64 (setBits r.toNat 32 10 (x.a x.low 32 % 1024))
    (x.s0.updBlock x.uid fun b => { b with body := { b.body with prec := updAt b.body.prec x.w.d.toNat f } }, [])) := by
  have hexec : ∀ w s, exec (.mscale w) s = execMscale w s := fun _ _ => rfl
  refine ends_of_body (fun w s => (hexec w s).trans rfl) fun x ⟨hact, hlow, hhigh⟩ => ?_
  rw [if_neg (mt List.isEmpty_iff.mp hact)]
  exact if_neg (by omega)

/-! ### `msave.stop` (R203) -/

/-- The block of an issue as it stood before. -/
theorem issueCtx_block? {s : State} {op len : Nat} {w : Fields} {x : Ctx} (h : s.issueCtx op len w = some x) :
    s.block? x.uid = some x.b := by
  unfold State.issueCtx at h
  split at h
  · cases h
  · split at h
    · cases h
    next hb =>
      split at h
      · cases h
      · cases h; exact hb

theorem issueCtx_s0_block? {s : State} {op len : Nat} {w : Fields} {x : Ctx} (h : s.issueCtx op len w = some x) :
    x.s0.block? x.uid = some (x.b.updCrew x.ci fun c => c.inCycle x.clk) := by
  rw [issueCtx_s0 h]
  exact (updBlock_block? s _ _ (fun b => b.updCrew x.ci fun c => c.inCycle x.clk) fun _ => rfl).trans
    (by rw [if_pos rfl, issueCtx_block? h]; rfl)

/-- A block with a command more at the end of its order. -/
def Block.withCmd (b : Block) (k : TileCmd) : Block := { b with cmds := b.cmds ++ [k] }

theorem issueCmd_fst (s : State) (uid : Nat) (k : TileCmd) :
    (s.issueCmd uid k).1 = s.fresh.2.updBlock uid fun b => b.withCmd { k with id := s.nextId } := rfl

/-- The commands of the block once an instruction has issued one. -/
theorem issueCmd_block? {s : State} {op len : Nat} {w : Fields} {x : Ctx} (h : s.issueCtx op len w = some x) (k : TileCmd) :
    (x.s0.issueCmd x.uid k).1.block? x.uid =
      some ((x.b.updCrew x.ci fun c => c.inCycle x.clk).withCmd { k with id := x.s0.nextId }) := by
  have hfresh : x.s0.fresh.2.block? x.uid = some (x.b.updCrew x.ci fun c => c.inCycle x.clk) := issueCtx_s0_block? h
  rw [issueCmd_fst, updBlock_block? x.s0.fresh.2 _ _ (fun b => b.withCmd _) fun _ => rfl, if_pos rfl, hfresh]; rfl

section
variable {w : Fields} {s : State} {x : Ctx}

theorem msaveStop_free (h : IssuesLong 0xD6 (some 1) (lowRead [0]) w s x) (hact : x.act ≠ []) (ht : x.dtile.st ≠ .unbound)
    (ha : x.a x.low 64 % 64 = 0) (hcmds : ∀ k ∈ x.b.cmds, k.stops = none ∧ ¬(k.op = 0xD2 ∧ k.dest = x.w.d.toNat)) :
    exec (.msaveStop w) s = .next (x.ends (x.command (x.cmd x.b [x.w.d.toNat] (x.a x.low 64) 0 []) id).1 []) := by
  have hruns : x.b.cmds.filter (fun e => e.op == 0xD2 && e.dest == x.w.d.toNat) = [] :=
    List.filter_eq_nil_iff.mpr fun k hk hrun => (hcmds k hk).2 (by simpa using hrun)
  refine exec_of_body (fun _ _ => rfl) h (tileBody_of_ok (now := id) hact ?_ ?_)
  · simp only [mkSave_ok ht ha, hruns]; rfl
  · have hstops : ∀ m ∈ x.b.cmds ++ [{ x.cmd x.b [x.w.d.toNat] (x.a x.low 64) 0 [] with id := x.s0.nextId }], m.stops = none := by
      intro m hm
      rcases List.mem_append.mp hm with hm | hm
      · exact (hcmds m hm).1
      · rw [List.mem_singleton.mp hm]; rfl
    simp only [issueCmd_block? h.1, Block.withCmd, Block.updCrew]
    rw [List.find?_eq_none.mpr]
    · rfl
    · intro k _ hany
      obtain ⟨m, hm, hstop⟩ := List.any_eq_true.mp hany
      simp [hstops m hm] at hstop

theorem msaveStop_run {k : TileCmd} (h : IssuesLong 0xD6 (some 1) (lowRead [0]) w s x) (hact : x.act ≠ [])
    (ht : x.dtile.st ≠ .unbound) (ha : x.a x.low 64 % 64 = 0) (hcmds : x.b.cmds = [k]) (hop : k.op = 0xD2)
    (hdest : k.dest = x.w.d.toNat) (hhold : k.hold = none)
    (hserved : x.s0.served x.b.core x.uid k.id = false) :
    exec (.msaveStop w) s = .next (x.ends (x.command { x.cmd x.b [x.w.d.toNat] (x.a x.low 64) 0 [] with stops := some k.id }
      fun s => s.stopRun x.uid k).1 []) := by
  refine exec_of_body (fun _ _ => rfl) h (tileBody_of_ok (now := fun s => s.stopRun x.uid k) hact ?_ ?_)
  · simp only [mkSave_ok ht ha, hcmds]
    simp [hop, hdest]
  · simp only [issueCmd_block? h.1, Block.withCmd, Block.updCrew, hcmds]
    rw [List.cons_append, List.find?_cons_of_pos (by simp)]
    have hbusy : (x.s0.served x.b.core x.uid k.id || k.hold.isSome) = false := by rw [hserved, hhold]; rfl
    exact if_neg (ne_true_of_eq_false hbusy)

end

/-! ### Reconstruction and slices (R197, R198) -/

theorem mrecon_ends : Ends 0xDB none [] .mrecon
    (fun x =>
      let ts := [x.w.a.toNat, x.w.b.toNat, x.w.c.toNat].take (x.mod + 1)
      x.act ≠ [] ∧ x.dtile.st ≠ .unbound ∧ wRN (x.b.wreg x.w.d.toNat) = false ∧
        ∀ t ∈ ts, (x.b.tile t).st ≠ .unbound ∧ wRN (x.b.wreg t) = true ∧ (x.b.tile t).m = x.dtile.m ∧ (x.b.tile t).n = x.dtile.n)
    (fun x => x.command (x.cmd x.b (x.w.d.toNat :: [x.w.a.toNat, x.w.b.toNat, x.w.c.toNat].take (x.mod + 1)) 0 0 []) id) := by
  refine ends_of_tileBody (fun _ _ => rfl) (fun _ _ => rfl) fun x ⟨hact, ht, hd, hsrc⟩ => ⟨hact, ?_⟩
  have hbound : ∀ t ∈ (tileNames 0xDB x.w).drop 1, x.b.isBound t = true := fun t hmem => isBound_of (hsrc t hmem).1
  have hrn : ∀ t ∈ (tileNames 0xDB x.w).drop 1, wRN (x.b.wreg t) = true := fun t hmem => (hsrc t hmem).2.1
  have hdims : ∀ t ∈ (tileNames 0xDB x.w).drop 1,
      ((x.b.tile t).m == x.dtile.m && (x.b.tile t).n == x.dtile.n) = true := fun t hmem => by
    obtain ⟨_, _, hm, hn⟩ := hsrc t hmem
    simp [hm, hn]
  refine (need_of ?_ ..).trans (need_of ?_ ..)
  · rw [isBound_of ht, List.all_eq_true.mpr hbound]; rfl
  · rw [hd, List.all_eq_true.mpr hrn]; exact List.all_eq_true.mpr hdims

theorem tsl_ends : Ends 0xD8 none (lowRead [1]) .tsl
    (fun x => x.act ≠ [] ∧ (x.b.tile x.w.a.toNat).st ≠ .unbound ∧ x.bv x.low 32 < 2 ^ 28 ∧
      (x.fn = 2 ∨ x.bv x.low 32 / 256 % 256 = 0) ∧ ¬(x.fn = 2 ∧ wRN (x.b.wreg x.w.a.toNat) = true))
    (fun x => x.command (x.cmd x.b [x.w.a.toNat] 0 (x.bv x.low 32) (x.act.map fun l => (l, 0)))
      fun s => s.updCrew x.uid x.ci fun c => x.act.foldl (fun c l => c.pushPending (x.s0.nextId + 1) l x.w) c) := by
  refine ends_of_tileBody (fun _ _ => rfl) (fun _ _ => rfl) fun x ⟨hact, ht, hv, he, hrn⟩ => ⟨hact, ?_⟩
  have hctl : sliceCtlOk (x.fn == 2) (x.bv x.low 32) = true := sliceCtlOk_of hv (he.imp_left beq_iff_eq.mpr)
  have hfmt : (x.fn == 2 && wRN (x.b.wreg x.w.a.toNat)) = false := eq_false_of_ne_true fun h =>
    have ⟨hbz, hres⟩ := Bool.and_eq_true_iff.mp h
    hrn ⟨beq_iff_eq.mp hbz, hres⟩
  exact (need_of (isBound_of ht) ..).trans ((need_of hctl ..).trans (need_of (by rw [hfmt]; rfl) ..))

/-! ### Waits and the state word (R200, R201) -/

/-- Steps that leave the state as it is and give each lane its result. -/
theorem foldl_keeps {σ ρ : Type} {act : σ → Nat → σ × ρ} {s : σ} {r : Nat → ρ} {ls : List Nat}
    (h : ∀ l ∈ ls, act s l = (s, r l)) (acc : List (Nat × ρ)) :
    ls.foldl (fun a l => ((act a.1 l).1, a.2 ++ [(l, (act a.1 l).2)])) (s, acc) = (s, acc ++ ls.map fun l => (l, r l)) := by
  induction ls generalizing acc with
  | nil => simp
  | cons l ls ih =>
    obtain ⟨hl, hls⟩ := List.forall_mem_cons.mp h
    rw [List.foldl_cons, hl, ih hls, List.append_assoc]
    rfl

theorem laneBody_of_keeps {x : Ctx} {act : Ctx → State → Nat → State × LaneRes} {r : Nat → LaneRes}
    (h : ∀ l ∈ x.act, act x x.s0 l = (x.s0, r l)) : laneBody act x = .done x.s0 (x.act.map fun l => (l, r l)) := by
  rw [laneBody_eq, Ctx.lanesRun, foldl_keeps h]
  rfl

theorem exec_twaitT (w : Fields) (s : State) : exec (.twaitT w) s = execTwaitT w s := rfl

theorem twaitT_free : Ends 0xDA (some 1) [] .twaitT (fun x => x.b.tileBusy x.w.a.toNat x.s0.nextId = false)
    (fun x => (x.act.foldl (fun (s : State) l => s.updThread x.uid x.ci l fun t =>
      t.setPred x.w.d.toNat ((x.b.tile x.w.a.toNat).st == .bound)) x.s0, x.allNext)) := by
  refine ends_of_body (fun w s => (exec_twaitT w s).trans rfl) fun x h => ?_
  refine laneBody_of_next (fun s => s.nextId = x.s0.nextId) rfl fun s hs l _ => ⟨?_, hs⟩
  simp only [hs, h, Bool.false_eq_true, if_false]

theorem twaitT_busy : Ends 0xDA (some 1) [] .twaitT (fun x => x.b.tileBusy x.w.a.toNat x.s0.nextId = true)
    (fun x => (x.s0, x.act.map fun l => (l, .wait (.tile x.w.a.toNat x.s0.nextId x.w.d.toNat)))) := by
  refine ends_of_body (fun w s => (exec_twaitT w s).trans rfl) fun x h => ?_
  exact laneBody_of_keeps fun l _ => if_pos h

theorem ofBool_mul (p : Bool) (n : Nat) : ofBool p * n = if p = true then n else 0 := by cases p <;> simp [ofBool]

theorem mstat_writes : Writes 0xD5 none [] .mstat (fun x _ =>
    let t := x.b.tile x.w.a.toNat
    let cmds := x.b.cmds.filter fun c => c.tiles.contains x.w.a.toNat
    x.result 32 ((match t.st with | .unbound => 0 | .pending => 1 | .bound => 2 | .error => 3) * 2 ^ 30 +
      (if t.ue = true ∧ t.st ≠ .unbound then 2 ^ 29 else 0) + (if t.st = .error then t.cause * 2 ^ 24 else 0) +
      min cmds.length 255 * 2 ^ 16 + (match cmds.find? fun c => c.op == 0xD2 with | some c => c.kdone | none => 0))) := by
  refine writes_of_regBody (f := fun x _ => .ok (x.out 32 (mstatValue x.b x.w.a.toNat))) (fun _ _ => rfl) fun x _ => ?_
  simp only [mstatValue, ofBool_mul, Bool.and_eq_true, bne_iff_ne] <;> rfl

/-- Settles O27: the checks of each instruction hold, and its command is issued; the others by their bodies. -/
theorem tileCommands : Obligations.TileCommands := by
  refine ⟨mprec_ends, mscale_ends, ?mloadb, ?mrun, ?mzero, ?mzeroFree, ?msave, ?msaveStopFree, ?msaveStopRun, ?mrest, mrecon_ends,
    tsl_ends, ?tss, ends_of_body (fun _ _ => rfl) fun _ _ => rfl, twaitT_free, twaitT_busy, mstat_writes⟩
  case mloadb => exact ends_of_tileBody (fun _ _ => rfl) (fun _ _ => rfl) fun _ ⟨hact, ht, ha, hv⟩ => ⟨hact, mkLoad_ok ht ha hv _⟩
  case mrun =>
    exact ends_of_tileBody (fun _ _ => rfl) (fun _ _ => rfl) fun _ ⟨hact, ht, ha, h1, h4096, hrange, hprec, hn⟩ =>
      ⟨hact, mkRun_ok ht ha h1 h4096 hrange hprec hn _⟩
  case mzero => exact ends_of_tileBody (fun _ _ => rfl) (fun _ _ => rfl) fun _ ⟨hact, hdims⟩ => ⟨hact, need_of hdims ..⟩
  case mzeroFree => exact ends_of_tileBody (fun _ _ => rfl) (fun _ _ => rfl) fun _ ⟨hact, ht⟩ => ⟨hact, need_of (isBound_of ht) ..⟩
  case msave => exact ends_of_tileBody (fun _ _ => rfl) (fun _ _ => rfl) fun _ ⟨hact, ht, ha⟩ => ⟨hact, mkSave_ok ht ha⟩
  case msaveStopFree => exact fun _ _ _ h ⟨hact, ht, ha, hcmds⟩ => msaveStop_free h hact ht ha hcmds
  case msaveStopRun =>
    exact fun _ _ _ _ h ⟨hact, ht, ha, hcmds, hop, hdest, _, hhold, _, hserved⟩ =>
      msaveStop_run h hact ht ha hcmds hop hdest hhold hserved
  case mrest => exact ends_of_tileBody (fun _ _ => rfl) (fun _ _ => rfl) fun _ ⟨hact, ha⟩ => ⟨hact, need_of (beq_iff_eq.mpr ha) ..⟩
  case tss =>
    exact ends_of_tileBody (fun _ _ => rfl) (fun _ _ => rfl) fun _ ⟨hact, ht, hv, he⟩ =>
      ⟨hact, (need_of (isBound_of ht) ..).trans (need_of (sliceCtlOk_of hv (.inr he)) ..)⟩

/-! ### Units granted (R186) -/

theorem exec_tileAllocate_mzero {id n : Nat} {s : State} {b : Block} {k : TileCmd} (hk : s.tileCmd? id = some (b, k))
    (hwait : k.waiting = some n) (hfirst : s.firstWaiter b.core n = true) (hcore : b.onCore = true) (hhold : k.hold = none)
    (hop : k.op = 0xD3) (hunits : tileUnits k.m k.n ≤ s.freeUnits b.core) :
    exec (.tileAllocate id) s = .next ((s.grantUnits b k k.m k.n).endCmd b.uid id) := by
  change execTileAllocate id s = _
  have hready : (!s.firstWaiter b.core n || !b.onCore || k.hold.isSome) = false := by rw [hfirst, hcore, hhold]; rfl
  simp only [execTileAllocate, hk, hwait, hready, Bool.false_eq_true, if_false]
  rw [if_pos hop, if_neg (Nat.not_lt.mpr hunits)]

/-! ### The array (R190, R191, R195, R196, R205) -/

theorem exec_arrayPick {core : Nat} {s : State} {c : CoreSt} {b : Block} {k : TileCmd} (hc : s.cores[core]? = some c)
    (hidle : c.array = none)
    (hb : leastBy (fun (b : Block) => (b.vclock * 64 + b.ctx) * 2 ^ 96 + b.lin)
      ((s.tileKick core).blocks.filter fun b => b.core == core && b.onCore && !(s.tileKick core).frozen b.ctx &&
        b.cmds.any fun k => (s.tileKick core).arrayReady b k) = some b)
    (hk : b.cmds.find? (fun k => (s.tileKick core).arrayReady b k) = some k) :
    exec (.arrayPick core) s = .next ((s.tileKick core).updCore core fun c =>
      { c with array := some ⟨b.uid, k.id, k.op == 0xDB, []⟩ }) := by
  change execArrayPick core s = _
  simp only [execArrayPick, hc, hidle, Option.isSome_none, Bool.false_eq_true, if_false, hb, hk]

/-- An image is the one that the next step of an `mrun` needs (R189, R195). -/
def Image.IsFor (i : Image) (b : Block) (k : TileCmd) : Prop :=
  i.uid = b.uid ∧ i.tile = k.dest ∧ i.step = k.kdone ∧ ∀ col ∈ i.cols, col.length = wBlocks k.w0

theorem Image.IsFor.filter_eq {i : Image} {b : Block} {k : TileCmd} (h : i.IsFor b k) :
    ((some i).filter fun i => i.uid == b.uid && i.tile == k.dest && i.step == k.kdone &&
      i.cols.all fun c => c.length == wBlocks k.w0) = some i := by
  obtain ⟨hu, ht, hs, hcols⟩ := h
  have hall : (i.cols.all fun c => c.length == wBlocks k.w0) = true :=
    List.all_eq_true.mpr fun col hcol => beq_iff_eq.mpr (hcols col hcol)
  simp [hu, ht, hs, hall]

section
variable {core : Nat} {s : State} {c : CoreSt} {a : ArrayOp} {b : Block} {k : TileCmd} {i : Image}
  (hc : s.cores[core]? = some c) (ha : c.array = some a)
include hc ha

/-- The array of a core that serves a command, with the core. -/
theorem core_array : (s.cores[core]?.bind fun c => c.array.map fun a => (c, a)) = some (c, a) := by
  rw [hc, Option.bind_some, ha]; rfl

variable (hk : s.tileCmd? a.cmd = some (b, k)) (hop : k.op = 0xD2)
include hk hop

/-- The image for the step is in the array, and the step runs (R196). -/
theorem exec_imageLoaded {d : Nat} (hrun : a.running = false) (hdesc : (b.tile k.dest).desc = some d) (hi : c.image = some i)
    (hfor : i.IsFor b k) (hrn : i.rn = wRN k.w0) (hws : wWB k.w0 ≤ i.ws)
    (hwait : s.rangeWait b.uid (k.stepRange k.kdone).1 (k.stepRange k.kdone).2 false = none)
    (hbad : b.scratchBad (k.stepRange k.kdone).1 (k.stepRange k.kdone).2 = false) :
    exec (.imageLoaded core) s = .next ((s.updTile b.uid k.dest fun t => { t with ws := i.ws }).updCore core fun c =>
      { c with array := some { a with running := true,
                                      rows := s.scratchRead b.uid (k.stepRange k.kdone).1 (k.stepRange k.kdone).2 },
               image := some i }) := by
  change execImageLoaded core s = _
  have hidle : (a.running || decide (k.op ≠ 0xD2)) = false := by simp [hrun, hop]
  have hfmt : (i.rn != wRN k.w0 || decide (wWB k.w0 > i.ws)) = false := by simp [hrn, hws]
  simp only [execImageLoaded, core_array hc ha, hk, hdesc, hwait, hi, hfor.filter_eq, hidle, hfmt, hbad]
  rfl

/-- The step's end: the operation is done, stopped, or gives up the array (R194 to R196). -/
theorem exec_kStepEnd (hrun : a.running = true) (hi : c.image = some i) :
    let r := kStep k.w0 i (k.stepRows a.rows) (b.tile k.dest).acc
    let s1 := ((((s.updTile b.uid k.dest fun t => { t with acc := r.1 }).updBlock b.uid fun b =>
      { b with vclock := b.vclock + if wRN k.w0 then 75 * k.m else k.m * wWA k.w0 * wWB k.w0 }).updCmd b.uid k.id fun k =>
      { k with kdone := k.kdone + 1, flags := k.flags ||| r.2 }).freeArray core)
    exec (.kStepEnd core) s = .next (if k.ks ≤ k.kdone + 1 then s1.endCmd b.uid k.id
      else if ∃ m ∈ b.cmds, m.stops = some k.id then s1.stopRun b.uid { k with kdone := k.kdone + 1 }
      else s1.tileKick core) := by
  intro r s1
  change execKStepEnd core s = _
  have hbusy : (!a.running || decide (k.op ≠ 0xD2)) = false := by simp [hrun, hop]
  have hstop : ((b.cmds.any fun m => m.stops == some k.id) = true) = ∃ m ∈ b.cmds, m.stops = some k.id := by simp
  simp only [execKStepEnd, core_array hc ha, hk, hi, hbusy, Bool.false_eq_true, if_false, hstop]
  by_cases hlast : k.ks ≤ k.kdone + 1
  · rw [if_pos hlast, if_pos hlast]
  · rw [if_neg hlast, if_neg hlast]
    by_cases hmeet : ∃ m ∈ b.cmds, m.stops = some k.id
    · rw [if_pos hmeet, if_pos hmeet]
    · rw [if_neg hmeet, if_neg hmeet]

theorem exec_cimParityError (hrun : a.running = true) :
    exec (.cimParityError core) s = .next (s.updCore core fun c =>
      { c with array := some { a with running := false, rows := [] }, image := none }) := by
  change execCimParityError core s = _
  have hbusy : (a.running && k.op == 0xD2) = true := by rw [hrun, hop]; rfl
  simp only [execCimParityError, hc, ha, hk, hbusy, if_true]

end

/-! ### Commands performed (R185, R186) -/

section
variable {id : Nat} {s : State} {b : Block} {k : TileCmd} (hk : s.tileCmd? id = some (b, k)) (hready : s.cmdReady b k = true)
  (hcore : b.onCore = true)

include hready hcore

/-- A command that may start is not put off. -/
theorem cmdReady_starts : (!s.cmdReady b k || !b.onCore) = false := by
  rw [hready, hcore]; rfl

include hk

theorem exec_tileCommandComplete_skipped (hskip : b.skips k = true) (hop : k.op ≠ 0xD8) :
    exec (.tileCommandComplete id) s = .next (s.endCmd b.uid id) := by
  change execTileCommandComplete id s = _
  simp only [execTileCommandComplete, hk, cmdReady_starts hready hcore, hskip, hop, Bool.false_eq_true, if_false, if_true]

theorem exec_tileCommandComplete_tsl (hskip : b.skips k = false) (hop : k.op = 0xD8) :
    exec (.tileCommandComplete id) s = .next ((s.doSlice b k).endCmd b.uid id) := by
  change execTileCommandComplete id s = _
  simp only [execTileCommandComplete, hk, cmdReady_starts hready hcore, hskip, hop, Bool.false_eq_true, if_false]

theorem exec_tileCommandComplete_tss (hskip : b.skips k = false) (hop : k.op = 0xD9) :
    exec (.tileCommandComplete id) s = .next ((s.doStore b k).endCmd b.uid id) := by
  change execTileCommandComplete id s = _
  simp only [execTileCommandComplete, hk, cmdReady_starts hready hcore, hskip, hop, Bool.false_eq_true, if_false]

theorem exec_tileCommandComplete_mrecon (hskip : b.skips k = false) (hop : k.op = 0xDB) (hserved : s.served b.core b.uid id = true) :
    exec (.tileCommandComplete id) s = .next (((s.freeArray b.core).doRecon b k).endCmd b.uid id) := by
  change execTileCommandComplete id s = _
  simp only [execTileCommandComplete, hk, cmdReady_starts hready hcore, hskip, hop, hserved, Bool.false_eq_true, if_false, if_true]

end

/-! ### Errors of the tile store (R205) -/

section
variable {uid tile elem : Nat} {s : State} {b : Block}

theorem exec_tileStoreError_correctable (hb : s.block? uid = some b) (he : elem < (b.tile tile).acc.length) :
    exec (.tileStoreError uid tile elem true) s = .next { s with mgmt := { s.mgmt with ce := (s.mgmt.ce + 1) % 2 ^ 32 } } := by
  change execTileStoreError uid tile elem true s = _
  simp only [execTileStoreError, hb, if_neg (Nat.not_le.mpr he), if_true]

theorem exec_tileStoreError_uncorrectable (hb : s.block? uid = some b) (he : elem < (b.tile tile).acc.length) :
    exec (.tileStoreError uid tile elem false) s =
      .next ((({ s with mgmt := { s.mgmt with ue := (s.mgmt.ue + 1) % 2 ^ 16 } } : State).updTile uid tile fun t =>
        { t with ue := true, acc := updAt t.acc elem fun a => { a with poison := true } }).logEvent b.ctx
        { cls := 8, detail := 0, async := true, core := b.core, blk := b.lin, attempt := b.attempt, tag := b.launch }) := by
  change execTileStoreError uid tile elem false s = _
  simp only [execTileStoreError, hb, if_neg (Nat.not_le.mpr he), Bool.false_eq_true, if_false]

end

/-- Settles O28: each event by what it does with the command, the core or the block that it finds. -/
theorem tileEvents : Obligations.TileEvents :=
  ⟨fun _ _ _ _ _ hk hwait hfirst hcore hhold hop hunits => exec_tileAllocate_mzero hk hwait hfirst hcore hhold hop hunits,
   fun _ _ _ _ _ hc hidle hb hk => exec_arrayPick hc hidle hb hk,
   fun _ _ _ _ _ _ _ _ hc ha hk hrun hop hdesc hi hu ht hstep hcols hrn hws hwait hbad =>
     exec_imageLoaded hc ha hk hop hrun hdesc hi ⟨hu, ht, hstep, hcols⟩ hrn hws hwait hbad,
   fun _ _ _ _ _ _ _ hc ha hk hrun hop hi => exec_kStepEnd hc ha hk hop hrun hi,
   fun _ _ _ _ _ _ hc ha hk hrun hop => exec_cimParityError hc ha hk hop hrun,
   fun _ _ _ _ hk hready hcore => ⟨exec_tileCommandComplete_skipped hk hready hcore,
     exec_tileCommandComplete_tsl hk hready hcore, exec_tileCommandComplete_tss hk hready hcore,
     exec_tileCommandComplete_mrecon hk hready hcore⟩,
   fun _ _ _ _ _ _ hb => ⟨fun hcorr he => hcorr ▸ exec_tileStoreError_correctable hb he,
     fun hcorr he => hcorr ▸ exec_tileStoreError_uncorrectable hb he⟩⟩

end Sys2Proof.Machine

/-! The family of R246 to R262: the entries that copy instructions put in the dolly, and the start and the end of a copy. A lane whose
descriptor nothing holds back reads it (`scratchHold_free`); that a finished copy has left the dolly rests on what the waits that it ends
leave of the copies (`freeCopyWaits_copies`, `tileKick_copies`). -/

namespace Sys2Proof.Machine
open Sys2Proof

/-! ### From a lane to an instruction -/

theorem runs_of_body {op : Nat} {fn : Option Nat} {reads : List ReadAs} {i : Fields → Instr} {ok : Ctx → Prop} {body : Ctx → BodyRes}
    (hi : ∀ w s, exec (i w) s = runLong op fn w s reads body) : Runs op fn reads i ok body :=
  fun _ _ _ _ _ hx _ hb _ => exec_of_body hi hx hb

theorem laneBody_of_one {x : Ctx} {act : Ctx → State → Nat → State × LaneRes} {l : Nat} (h : x.act = [l]) :
    laneBody act x = .done (act x x.s0 l).1 [(l, (act x x.s0 l).2)] := by
  rw [laneBody_eq, Ctx.lanesRun, h]; rfl

/-! ### Descriptors (R235, R248, R256, R393) -/

section
variable {x : Ctx} {s : State} {sa n align : Nat}

theorem badScratch_of_clean (h : (s.blockOr x.b).body.bad = []) : x.badScratch s sa n = false := by
  rw [Ctx.badScratch, Block.scratchBad, h]; rfl

/-- A read of scratchpad that no check, no bad line and no copy stops. -/
theorem scratchHold_free {act : State → State × LaneRes} (hc : x.checkScratch sa n align = none)
    (hbad : (s.blockOr x.b).body.bad = []) (hw : s.rangeWait x.uid sa n false = none) :
    scratchHold x s sa n align act = act s := by
  simp only [scratchHold, hc, badScratch_of_clean hbad, hw, Bool.false_eq_true, if_false]

/-- The block of an issue is there when its body runs. -/
theorem issueCtx_blockOr {op len : Nat} {w : Fields} (h : s.issueCtx op len w = some x) :
    x.s0.block? x.uid = some (x.s0.blockOr x.b) := by
  rw [State.blockOr, issueCtx_uid h, issueCtx_s0_block? h]; rfl

theorem copyBad_of_checkCopy {op da scratch v : Nat} {d : CopyDesc} (h : checkCopy op da scratch v = .ok d) : copyBad op v = none := by
  unfold checkCopy at h
  dsimp only at h
  split at h
  · cases h
  next hbad => exact hbad

end

/-! ### Copies that enter (R246 to R248, R258) -/

section
variable {w : Fields} {s : State} {x : Ctx} {l : Nat} {d : CopyDesc}

/-- A lane of `cpy`, `cpyd` or `cpyr` whose descriptor is at hand and right enters its copy. -/
theorem copyLane_enters {op len : Nat} (h : s.issueCtx op len w = some x) (hl : l ∈ x.act)
    (hok : x.scratchOk (fun k => x.a k 32) 32 false)
    (hd : checkCopy op (x.a l 32) x.b.sheet.scratch (fromBytes (x.s0.scratchRead x.uid (x.a l 32) 32)) = .ok d) :
    copyLane x x.s0 l = ((x.s0.enterCopy (x.newCopy x.s0 l (x.a l 32) d)).1, .next) := by
  obtain ⟨halign, hin, hwait, -, hbad⟩ := hok l hl
  rw [← (issueCtx_op h).1] at hd
  rw [copyLane, scratchHold_free (checkScratch_none halign hin) (hbad _ (issueCtx_blockOr h)) hwait, hd]

/-- The instruction of one lane whose body is `copyLane`. -/
theorem exec_copy_single {op : Nat} {i : Fields → Instr} (hi : ∀ w s, exec (i w) s = runLong op none w s readsA (laneBody copyLane))
    (hx : IssuesLong op none readsA w s x) (hl : x.act = [l]) (hok : x.scratchOk (fun k => x.a k 32) 32 false)
    (hd : checkCopy op (x.a l 32) x.b.sheet.scratch (fromBytes (x.s0.scratchRead x.uid (x.a l 32) 32)) = .ok d) :
    exec (i w) s = .next (x.ends (x.s0.enterCopy (x.newCopy x.s0 l (x.a l 32) d)).1 [(l, .next)]) := by
  refine exec_of_body hi hx ((laneBody_of_one hl).trans ?_)
  rw [copyLane_enters hx.1 (by simp [hl]) hok hd]

/-- `cpym` where no tile that a follow-on names has still to get its dimensions: the lanes' bodies, then the core's commands. -/
theorem exec_cpym {t : State} {rs : List (Nat × LaneRes)} (hx : IssuesLong 0xC1 none readsA w s x)
    (hpends : ∀ l ∈ x.act, x.b.followPends x.c x.clk x.w l = false) (hb : laneBody cpymLane x = .done t rs) :
    exec (.cpym w) s = .next (x.ends (t.tileKick x.b.core) rs) := by
  have hexec : exec (.cpym w) s = execCpym w s := rfl
  have hany : x.act.any (x.b.followPends x.c x.clk x.w) = false := List.any_eq_false.mpr fun l hl => by simp [hpends l hl]
  rw [hexec, execCpym, runLong_issues hx, hany, hb]
  rfl

/-- A lane of `cpym` enters its copy, and the command that follows it takes its place in the tile order. -/
theorem cpymLane_enters {len : Nat} {k : TileCmd} (h : s.issueCtx 0xC1 len w = some x) (hcheck : x.checkScratch (x.a l 32) 64 32 = none)
    (hwait : x.s0.rangeWait x.uid (x.a l 32) 64 false = none) (hbad : (x.s0.blockOr x.b).body.bad = [])
    (hfollow : followBad (fromBytes (x.s0.scratchRead x.uid (x.a l 32) 64)) = none)
    (hd : checkCopy 0xC1 (x.a l 32) x.b.sheet.scratch (fromBytes (x.s0.scratchRead x.uid (x.a l 32) 64)) = .ok d)
    (hk : followCmd x (x.s0.blockOr x.b) (fromBytes (x.s0.scratchRead x.uid (x.a l 32) 64)) = .ok k) :
    cpymLane x x.s0 l =
      let r := x.s0.enterCopy (x.newCopy x.s0 l (x.a l 32) d)
      let q := r.1.issueCmd x.uid { k with copy := some r.2 }
      (q.1.updCopy r.2 fun c => { c with follow := some q.2 }, .next) := by
  rw [← (issueCtx_op h).1] at hd
  rw [cpymLane, scratchHold_free hcheck hbad hwait]
  simp only [copyBad_of_checkCopy hd, hfollow, hd, hk, Option.orElse_none]

theorem exec_cpym_single {k : TileCmd} (hx : IssuesLong 0xC1 none readsA w s x) (hl : x.act = [l])
    (hpends : x.b.followPends x.c x.clk x.w l = false) (hcheck : x.checkScratch (x.a l 32) 64 32 = none)
    (hwait : x.s0.rangeWait x.uid (x.a l 32) 64 false = none) (hbad : (x.s0.blockOr x.b).body.bad = [])
    (hfollow : followBad (fromBytes (x.s0.scratchRead x.uid (x.a l 32) 64)) = none)
    (hd : checkCopy 0xC1 (x.a l 32) x.b.sheet.scratch (fromBytes (x.s0.scratchRead x.uid (x.a l 32) 64)) = .ok d)
    (hk : followCmd x (x.s0.blockOr x.b) (fromBytes (x.s0.scratchRead x.uid (x.a l 32) 64)) = .ok k) :
    let r := x.s0.enterCopy (x.newCopy x.s0 l (x.a l 32) d)
    let q := r.1.issueCmd x.uid { k with copy := some r.2 }
    exec (.cpym w) s = .next (x.ends ((q.1.updCopy r.2 fun c => { c with follow := some q.2 }).tileKick x.b.core) [(l, .next)]) := by
  refine exec_cpym hx (by simpa [hl] using hpends) ((laneBody_of_one hl).trans ?_)
  rw [cpymLane_enters hx.1 hcheck hwait hbad hfollow hd hk]

end

/-! ### Entries without a descriptor, seals and waits (R247, R254, R259, R262) -/

theorem comb_ends : Ends 0xC4 none readsAB .comb (fun x => ∀ l ∈ x.act, x.a l 64 % 4 = 0) (fun x =>
    (x.act.foldl (fun (s : State) l =>
      (s.enterCopy { x.newCopy s l 0 (plainDesc (x.a l 64) (x.bv l 32)) with range := none, dest := [] }).1) x.s0, x.allNext)) := by
  have hexec : ∀ w s, exec (.comb w) s = execComb w s := fun _ _ => rfl
  refine ends_of_body (fun w s => (hexec w s).trans rfl) fun x halign => ?_
  refine laneBody_of_next (fun _ => True) trivial fun _ _ l hl => ⟨?_, trivial⟩
  rw [if_neg (not_not_intro (halign l hl))]

theorem flagr_ends : Ends 0xC8 none readsAB .flagr
    (fun x => x.b.sheet.det = false ∧ x.b.inside = false ∧ ∀ l ∈ x.act, x.a l 64 % 4 = 0 ∧ x.bv l 32 ≤ 3) (fun x =>
    (x.act.foldl (fun (s : State) l =>
      (s.enterCopy { x.newCopy s l 0 (plainDesc (x.a l 64) 4) with range := none, dest := [], queue := some (x.bv l 32) }).1) x.s0,
      x.allNext)) := by
  have hexec : ∀ w s, exec (.flagr w) s = execFlagr w s := fun _ _ => rfl
  refine ends_of_body (fun w s => (hexec w s).trans rfl) fun x ⟨hdet, hinside, hok⟩ => ?_
  simp only [hdet, hinside, Bool.false_eq_true, if_false]
  refine laneBody_of_next (fun _ => True) trivial fun _ _ l hl => ⟨?_, trivial⟩
  obtain ⟨halign, hdie⟩ := hok l hl
  rw [if_neg (Nat.not_lt.mpr hdie), if_neg (not_not_intro halign)]

theorem seal_ends : Ends 0xC5 none [] .seal (fun _ => True) (fun x => (x.act.foldl (fun (s : State) l =>
    let n := ((x.t l).batch.toNat + 1) % 2 ^ 32
    (s.updCrew x.uid x.ci fun c => wrvOf c x.clk l x.w x.w.d 32 n false).updThread x.uid x.ci l fun t =>
      { t with batch := BitVec.ofNat 32 n }) x.s0, x.allNext)) := by
  have hexec : ∀ w s, exec (.seal w) s = execSeal w s := fun _ _ => rfl
  exact ends_of_body (fun w s => (hexec w s).trans rfl) fun _ _ =>
    laneBody_of_next (fun _ => True) trivial fun _ _ _ _ => ⟨rfl, trivial⟩

/-- A wait on batches that are all complete is no wait. -/
theorem bwait_ends : Ends 0xC6 none readsA .bwait
    (fun x => ∀ l ∈ x.act, x.s0.batchOpen x.uid x.ci l (x.t l) (x.a l 32) = false) (fun x => (x.s0, x.allNext)) :=
  ends_of_body (body := moveBody fun x l => if x.s0.batchOpen x.uid x.ci l (x.t l) (x.a l 32) then .wait (.batch (x.a l 32)) else .next)
    (fun _ _ => rfl) fun x hclosed => congrArg (BodyRes.done x.s0) <| List.map_congr_left fun l hl =>
      congrArg (Prod.mk l) (if_neg (Bool.eq_false_iff.mp (hclosed l hl)))

/-! ### What leaves the dolly's entries as they were -/

/-- Steps that leave the dolly's entries as they were, one after another. -/
theorem foldl_copies {β : Type} {f : State → β → State} (h : ∀ s k, (f s k).copies = s.copies) (ks : List β) (s : State) :
    (ks.foldl f s).copies = s.copies :=
  ks.foldlRecOn f (motive := fun t => t.copies = s.copies) rfl fun t ht k _ => (h t k).trans ht

theorem performLate_copies (s : State) (b : Block) (k : LateOp) : (s.performLate b k).copies = s.copies := by
  unfold State.performLate
  dsimp only
  split
  · rfl
  · split <;> rfl

theorem settleLate_copies (s : State) (uid : Nat) : (s.settleLate uid).copies = s.copies := by
  unfold State.settleLate
  split
  · rfl
  · refine foldl_copies (fun t k => ?_) _ s
    dsimp only
    generalize (_ || _ : Bool) = waits
    cases waits
    · exact performLate_copies t _ k
    · rfl

theorem freeCopyWaits_copies (s : State) (uid : Nat) : (s.freeCopyWaits uid).copies = s.copies := settleLate_copies s uid

theorem tileKick_copies (s : State) (core : Nat) : (s.tileKick core).copies = s.copies := by
  unfold State.tileKick
  dsimp only
  refine (foldl_copies (fun t b => ?_) _ _).trans (foldl_copies (fun t b => foldl_copies (fun t k => ?_) _ t) _ s)
  · split
    · rfl
    · split
      · rfl
      · split <;> rfl
  · split
    · rfl
    · split <;> rfl

/-! ### The life of a copy (R252, R257, R259) -/

section
variable {id : Nat} {s : State} {c : Copy}

/-- A finished copy has left the dolly. -/
theorem finishCopy_leaves (s : State) (c : Copy) : ∀ e ∈ (s.finishCopy c).copies, e.id ≠ c.id := by
  intro e he
  unfold State.finishCopy at he
  dsimp only at he
  rw [tileKick_copies, freeCopyWaits_copies, updCrew_copies] at he
  simpa using (List.mem_filter.mp he).2

variable (hc : s.copies.find? (fun e => e.id == id) = some c)
include hc

theorem find_copy_id : c.id = id := by simpa using List.find?_some hc

theorem exec_copyStart (hst : c.st = .queued) (hop : c.op ≠ 0xC8) (hready : s.copyReady c = true) :
    exec (.copyStart id) s = .next (s.runCopy id) := by
  have hexec : exec (.copyStart id) s = execCopyStart id s := rfl
  simp only [hexec, execCopyStart, hc]
  rw [if_pos ⟨hop, .inl ⟨hst, hready⟩⟩]

theorem exec_copyFinish (hst : c.st = .moving) (hlanded : c.landed = true) :
    exec (.copyFinish id) s = .next (s.finishCopy c) := by
  have hexec : exec (.copyFinish id) s = execCopyFinish id s := rfl
  simp only [hexec, execCopyFinish, hc]
  rw [if_pos ⟨hst, hlanded⟩]

theorem exec_flagRaise (hop : c.op = 0xC8) (hst : c.st = .queued) (hready : s.copyReady c = true)
    (hlanded : ((s.runCopy id).copies.any fun e => e.id == id && e.landed) = true) :
    exec (.flagRaise id) s = .next ((s.runCopy id).finishCopy c) := by
  have hexec : exec (.flagRaise id) s = execFlagRaise id s := rfl
  simp only [hexec, execFlagRaise, hc]
  rw [if_pos ⟨hop, .inl hst, hready⟩, if_pos hlanded]

theorem finishCopy_leaves_id (t : State) : ∀ e ∈ (t.finishCopy c).copies, e.id ≠ id :=
  find_copy_id hc ▸ finishCopy_leaves t c

end

/-- Settles O20: the instructions by the lanes that enter their copies, the events by the entry that they find. -/
theorem copies : Obligations.Copies := by
  refine ⟨runs_of_body fun _ _ => rfl, runs_of_body fun _ _ => rfl, runs_of_body fun _ _ => rfl,
    fun _ _ _ _ _ hx hpends hb _ => exec_cpym hx hpends hb, ?single,
    fun _ _ _ _ _ _ hx hl hpends hcheck hwait hbad hfollow hd hk => exec_cpym_single hx hl hpends hcheck hwait hbad hfollow hd hk,
    comb_ends, flagr_ends, seal_ends, bwait_ends, writes_of_exec fun _ _ => rfl,
    fun _ _ _ hc => ⟨exec_copyStart hc,
      fun hst hlanded => ⟨exec_copyFinish hc hst hlanded, finishCopy_leaves_id hc _⟩,
      fun hop hst hready hlanded => ⟨exec_flagRaise hc hop hst hready hlanded, finishCopy_leaves_id hc _⟩⟩⟩
  case single =>
    intro p hp w s x l d hx hl hok hd
    simp only [List.mem_cons, List.not_mem_nil, or_false] at hp
    obtain rfl | rfl | rfl := hp <;> exact exec_copy_single (fun _ _ => rfl) hx hl hok hd

end Sys2Proof.Machine

/-! The family of R280, R344 and R346: what is left of a block that a fault kills. A lane's fault that nothing takes is one log entry
(`takeFaults_kills`), and the block itself is gone before its launch or its context is asked for more (`killBlock_of_block`). -/

namespace Sys2Proof.Machine
open Sys2Proof

/-- Steps that leave a part of the state as it was, one after another. -/
theorem foldl_keeps_part {β γ : Type} (part : State → γ) {f : State → β → State} (h : ∀ s k, part (f s k) = part s)
    (ks : List β) (s : State) : part (ks.foldl f s) = part s :=
  ks.foldlRecOn f (motive := fun t => part t = part s) rfl fun t ht k _ => (h t k).trans ht

/-! ### A block removed and killed (R264, R280) -/

theorem flushDailies_mem_held (s : State) (uid ci : Nat) :
    ((s.flushDailies uid ci).mem, (s.flushDailies uid ci).held) = (s.mem, s.held) := by
  unfold State.flushDailies
  split
  · rfl
  · refine foldl_keeps_part (fun s => (s.mem, s.held)) ?_ _ s
    exact fun _ _ => rfl

theorem removeBlock_mem_held (s : State) (uid : Nat) :
    ((s.removeBlock uid).mem, (s.removeBlock uid).held) = (s.mem, s.held) := by
  unfold State.removeBlock
  split
  · rfl
  · exact foldl_keeps_part (fun s => (s.mem, s.held)) (fun t i => flushDailies_mem_held t uid i) _ s

theorem removeBlock_mem (s : State) (uid : Nat) : (s.removeBlock uid).mem = s.mem :=
  (Prod.mk.inj (removeBlock_mem_held s uid)).1

theorem removeBlock_held (s : State) (uid : Nat) : (s.removeBlock uid).held = s.held :=
  (Prod.mk.inj (removeBlock_mem_held s uid)).2

theorem removeBlock_gone (s : State) (uid : Nat) : (s.removeBlock uid).block? uid = none := by
  unfold State.removeBlock
  split
  next h => exact h
  next => exact List.find?_eq_none.mpr fun b hb => by simpa using (List.mem_filter.mp hb).2

/-- The state in which a killed block has left the device: its launch no longer counts it as spawned, and knows its next attempt (R280). -/
def State.unspawn (s : State) (uid : Nat) (b : Block) : State :=
  (s.removeBlock uid).updLaunch b.launch fun l =>
    { l with spawned := l.spawned.filter (· != b.lin), attempts := putKey l.attempts b.lin (b.attempt + 1) }

theorem unspawn_gone (s : State) (uid : Nat) (b : Block) : (s.unspawn uid b).block? uid = none := removeBlock_gone s uid

theorem killBlock_of_block {s : State} {uid : Nat} {b : Block} (hb : s.block? uid = some b) (hdir : b.isDirector = false) :
    s.killBlock uid = if b.retries then
        { s.unspawn uid b with held := (s.unspawn uid b).held ++ [((s.unspawn uid b).liveDie b.die,
          blockPacket b.sheet.addr b.launch (b.attempt + 1) (b.sheet.coords b.lin).1 (b.sheet.coords b.lin).2.1 (b.sheet.coords b.lin).2.2)] }
      else ((s.unspawn uid b).failLaunch b.launch).faultContext b.ctx := by
  simp only [State.killBlock, hb, hdir, Bool.false_eq_true, if_false]
  rfl

/-! ### A fault that nothing takes (R327, R344, R346) -/

/-- Lanes of one fault, all in one mode, are logged in one entry. -/
theorem logLanes_single (s : State) (b : Block) (ci pc l : Nat) (f : LaneFault) (hm : Nat → Bool) :
    s.logLanes b ci pc [(l, f)] hm = s.logEvent b.ctx
      { cls := f.cls, detail := f.detail, handler := hm l, core := b.core, crew := ci, blk := b.lin, attempt := b.attempt, pc := pc,
        lanes := laneMask [l], tag := b.launch, eaddr := f.eaddr, einfo := f.einfo } := by
  simp [State.logLanes, List.eraseDups_cons]

/-- A lane's fault that neither the page service nor the handler takes, and that is no TIMER, kills the block. -/
theorem takeFaults_kills {s : State} {uid ci pc next l : Nat} {f : LaneFault} {b : Block} {c : Crew} {k : Context} {t : Thread}
    {offer fatal : Bool} (hb : s.block? uid = some b) (hc : b.crew? ci = some c) (hk : s.ctxs[b.ctx]? = some k)
    (ht : c.threads[l]? = some t) (htimer : f.cls ≠ 0x10) (hpage : f.isPage = false)
    (hnot : t.hmode = true ∨ k.delivers f.cls = false ∨ (fatal = true ∧ f.cls = 0x11)) :
    s.takeFaults uid ci pc next [(l, f)] offer fatal = (s.logEvent b.ctx
      { cls := f.cls, detail := f.detail, handler := t.hmode, core := b.core, crew := ci, blk := b.lin, attempt := b.attempt,
        pc := pc, lanes := laneMask [l], tag := b.launch, eaddr := f.eaddr, einfo := f.einfo }).killBlock uid := by
  have hdelivered : (!(fatal && f.cls == 0x11) && !t.hmode && k.delivers f.cls) = false := by
    obtain hhandler | hkept | ⟨hfatal, htrap⟩ := hnot
    · simp [hhandler]
    · simp [hkept]
    · simp [hfatal, htrap]
  have hloses : (f.cls != 0x10) = true := bne_iff_ne.mpr htimer
  simp only [State.takeFaults, hb, hc, hk, List.filter_cons, List.filter_nil, ht, hpage, hdelivered, hloses, Bool.and_false, Bool.false_and,
    Bool.not_false, Bool.and_true, if_true, List.isEmpty_cons, Bool.false_eq_true, if_false, logLanes_single]

/-- Settles O39: what is logged for a lane, and what the end of a block leaves. -/
theorem unrecoverableFault : Obligations.UnrecoverableFault := by
  refine ⟨?log, ?retry, ?last⟩
  case log =>
    intro s uid ci pc next l f b c k fatal hb hc hk htimer hpage hnot hl
    obtain ⟨t, ht⟩ := Option.isSome_iff_exists.mp hl
    rw [takeFaults_kills hb hc hk ht htimer hpage (hnot t ht), ht]
    rfl
  case retry =>
    intro s uid b hb hdir hretries
    rw [killBlock_of_block hb hdir, if_pos hretries]
    exact ⟨unspawn_gone s uid b, removeBlock_mem s uid, congrArg (· ++ _) (removeBlock_held s uid)⟩
  case last =>
    intro s uid b hb hdir hlast
    exact ⟨s.unspawn uid b, unspawn_gone s uid b, (killBlock_of_block hb hdir).trans (if_neg (by simp [hlast]))⟩

end Sys2Proof.Machine

/-! The family of R264 to R282: stage rings, `done`, idempotent regions, and the events of a block's life. A meeting of R277 rests on what
the release of the waiting threads leaves of their block (`Block.freed`), a retirement on what leaves memory and the block list as they
were. -/

namespace Sys2Proof.Machine
open Sys2Proof

/-! ### Stage rings (R271, R272) -/

theorem exec_rputInit (w : Fields) (s : State) : exec (.rputInit w) s = execRputInit w s := rfl

/-- The header of a ring that R271 allows, as `rput.init` reads it. -/
theorem ringHeader_fields {v : Nat} (hzero : v / 32 % 8 = 0) (hwidth : v / 256 ≤ 2) :
    bitsOf v 0 5 = v % 32 ∧ bitsOf v 8 2 = v / 256 ∧ bitsOf v 5 3 = 0 ∧ v / 2 ^ 10 = 0 := by
  simp only [bitsOf]
  omega

theorem rputInit_ends : Ends 0xE0 (some 1) (lowRead [0, 1]) .rputInit (fun x => x.act ≠ [] ∧
      let v := x.bv x.low 32
      1 ≤ v % 32 ∧ v % 32 ≤ 16 ∧ v / 32 % 8 = 0 ∧ v / 256 ≤ 2 ∧ x.a x.low 32 % 16 = 0 ∧
        x.a x.low 32 + 16 * (v % 32) ≤ x.b.sheet.scratch)
    (fun x => ((x.s0.updRing x.uid x.w.d.toNat fun _ =>
      ⟨x.a x.low 32, x.bv x.low 32 % 32, x.bv x.low 32 / 256, 0, 0, List.replicate (x.bv x.low 32 % 32) .empty⟩), [])) := by
  refine ends_of_body (fun w s => (exec_rputInit w s).trans rfl) fun x ⟨hact, hlow, hhigh, hzero, hwidth, halign, hfits⟩ => ?_
  obtain ⟨hn, hw, hz, hrest⟩ := ringHeader_fields hzero hwidth
  simp only [hn, hw, hz, hrest]
  rw [if_neg (by simpa using hact), if_neg (by omega), if_neg (not_not_intro halign), if_neg (Nat.not_lt.mpr hfits)]

/-- The body of `rput` and `rget` does what the ring answers to the group (R272). -/
theorem ringBody_of_active {x : Ctx} (put : Bool) (hact : x.act ≠ []) :
    ringBody put x = match x.ringAnswer put with
      | .misuse => .done (x.ringState put) (x.act.map fun l => (l, .fault (protF 0x08 0)))
      | .ready => .done ((x.ringState put).ringAct x.uid x.clk (x.ringGroup put)) []
      | .waits => .done ((x.ringState put).updBlock x.uid fun b =>
          { b with body := { b.body with ringWaits := b.body.ringWaits ++ [x.ringGroup put] } })
          (x.act.map fun l => (l, .wait (.ring x.s0.nextId))) := by
  rw [ringBody, if_neg (by simpa using hact)]
  rfl

section
variable {op : Nat} {fn : Option Nat} {reads : List ReadAs} {i : Fields → Instr} {put : Bool}
  (hi : ∀ w s, exec (i w) s = runLong op fn w s reads (ringBody put))
include hi

theorem ring_ready_ends : Ends op fn reads i (fun x => x.act ≠ [] ∧ x.ringAnswer put = .ready)
    (fun x => ((x.ringState put).ringAct x.uid x.clk (x.ringGroup put), [])) :=
  ends_of_body hi fun x ⟨hact, hready⟩ => by rw [ringBody_of_active put hact, hready]

theorem ring_waits_ends : Ends op fn reads i (fun x => x.act ≠ [] ∧ x.ringAnswer put = .waits)
    (fun x => ((x.ringState put).updBlock x.uid fun b =>
        { b with body := { b.body with ringWaits := b.body.ringWaits ++ [x.ringGroup put] } },
      x.act.map fun l => (l, .wait (.ring x.s0.nextId)))) :=
  ends_of_body hi fun x ⟨hact, hwaits⟩ => by rw [ringBody_of_active put hact, hwaits]

end

/-- Settles O21: a ring's header is read as R271 writes it, and the body of a group does what the ring answers. -/
theorem stageRings : Obligations.StageRings :=
  ⟨rputInit_ends, ring_ready_ends fun _ _ => rfl, ring_waits_ends fun _ _ => rfl, ring_ready_ends fun _ _ => rfl,
    ring_waits_ends fun _ _ => rfl⟩

/-! ### `done` (R276) -/

theorem exec_doneRegion (w : Fields) (s : State) : exec (.doneRegion w) s = execDoneRegion w s := rfl

theorem done_ends : Ends 0xE2 none [] .doneRegion (fun x => x.act ≠ [] ∧ x.s0.carries x.uid x.ci x.low (x.t x.low) = [])
    (fun x => (x.s0.makeDone x.uid, [])) :=
  ends_of_body (fun w s => (exec_doneRegion w s).trans rfl) fun x ⟨hact, hnone⟩ => by
    simp only [List.isEmpty_iff, hact, hnone, if_true, if_false]

theorem done_waits_ends : Ends 0xE2 none [] .doneRegion (fun x => x.act ≠ [] ∧ x.s0.carries x.uid x.ci x.low (x.t x.low) ≠ [])
    (fun x => (x.s0, [(x.low, .wait (.region 0))])) :=
  ends_of_body (fun w s => (exec_doneRegion w s).trans rfl) fun x ⟨hact, hsome⟩ => by
    simp only [List.isEmpty_iff, hact, hsome, if_false]

section
variable {s : State} {uid : Nat} {b : Block} (hb : s.block? uid = some b)
include hb

theorem makeDone_of_block : s.makeDone uid = if b.inside then s.updBlock uid fun b => { b with deferred := true }
    else if b.sheet.det then s else s.completionEvent b.launch b.lin (some b.core) := by
  simp only [State.makeDone, hb]

/-- The block of a number after an update of it that keeps its number. -/
theorem updBlock_block?_same (f : Block → Block) (hf : ∀ b, (f b).uid = b.uid) : (s.updBlock uid f).block? uid = some (f b) := by
  rw [updBlock_block? s uid uid f hf, if_pos rfl, hb]; rfl

theorem makeDone_cases :
    (b.inside = true → ∃ b', (s.makeDone uid).block? uid = some b' ∧ b'.deferred = true ∧ (s.makeDone uid).mem = s.mem) ∧
    (b.inside = false → b.sheet.det = true → s.makeDone uid = s) ∧
    (b.inside = false → b.sheet.det = false → s.makeDone uid = s.completionEvent b.launch b.lin (some b.core)) := by
  rw [makeDone_of_block hb]
  refine ⟨fun hin => ?_, fun hout hdet => ?_, fun hout hdet => ?_⟩
  · rw [if_pos hin]
    exact ⟨_, updBlock_block?_same hb _ fun _ => rfl, rfl, rfl⟩
  · rw [if_neg (by simp [hout]), if_pos hdet]
  · rw [if_neg (by simp [hout]), if_neg (by simp [hdet])]

end

/-! ### The meetings of a block (R277) -/

/-- The block after its threads that wait on something complete. -/
def Block.freed (b : Block) (w : WaitOn) : Block :=
  { b with body := { b.body with crews := b.body.crews.map fun c =>
    { c with threads := c.threads.map fun t => if t.waitsOn = some w then t.complete else t } } }

/-- A thread whose wait is over waits on nothing. -/
theorem complete_waitsOn {t : Thread} {w : WaitOn} (h : t.waitsOn = some w) : t.complete.waitsOn = none := by
  unfold Thread.waitsOn at h
  split at h
  next v len hst => simp only [Thread.complete, hst, Thread.waitsOn]
  next => cases h

theorem freed_waitsOn (b : Block) (w : WaitOn) : ∀ c ∈ (b.freed w).body.crews, ∀ t ∈ c.threads, t.waitsOn ≠ some w := by
  intro c hc t ht
  obtain ⟨c, -, rfl⟩ := List.mem_map.mp hc
  obtain ⟨t, -, rfl⟩ := List.mem_map.mp ht
  split
  next h => rw [complete_waitsOn h]; exact Option.some_ne_none _ |>.symm
  next h => exact h

/-- The threads of a block wait on one thing at a time. -/
theorem allWait_unique {b : Block} {v w : WaitOn} (hw : b.allWait w = true) (hne : v ≠ w) : b.allWait v = false := by
  simp only [Block.allWait, Bool.and_eq_true, List.any_eq_true, List.all_eq_true, Bool.or_eq_true, beq_iff_eq] at hw
  obtain ⟨⟨t, ht, hwaits⟩, -⟩ := hw
  have hst : t.st ≠ .exited := fun h => by simp [Thread.waitsOn, h] at hwaits
  refine Bool.eq_false_iff.mpr fun hv => ?_
  simp only [Block.allWait, Bool.and_eq_true, List.all_eq_true, Bool.or_eq_true, beq_iff_eq] at hv
  rcases hv.2 t ht with h | h
  · exact hst h
  · exact hne (Option.some.inj (h.symm.trans hwaits))

theorem agentWrite_blocks (s : State) (ctx va : Nat) (bs : List Byte) : (s.agentWrite ctx va bs).blocks = s.blocks := by
  unfold State.agentWrite
  split
  · rfl
  · exact foldl_keeps_part (·.blocks) (fun t p => (homeWrite_blocks ..).trans (setDirty_blocks t _)) _ s

theorem writeFree_block? (s : State) (ctx va n uid : Nat) : (s.writeFree ctx va n).block? uid = s.block? uid := by
  rw [State.block?, State.writeFree, agentWrite_blocks]; rfl

section
variable {s : State} {uid : Nat} {b : Block} (hb : s.block? uid = some b)
include hb

theorem releaseWaiters_block? (w : WaitOn) : (s.releaseWaiters uid w).block? uid = some (b.freed w) :=
  updBlock_block?_same hb (·.freed w) fun _ => rfl

/-- A meeting at `idemb` that R277 allows: the threads go on, the snapshot has its bytes, and the block is IN. -/
theorem enterRegion_enters {c : Context} (hin : b.inside = false) (hspilled : ∀ n ∈ b.body.reel.nodes, n.spilled = false)
    (hc : s.ctxs[b.ctx]? = some c) (hfits : b.sheet.saveBytes ≤ c.rslot) :
    ∃ b', (s.enterRegion uid).block? uid = some b' ∧ b'.inside = true ∧ b'.snap.isSome = true ∧
      b'.body = (b.freed (.region 1)).body := by
  have hstay : (b.inside || (b.body.reel.nodes.any fun n => n.spilled) || decide (b.sheet.saveBytes > c.rslot)) = false := by
    have hany : (b.body.reel.nodes.any fun n => n.spilled) = false := List.any_eq_false.mpr fun n hn => by simp [hspilled n hn]
    simp [hin, hany, hfits]
  have hfreed : ((s.releaseWaiters uid (.region 1)).writeFree b.ctx (c.snapAt b) b.sheet.saveBytes).block? uid =
      some (b.freed (.region 1)) :=
    (writeFree_block? ..).trans (releaseWaiters_block? hb _)
  simp only [State.enterRegion, hb, hc, Option.getD_some, hstay, Bool.false_eq_true, if_false]
  exact ⟨_, updBlock_block?_same hfreed _ fun _ => rfl, rfl, rfl, rfl⟩

theorem settleRegion_enters (hall : b.allWait (.region 1) = true) (hcmds : b.cmds = []) (hcopies : ∀ k ∈ s.copies, k.uid ≠ uid) :
    s.settleRegion uid = s.enterRegion uid := by
  have hmeet : (b.allWait (.region 1) && b.cmds.isEmpty && !(s.copies.any fun c => c.uid == uid)) = true := by
    simpa [hall, hcmds] using hcopies
  simp only [State.settleRegion, hb]
  rw [if_pos hmeet]

theorem settleRegion_leaves (hall : b.allWait (.region 2) = true) : s.settleRegion uid = s.leaveRegion uid := by
  simp only [State.settleRegion, hb, allWait_unique hall (v := .region 1) (by decide), Bool.false_and, Bool.false_eq_true, if_false]
  rw [if_pos hall]

/-- A block is still there after its held staging writes have entered their slots. -/
theorem foldl_stageHeld_block? (vs : List (Nat × StageSlot)) (clk : State → Nat) :
    ∃ b', (vs.foldl (fun s v => s.stageHeld uid (clk s) v) s).block? uid = some b' :=
  vs.foldlRecOn _ (motive := fun t => ∃ b', State.block? t uid = some b') ⟨b, hb⟩ fun t ⟨_, hb'⟩ v _ =>
    ⟨_, updBlock_block?_same (s := { t with stage := (foldStage t.stage v.2).1 }) hb' _ fun _ => rfl⟩

theorem leaveRegion_leaves (hin : b.inside = true) (hdone : b.deferred = false) :
    ∃ b', (s.leaveRegion uid).block? uid = some b' ∧ b'.inside = false ∧ b'.snap = none := by
  obtain ⟨b', hb'⟩ := foldl_stageHeld_block? (releaseWaiters_block? hb (.region 2)) b.heldStage fun s => s.clockOf b.core
  simp only [State.leaveRegion, hb, hin, hdone, Bool.not_true, Bool.false_eq_true, if_false]
  exact ⟨_, updBlock_block?_same hb' _ fun _ => rfl, rfl, rfl⟩

end

/-- Settles O29: the instructions by their bodies, the meetings by what the end of a cycle does with the block. -/
theorem blockRegions : Obligations.BlockRegions := by
  refine ⟨done_ends, done_waits_ends, ends_of_body (fun _ _ => rfl) fun _ _ => rfl, ends_of_body (fun _ _ => rfl) fun _ _ => rfl,
    fun _ _ _ hb => makeDone_cases hb, ?enter, ?leave⟩
  case enter =>
    intro s uid b c hb hall hcmds hcopies hin hspilled hc hfits
    obtain ⟨b', hb', hin', hsnap, hbody⟩ := enterRegion_enters hb hin hspilled hc hfits
    rw [settleRegion_enters hb hall hcmds hcopies]
    exact ⟨b', hb', hin', hsnap, hbody ▸ freed_waitsOn b (.region 1)⟩
  case leave =>
    intro s uid b hb hall hin hdone
    rw [settleRegion_leaves hb hall]
    exact leaveRegion_leaves hb hin hdone

/-! ### The carve (R269) -/

theorem exec_carveApply {core n : Nat} {s : State} {c : CoreSt} (hc : s.cores[core]? = some c) (hn : c.pendingCarve = some n)
    (hempty : s.residents core = []) :
    exec (.carveApply core) s = .next ((s.updCore core fun c => { c with carve := n, pendingCarve := none }).shrinkL1 core (n - c.carve)) := by
  change execCarveApply core s = _
  simp only [execCarveApply, hc, Option.bind_some, hn, hempty]
  rfl

/-! ### The last arrivals of a block (R290, R293, R295) -/

theorem castTest_mem (s : State) (tag c : Nat) (byArrival : Bool) : (s.castTest tag c byArrival).mem = s.mem := by
  unfold State.castTest
  dsimp only
  split
  · rfl
  · split
    · rfl
    · split <;> rfl

theorem castCount_mem (s : State) (uid cast : Nat) : (s.castCount uid cast).mem = s.mem := by
  unfold State.castCount
  dsimp only
  split
  · rfl
  · split
    · split
      · rfl
      · split
        · rfl
        · exact castTest_mem ..
    · rfl

theorem pkgTest_mem (s : State) (ctx id : Nat) : (s.pkgTest ctx id).mem = s.mem := by
  unfold State.pkgTest
  dsimp only
  split <;> rfl

theorem pkgCount_mem (s : State) (uid id : Nat) : (s.pkgCount uid id).mem = s.mem := by
  unfold State.pkgCount
  dsimp only
  split
  · rfl
  · split
    · rfl
    · split
      · rfl
      · split
        · rfl
        · split
          · rfl
          · exact pkgTest_mem ..

/-- Counting the arrivals that a retiring block has made leaves memory as it was. -/
theorem lastArrivals_mem (s : State) (uid : Nat) : (s.lastArrivals uid).mem = s.mem := by
  unfold State.lastArrivals
  dsimp only
  split
  · rfl
  · refine (foldl_keeps_part (·.mem) (fun t m => ?_) _ _).trans (foldl_keeps_part (·.mem) (fun t m => ?_) _ s)
    · exact (pkgCount_mem ..).trans (by split <;> rfl)
    · exact (castCount_mem ..).trans (by split <;> rfl)

/-! ### Retirement and the slate (R265, R276, R282) -/

/-- What a retiring block leaves behind on its core: its slate buffer, closed, or its core's lines, published (R276, R282). -/
def State.retireCloses (s : State) (b : Block) : State :=
  if b.sheet.det then
    { s with slates := s.slates ++ [⟨b.uid, b.launch, b.lin, b.die, b.ctx, b.body.slate, b.body.slateOut, b.body.slatePages⟩] }
  else s.publishAll b.core

/-- A deterministic block writes nothing to memory at its retirement (R282). -/
theorem retireCloses_mem {s : State} {b : Block} (hdet : b.sheet.det = true) : (s.retireCloses b).mem = s.mem := by
  rw [State.retireCloses, if_pos hdet]

section
variable {s : State} (hup : s.downSpokes = [])
include hup

/-- Where every spoke link is UP, none holds back a publication. -/
theorem publishDown_of_up (core : Nat) (releases acquires : Bool) : s.publishDown core releases acquires = [] := by
  rw [State.publishDown, hup]; rfl

theorem lineDown_of_up (die line : Nat) (own : Bool) : s.lineDown die line own = [] := by
  rw [State.lineDown, State.spokesDown, hup]
  exact ite_self _

theorem exec_blockRetire {uid : Nat} {b : Block} (hb : s.block? uid = some b) (hst : b.state = .retiring)
    (hfree : s.retireBlocked b = false) :
    let s2 := (((s.lastArrivals uid).retireCloses b).removeBlock uid).updLaunch b.launch fun l => { l with retired := l.retired ++ [b.lin] }
    let s3 := if b.sheet.det then s2 else s2.completionEvent b.launch b.lin (some b.core)
    let casts := match s3.launch? b.launch with | some l => l.casts.length | none => 0
    exec (.blockRetire uid) s = .next (((List.range casts).foldl (fun s c => s.castTest b.launch c false) s3).tileKick b.core) := by
  intro s2 s3 casts
  change execBlockRetire uid s = _
  have hdown : (if b.sheet.det then [] else s.publishDown b.core true false) = [] := by
    rw [publishDown_of_up hup]; exact ite_self _
  simp only [execBlockRetire, hb, hdown]
  rw [if_neg (by simp [hst, hfree])]
  rfl

theorem exec_slateRelease {tag : Nat} {l : Launch} {b : SlateBuf} (hl : s.launch? tag = some l)
    (hb : s.slates.find? (fun b => b.launch == tag && b.lin == l.recorded.length) = some b) :
    exec (.slateRelease tag) s = .next ((({ s with slates := s.slates.filter fun k =>
      !(k.launch == tag && k.lin == l.recorded.length) } : State).writeSlate b.cells).completionEvent tag l.recorded.length none) := by
  change execSlateRelease tag s = _
  have hdown : ((b.cells.map fun c => lineOf c.1).eraseDups.flatMap fun line => s.lineDown b.die line true) = [] :=
    List.flatMap_eq_nil_iff.mpr fun line _ => lineDown_of_up hup b.die line true
  simp only [execSlateRelease, hl, hb, hdown]
  rfl

end

/-! ### The acts of a die's director (R264, R268, R317) -/

section
variable {die : Nat} {s : State} {k : DieSt} (hk : s.dies[die]? = some k) (hlive : s.dieFenced die = false)
include hk hlive

theorem exec_blockAdmit_restores {b : Block} (hb : s.restoring die = some b) : exec (.blockAdmit die) s = .next (s.admitSaved b) := by
  change execBlockAdmit die s = _
  simp only [execBlockAdmit, hk, hlive, hb, Bool.false_eq_true, if_false]

variable (hnone : s.restoring die = none) (hcalled : k.called = none)
include hnone hcalled

theorem exec_blockAdmit_takes {p : List Byte} (hserving : k.serving = none) (hp : k.mailbox.find? s.takeable = some p) :
    exec (.blockAdmit die) s = .next (s.takeStock die p) := by
  change execBlockAdmit die s = _
  simp only [execBlockAdmit, hk, hlive, hnone, hcalled, hserving, hp, Option.isSome_none, Bool.false_eq_true, if_false]

theorem exec_blockAdmit_serves {p : List Byte} (hserving : k.serving = some p) :
    exec (.blockAdmit die) s = .next (s.serve die p) := by
  change execBlockAdmit die s = _
  simp only [execBlockAdmit, hk, hlive, hnone, hcalled, hserving, Option.isSome_none, Bool.false_eq_true, if_false]

end

/-- Settles O30: each event by what it finds. -/
theorem blockEvents : Obligations.BlockEvents := by
  refine ⟨fun _ _ _ _ hc hn hempty => exec_carveApply hc hn hempty, ?retire,
    fun _ _ _ _ hl hup hb => exec_slateRelease hup hl hb,
    fun _ _ _ _ hk hlive hnone hcalled => ⟨exec_blockAdmit_takes hk hlive hnone hcalled, exec_blockAdmit_serves hk hlive hnone hcalled⟩,
    fun _ _ _ _ hk hlive hb => exec_blockAdmit_restores hk hlive hb⟩
  case retire =>
    intro uid s b hb hst hfree hup s0 s1 s2 s3 casts
    refine ⟨exec_blockRetire hup hb hst hfree, removeBlock_gone s1 uid, fun hdet => ?_⟩
    calc s2.mem = s1.mem := removeBlock_mem s1 uid
      _ = s0.mem := retireCloses_mem hdet
      _ = s.mem := lastArrivals_mem s uid

end Sys2Proof.Machine

/-! The family of R269, R316 and R320 to R322: the instructions of a director. Those but `carve` share one frame, which refuses every other
crew (`directorBody_refuses`). -/

namespace Sys2Proof.Machine
open Sys2Proof

theorem exec_carve (w : Fields) (s : State) : exec (.carve w) s = execCarve w s := rfl

theorem carve_ends : Ends 0xE5 none (lowRead [0, 1]) .carve
    (fun x => x.act ≠ [] ∧ x.b.isDirector = true ∧ x.a x.low 32 ≤ 7 ∧ x.bv x.low 32 ≤ 47) (fun x =>
    let r := x.s0.requestCarve (48 * x.b.die + x.bv x.low 32) (x.a x.low 32)
    (x.writesD r.1 (if r.2 then 1 else 0), [])) := by
  refine ends_of_body (fun w s => (exec_carve w s).trans rfl) fun x ⟨hact, hdir, hn, hpos⟩ => ?_
  simp only [hdir, Bool.not_true, Bool.false_eq_true, if_false]
  rw [if_neg (by simpa using hact), if_neg (Nat.not_lt.mpr hn), if_neg (Nat.not_lt.mpr hpos)]
  rfl

theorem carve_refused : Ends 0xE5 none (lowRead [0, 1]) .carve (fun x => x.act ≠ [] ∧ x.b.isDirector = false)
    (fun x => (x.s0, x.act.map fun l => (l, .fault (protF 0x04 0)))) := by
  refine ends_of_body (fun w s => (exec_carve w s).trans rfl) fun x ⟨hact, hother⟩ => ?_
  simp only [hother, Bool.not_false, if_true]
  rw [if_neg (by simpa using hact)]
  rfl

theorem directorBody_of_director {x : Ctx} {body : Ctx → BodyRes} (hdir : x.b.isDirector = true) : directorBody body x = body x :=
  if_pos hdir

theorem directorBody_refuses {op : Nat} {reads : List ReadAs} {i : Fields → Instr} {body : Ctx → BodyRes}
    (hi : ∀ w s, exec (i w) s = runLong op none w s reads (directorBody body)) :
    Ends op none reads i (fun x => x.b.isDirector = false) (fun x => (x.s0, x.act.map fun l => (l, .fault (protF 0x04 0)))) :=
  ends_of_body hi fun _ hother => if_neg (by simp [hother])

theorem exec_mboxr (w : Fields) (s : State) : exec (.mboxr w) s = execMboxr w s := rfl

theorem mboxr_takes (p : List Byte) : Ends 0xEC none (lowRead [0]) .mboxr
    (fun x => x.b.isDirector = true ∧ x.act ≠ [] ∧ x.checkScratch (x.a x.low 32) 64 64 = none ∧
      x.s0.nextPacket x.b.die = some p)
    (fun x =>
      let t := x.s0.takePacket x.b (x.a x.low 32) p
      (x.writesD t (t.mailboxLen x.b.die), [])) := by
  refine ends_of_body (fun w s => (exec_mboxr w s).trans rfl) fun x ⟨hdir, hact, hcheck, hp⟩ => ?_
  rw [directorBody_of_director hdir, if_neg (by simpa using hact)]
  simp only [hcheck, hp]
  rfl

theorem mboxr_waits : Ends 0xEC none (lowRead [0]) .mboxr
    (fun x => x.b.isDirector = true ∧ x.act ≠ [] ∧ x.checkScratch (x.a x.low 32) 64 64 = none ∧ x.s0.nextPacket x.b.die = none)
    (fun x => (x.s0, x.act.map fun l => (l, .wait (.mailbox (x.a x.low 32) x.w)))) := by
  refine ends_of_body (fun w s => (exec_mboxr w s).trans rfl) fun x ⟨hdir, hact, hcheck, hnone⟩ => ?_
  rw [directorBody_of_director hdir, if_neg (by simpa using hact)]
  simp only [hcheck, hnone]

theorem exec_spawn (w : Fields) (s : State) : exec (.spawn w) s = execSpawn w s := rfl

/-- The sheet that the one lane of a `spawn` reads again (R310). -/
theorem spawnSheets_of_one {x : Ctx} {l : Nat} {k : Launch} {s1 : State} {sh : Sheet} (hact : x.act = [l])
    (hk : x.s0.pktLaunch (fromBytes (x.s0.scratchRead x.uid (x.a l 32) 64)) = some k)
    (hsh : x.s0.sheetAgain k (fromBytes (x.s0.scratchRead x.uid (x.a l 32) 64)) = (s1, some sh)) :
    spawnSheets x = (s1, [(l, sh)], true) := by
  simp only [spawnSheets, hact, List.foldl_cons, List.foldl_nil, hk, hsh, List.nil_append]

/-- One lane of `spawn` whose packet is of a launch that runs, and whose block has a core (R321). -/
theorem spawnLane_places {x : Ctx} {s : State} {l : Nat} {k : Launch} {sh : Sheet} {r : State × Nat}
    (hcheck : x.checkScratch (x.a l 32) 64 64 = none) (hk : s.pktLaunch (fromBytes (s.scratchRead x.uid (x.a l 32) 64)) = some k)
    (hlin : x.bv l 32 < sh.nblk) (hnew : x.bv l 32 ∉ k.spawned) (hruns : s.ctxRuns k.ctx = true)
    (hplace : s.placeNew x.b.die k sh (x.bv l 32) (pktAttempt (fromBytes (s.scratchRead x.uid (x.a l 32) 64))) = some r) :
    spawnLane x s [(l, sh)] l = some (r.1.updCrew x.uid x.ci fun c => wrvOf c x.clk l x.w x.w.d 32 r.2 false, .next) := by
  simp [spawnLane, hcheck, hk, Nat.not_le.mpr hlin, hnew, hruns, hplace]

theorem spawn_ends (l : Nat) (k : Launch) (s1 : State) (sh : Sheet) (r : State × Nat) : Ends 0xED none readsAB .spawn
    (fun x =>
      let v := fromBytes (x.s0.scratchRead x.uid (x.a l 32) 64)
      x.b.isDirector = true ∧ x.act = [l] ∧ x.checkScratch (x.a l 32) 64 64 = none ∧ x.s0.pktLaunch v = some k ∧
        x.s0.sheetAgain k v = (s1, some sh) ∧ s1.scratchRead x.uid (x.a l 32) 64 = x.s0.scratchRead x.uid (x.a l 32) 64 ∧
        s1.pktLaunch v = some k ∧ x.bv l 32 < sh.nblk ∧ x.bv l 32 ∉ k.spawned ∧ s1.ctxRuns k.ctx = true ∧
        s1.placeNew x.b.die k sh (x.bv l 32) (pktAttempt v) = some r)
    (fun x => (x.writesD r.1 r.2, [(l, .next)])) := by
  refine ends_of_body (fun w s => (exec_spawn w s).trans rfl) ?_
  intro x ⟨hdir, hact, hcheck, hk, hsh, hsame, hk1, hlin, hnew, hruns, hplace⟩
  rw [← hsame] at hk1 hplace
  have hlane := spawnLane_places hcheck hk1 hlin hnew hruns hplace
  rw [directorBody_of_director hdir]
  simp only [spawnSheets_of_one hact hk hsh, Ctx.writesD, hact, List.foldl_cons, List.foldl_nil, hlane]
  rfl

theorem exec_fwd (w : Fields) (s : State) : exec (.fwd w) s = execFwd w s := rfl

theorem downSpokes_congr {s t : State} (h : t.links = s.links) : t.downSpokes = s.downSpokes := by
  rw [State.downSpokes, h]; rfl

/-- One lane of `fwd` with its target's room in its predicate, where no spoke link is down (R322). -/
def Ctx.forward (x : Ctx) (s : State) (l : Nat) : State :=
  let d := x.bv l 32
  let ok := decide (s.mailboxLen d < 64) && !s.dieFenced d
  let p := s.scratchRead x.uid (x.a l 32) 64
  (if ok then s.updDie d fun k => { k with mailbox := k.mailbox ++ [p] } else s).updThread x.uid x.ci l fun t => t.setPred (x.mod % 8) ok

theorem forward_links (x : Ctx) (s : State) (l : Nat) : (x.forward s l).links = s.links := by
  unfold Ctx.forward
  dsimp only
  split <;> rfl

theorem fwdLane_forwards {x : Ctx} {s : State} {l : Nat} (hup : s.downSpokes = []) (hcheck : x.checkScratch (x.a l 32) 64 64 = none)
    (hd : x.bv l 32 ≤ 3) : fwdLane x s l = (x.forward s l, .next) := by
  simp only [fwdLane, hcheck, hup, List.filter_nil, List.isEmpty_nil, Bool.not_true, Bool.and_false, Bool.false_eq_true, if_false]
  rw [if_neg (Nat.not_lt.mpr hd)]
  rfl

theorem fwd_ends : Ends 0xEE none readsAB .fwd
    (fun x => x.b.isDirector = true ∧ x.s0.downSpokes = [] ∧ ∀ l ∈ x.act, x.checkScratch (x.a l 32) 64 64 = none ∧ x.bv l 32 ≤ 3)
    (fun x => (x.act.foldl x.forward x.s0, x.allNext)) := by
  refine ends_of_body (fun w s => (exec_fwd w s).trans rfl) fun x ⟨hdir, hup, hlanes⟩ => ?_
  rw [directorBody_of_director hdir]
  refine laneBody_of_next (fun s => s.downSpokes = []) hup fun s hs l hl => ?_
  obtain ⟨hcheck, hd⟩ := hlanes l hl
  exact ⟨fwdLane_forwards hs hcheck hd, (downSpokes_congr (forward_links x s l)).trans hs⟩

/-- Settles O31: the instructions of a director by their bodies, PROT by the frame that they share. -/
theorem directorInstructions : Obligations.DirectorInstructions :=
  ⟨carve_ends, carve_refused, directorBody_refuses fun _ _ => rfl, directorBody_refuses fun _ _ => rfl,
    directorBody_refuses fun _ _ => rfl, mboxr_takes, mboxr_waits, spawn_ends, fwd_ends⟩

end Sys2Proof.Machine

/-! What transfers of lines, messages to other agents and publications leave as they were (R6, R212 to R216, R372 to R374): everything but
memory and its caches, the records and notices, the requests under way and the traffic of the links, whose states stay. -/

namespace Sys2Proof.Machine
open Sys2Proof

/-- A cached translation without its D bit. -/
def TlbEntry.undirty (e : TlbEntry) : TlbEntry := { e with dirty := false }

/-- The state without what transfers and publications change: of a link, its state is left, and of a translation all but its D. -/
def State.upland (s : State) : State :=
  { s with mem := [], reqs := [], seqs := [], ckpt := State.reset.ckpt, poison := [], l1 := [], l2 := [], dir := [],
           hostCache := [], recs := [], intents := [], tlb := s.tlb.map TlbEntry.undirty, walks := [], cores := [],
           links := s.links.map fun k => { Link.port with st := k.st }, choices := 0, nextId := 0, news := 0 }

/-- Memory, its caches, records, notices and requests changed. -/
theorem upland_with (s : State) (mem : List Host.Cell) (reqs : List Req) (seqs : List (Nat × Nat)) (ckpt : Checkpoint)
    (poison : List Nat) (l1 : List L1Line) (l2 : List L2Line) (dir : List DirEntry) (hostCache : List (Nat × L2State))
    (recs : List RelRec) (intents : List Intent) (walks : List Walk) (cores : List CoreSt)
    (choices nextId news : Nat) :
    ({ s with mem, reqs, seqs, ckpt, poison, l1, l2, dir, hostCache, recs, intents, walks, cores, choices, nextId, news } :
      State).upland = s.upland := rfl

/-- Cached translations changed in their D alone. -/
theorem upland_with_tlb (s : State) {tlb : List TlbEntry} (h : tlb.map TlbEntry.undirty = s.tlb.map TlbEntry.undirty) :
    ({ s with tlb } : State).upland = s.upland := by
  unfold State.upland
  simp only [h]

section
variable {s t : State} (h : t.upland = s.upland)
include h
theorem upland_blocks : t.blocks = s.blocks := (congrArg State.blocks h :)
theorem upland_ctxs : t.ctxs = s.ctxs := (congrArg State.ctxs h :)
theorem upland_faults : t.faults = s.faults := (congrArg State.faults h :)
theorem upland_experts : t.experts = s.experts := (congrArg State.experts h :)
theorem upland_takes : t.takes = s.takes := (congrArg State.takes h :)
theorem upland_tlb : t.tlb.map TlbEntry.undirty = s.tlb.map TlbEntry.undirty := (congrArg State.tlb h :)
theorem upland_links : t.links.map (·.st) = s.links.map (·.st) := by
  have hl := congrArg (fun u : State => u.links.map (·.st)) h
  simpa [State.upland, Function.comp_def] using hl

theorem upland_block? (u : Nat) : t.block? u = s.block? u := by rw [State.block?, upland_blocks h]; rfl

end

theorem downSpokes_congr_st {s t : State} (h : t.links.map (·.st) = s.links.map (·.st)) : t.downSpokes = s.downSpokes := by
  refine List.filter_congr fun d _ => ?_
  have hd := congrArg (fun l : List LinkState => l[36 + d]?) h
  simp only [List.getElem?_map] at hd
  cases ht : t.links[36 + d]? <;> cases hs : s.links[36 + d]? <;> simp_all

theorem upland_downSpokes {s t : State} (h : t.upland = s.upland) : t.downSpokes = s.downSpokes := downSpokes_congr_st (upland_links h)

theorem foldlFst_upland {β γ : Type} {f : State × γ → β → State × γ} (h : ∀ a x, (f a x).1.upland = a.1.upland) (ks : List β)
    (a : State × γ) : (ks.foldl f a).1.upland = a.1.upland :=
  ks.foldlRecOn f (motive := fun b => b.1.upland = a.1.upland) rfl fun b hb x _ => (h b x).trans hb

/-- What an update of an element keeps of it is as it was in the list. -/
theorem map_updAt {α β : Type} {f : α → α} {g : α → β} (h : ∀ a, g (f a) = g a) (xs : List α) (i : Nat) :
    (updAt xs i f).map g = xs.map g := by
  induction xs generalizing i with
  | nil => rfl
  | cons a r ih => cases i <;> simp [updAt, h, ih]

/-- An update of a link that keeps its state. -/
theorem updLink_upland (s : State) (p : Nat) {f : Link → Link} (hf : ∀ k, (f k).st = k.st) : (s.updLink p f).upland = s.upland := by
  unfold State.updLink State.upland
  rw [map_updAt fun k => by rw [hf]]

/-! ### Messages (R372 to R374) -/

@[simp] theorem pump_st (k : Link) (now n : Nat) : (k.pump now n).st = k.st := by
  induction n generalizing k with
  | zero => rfl
  | succ n ih =>
    unfold Link.pump
    split
    · rfl
    · split
      · rfl
      · rw [ih]; rfl

@[simp] theorem send_st (k : Link) (now c : Nat) (m : LinkMsg) : (k.send now c m).st = k.st := pump_st ..

section
variable (s : State)

@[simp] theorem choose_upland (n : Nat) : (s.choose n).2.upland = s.upland := by unfold State.choose; split <;> rfl

@[simp] theorem sendMsg_upland (a c l : Nat) (m : LinkMsg) : (s.sendMsg a c l m).upland = s.upland := by
  unfold State.sendMsg
  dsimp only
  split
  · rw [updLink_upland _ _ fun k => send_st ..]
    split
    · exact choose_upland ..
    · rfl
  · rfl

@[simp] theorem snoopOut_upland (l : Nat) (take : Bool) : (s.snoopOut l take).upland = s.upland := by
  unfold State.snoopOut
  split
  · rfl
  · exact foldl_keeps_part State.upland (fun s a => sendMsg_upland s a 2 l _) _ s

theorem sendElem_upland (e : ReqElem) : (s.sendElem e).1.upland = s.upland := by
  unfold State.sendElem
  dsimp only
  repeat' split
  all_goals rfl

theorem carryElems_upland (i c : Nat) (a b : List ReqElem) : (s.carryElems i c a b).upland = s.upland := by
  refine foldl_keeps_part State.upland (fun s p => ?_) _ s
  split
  · exact sendMsg_upland ..
  · rfl

@[simp] theorem postReq_upland (copy : Option Nat) (pc next op clk act : Nat) (w : Fields) (es : List ReqElem) :
    (s.postReq none copy pc next op clk act w es).upland = s.upland := by
  unfold State.postReq
  dsimp only
  rw [carryElems_upland]
  exact foldlFst_upland (γ := List ReqElem) (fun a e => sendElem_upland a.1 e) es (s.fresh.2, [])

@[simp] theorem postWrite_upland (k : Nat) (bs : List Byte) : (s.postWrite k bs).upland = s.upland := by
  unfold State.postWrite
  dsimp only
  split
  · rfl
  · split
    · exact postReq_upland ..
    · exact postReq_upland ..

/-! ### Writes of agents (R212, R354) -/

@[simp] theorem homeWrite_upland (pa : Nat) (bs : List Byte) : (s.homeWrite pa bs).upland = s.upland := by
  unfold State.homeWrite
  dsimp only
  split
  · refine foldl_keeps_part State.upland (fun s l => ?_) _ s
    unfold State.peerWrite
    dsimp only
    split
    · exact upland_with ..
    · rw [postWrite_upland]
      split
      · exact upland_with ..
      · rfl
  · exact (upland_with ..).trans (foldl_keeps_part State.upland (fun s k => snoopOut_upland s k true) _ s)

theorem undirty_mapWhere (p : TlbEntry → Bool) (d : Bool) (es : List TlbEntry) :
    (mapWhere p (fun e => { e with dirty := d }) es).map TlbEntry.undirty = es.map TlbEntry.undirty := by
  rw [mapWhere, List.map_map]
  refine List.map_congr_left fun e _ => ?_
  rw [Function.comp_apply, apply_ite TlbEntry.undirty]
  exact ite_self _

theorem putDirty_upland (a : Nat) (d : Bool) : (s.putDirty a d).upland = s.upland :=
  (upland_with_tlb _ (by rw [undirty_mapWhere, upland_tlb (homeWrite_upland ..)])).trans (homeWrite_upland ..)

theorem sendPages_upland (p : KPage) (n : Nat) (r : Nat × Nat) : (s.sendPages p n r).upland = s.upland :=
  foldl_keeps_part State.upland (fun s _ => postReq_upland s _ _ _ _ _ _ _ _) _ s

@[simp] theorem examine_upland (p : KPage) (n : Nat) : (s.examine p n).upland = s.upland := by
  unfold State.examine
  dsimp only
  split
  · rfl
  · split
    · rw [putDirty_upland]
      refine (upland_with ..).trans ((foldl_keeps_part State.upland (fun s f => ?_) _ _).trans (upland_with s ..))
      exact (upland_with ..).trans (sendPages_upland ..)
    · rfl

@[simp] theorem setDirty_upland (l : Leaf) : (s.setDirty l).upland = s.upland := by
  rcases setDirty_cases s l with h | h | ⟨p, h⟩ <;> rw [h]
  · exact putDirty_upland ..
  · rw [putDirty_upland, examine_upland]

@[simp] theorem agentWrite_upland (ctx va : Nat) (bs : List Byte) : (s.agentWrite ctx va bs).upland = s.upland := by
  unfold State.agentWrite
  split
  · rfl
  · exact foldl_keeps_part State.upland (fun s p => by rw [homeWrite_upland, setDirty_upland]) _ s

/-! ### Transfers of lines (R211, R212) -/

@[simp] theorem l2Evict_upland (l : L2Line) : (s.l2Evict l).upland = s.upland := by
  unfold State.l2Evict
  dsimp only
  split
  · exact upland_with ..
  · refine (upland_with ..).trans ?_
    split
    · exact (postWrite_upland ..).trans (upland_with ..)
    · exact upland_with ..

@[simp] theorem l2Room_upland (die line : Nat) : (s.l2Room die line).upland = s.upland := by
  unfold State.l2Room
  dsimp only
  split
  · rfl
  · split
    · rfl
    · split
      · rw [l2Evict_upland, choose_upland]
      · exact choose_upland ..

@[simp] theorem crossNow_upland (die line : Nat) (own : Bool) : (s.crossNow die line own).upland = s.upland := by
  unfold State.crossNow State.upland
  dsimp only
  congr 1
  rw [List.map_map]
  conv => rhs; rw [← List.zipIdx_map_fst 0 s.links, List.map_map]
  rfl

@[simp] theorem inherit_upland (line a : Nat) : (s.inherit line a).upland = s.upland := by
  unfold State.inherit State.freeEpoch
  dsimp only
  split
  · split
    · exact choose_upland ..
    · exact choose_upland ..
  · split
    · exact choose_upland ..
    · exact choose_upland ..

@[simp] theorem recall_upland (line : Nat) (take : Bool) : (s.recall line take).upland = s.upland := by
  unfold State.recall
  split
  · rfl
  · split
    · rfl
    · dsimp only
      split
      · exact (inherit_upland ..).trans (snoopOut_upland ..)
      · exact snoopOut_upland ..

@[simp] theorem l2Own_upland (die line : Nat) : (s.l2Own die line).upland = s.upland := by
  unfold State.l2Own
  dsimp only
  split
  · rfl
  · split
    · exact (l2Room_upland ..).trans (by rw [snoopOut_upland, recall_upland, crossNow_upland])
    · exact (snoopOut_upland ..).trans (by rw [recall_upland, crossNow_upland])

/-! ### Publication (R213, R215, R216) -/

@[simp] theorem l1Put_upland (l : L1Line) : (s.l1Put l).upland = s.upland := by unfold State.l1Put; dsimp only; split <;> rfl

@[simp] theorem writePeerBytes_upland (line : Nat) (data : List Byte) (mask : BitVec 128) :
    (s.writePeerBytes line data mask).upland = s.upland := by
  unfold State.writePeerBytes
  dsimp only
  rw [foldl_keeps_part State.upland fun s r => postWrite_upland ..]
  exact foldl_keeps_part State.upland l2Evict_upland _ s

@[simp] theorem publishLine_upland (l : L1Line) : (s.publishLine l).upland = s.upland := by
  unfold State.publishLine
  split
  · rfl
  · split
    · exact (l1Put_upland ..).trans (writePeerBytes_upland ..)
    · exact (l1Put_upland ..).trans (l2Own_upland ..)

@[simp] theorem publishUpTo_upland (core e : Nat) : (s.publishUpTo core e).upland = s.upland := by
  unfold State.publishUpTo
  split
  · rfl
  · exact foldl_keeps_part State.upland publishLine_upland _ s

@[simp] theorem publishAll_upland (core : Nat) : (s.publishAll core).upland = s.upland := by
  unfold State.publishAll
  split
  · rfl
  · exact publishUpTo_upland ..

@[simp] theorem acquireL1_upland (core : Nat) : (s.acquireL1 core).upland = s.upland := rfl

@[simp] theorem fenceAt_upland (core order scope : Nat) : (s.fenceAt core order scope).upland = s.upland := by
  unfold State.fenceAt
  dsimp only
  repeat' split
  all_goals simp

end

end Sys2Proof.Machine

/-! The family of R284 to R296: the forms of the block, cast and package barriers, and their releases. -/

namespace Sys2Proof.Machine
open Sys2Proof

/-! ### Lanes that act one after another -/

/-- What holds of the results of lanes that act one after another, where `P` holds of the lanes still to act and the state. -/
theorem lanesRun_results {x : Ctx} {act : Ctx → State → Nat → State × LaneRes} {Q : LaneRes → Prop} (P : List Nat → State → Prop)
    (h0 : P x.act x.s0) (hstep : ∀ s l r, P (l :: r) s → P r (act x s l).1 ∧ Q (act x s l).2) :
    ∀ p ∈ (x.lanesRun act).2, Q p.2 := by
  have hfold : ∀ (ls : List Nat) s (acc : List (Nat × LaneRes)), P ls s → (∀ p ∈ acc, Q p.2) →
      ∀ p ∈ (ls.foldl (fun (a : State × List (Nat × LaneRes)) l => ((act x a.1 l).1, a.2 ++ [(l, (act x a.1 l).2)])) (s, acc)).2,
        Q p.2 := by
    intro ls
    induction ls with
    | nil => exact fun s acc _ hacc => hacc
    | cons l r ih =>
      intro s acc hP hacc
      obtain ⟨hrest, hres⟩ := hstep s l r hP
      exact ih _ _ hrest (List.forall_mem_append.mpr ⟨hacc, by simpa using hres⟩)
  exact hfold x.act x.s0 [] h0 (List.forall_mem_nil _)

/-- Functions that agree on the elements of a list fold it alike. -/
theorem foldl_congr_mem {α β : Type} {f g : β → α → β} {xs : List α} (h : ∀ b, ∀ x ∈ xs, f b x = g b x) (b : β) :
    xs.foldl f b = xs.foldl g b := by
  induction xs generalizing b with
  | nil => rfl
  | cons x r ih =>
    rw [List.foldl_cons, List.foldl_cons, h b x List.mem_cons_self, ih fun b y hy => h b y (List.mem_cons_of_mem _ hy)]

theorem lanesRun_congr {x : Ctx} {f g : Ctx → State → Nat → State × LaneRes} (h : ∀ l ∈ x.act, ∀ s, f x s l = g x s l) :
    x.lanesRun f = x.lanesRun g :=
  foldl_congr_mem (fun a l hl => by rw [h l hl]) _

/-- An instruction whose body runs its lanes one after another, each of which goes on. -/
theorem acts_of_body {op : Nat} {fn : Option Nat} {reads : List ReadAs} {i : Fields → Instr} {ok : Ctx → Prop} {body : Ctx → BodyRes}
    {lane : Ctx → State → Nat → State × LaneRes} (hi : ∀ w s, exec (i w) s = runLong op fn w s reads body)
    (hb : ∀ x, ok x → body x = laneBody lane x)
    (hgo : ∀ w s x, IssuesLong op fn reads w s x → ok x → ∀ r ∈ (x.lanesRun lane).2, GoesOn r.2) :
    Acts op fn reads i ok lane :=
  fun w s x hx hok => ⟨hgo w s x hx hok, exec_of_body hi hx ((hb x hok).trans (laneBody_eq lane x))⟩

theorem goesOn_waits (waits : Bool) (v : WaitOn) : GoesOn (if waits then .wait v else .next) := by
  cases waits with
  | true => exact .inr (.inr (.inr ⟨v, rfl⟩))
  | false => exact .inl rfl

/-! ### A block but its crews -/

/-- A block without its crews: its barriers, its scratchpad and the rest are left. -/
def Block.sansCrews (b : Block) : Block := { b with body := { b.body with crews := [] } }

theorem updCrew_sansCrews (s : State) (u ci : Nat) (f : Crew → Crew) (v : Nat) :
    ((s.updCrew u ci f).block? v).map Block.sansCrews = (s.block? v).map Block.sansCrews := by
  rw [State.updCrew, updBlock_block? s u v (fun b => b.updCrew ci f) fun _ => rfl]
  split
  · cases s.block? v <;> rfl
  · rfl

/-- A flush changes the counters and the crew whose increments it takes (R363). -/
theorem flushDailies_updCrew (s : State) (u ci : Nat) :
    ∃ ds g, s.flushDailies u ci = ({ s with dailies := ds } : State).updCrew u ci g := by
  unfold State.flushDailies
  split
  · exact ⟨s.dailies, id, (updCrew_id s u ci).symm⟩
  next c _ =>
    have hfold : ∃ ds, c.dailies.foldl (fun (s : State) d =>
        { s with dailies := setSparse s.dailies d.counter (s.daily d.counter + d.sum) }) s = { s with dailies := ds } := by
      refine c.dailies.foldlRecOn _ (motive := fun t : State => ∃ ds, t = { s with dailies := ds }) ⟨s.dailies, rfl⟩ ?_
      rintro t ⟨ds, rfl⟩ d -
      exact ⟨_, rfl⟩
    obtain ⟨ds, hds⟩ := hfold
    exact ⟨ds, _, by rw [hds]⟩

theorem flushDailies_sansCrews (s : State) (u ci v : Nat) :
    ((s.flushDailies u ci).block? v).map Block.sansCrews = (s.block? v).map Block.sansCrews := by
  obtain ⟨ds, g, h⟩ := flushDailies_updCrew s u ci
  rw [h]
  exact updCrew_sansCrews ..

theorem flushDailies_links (s : State) (u ci : Nat) : (s.flushDailies u ci).links = s.links := by
  obtain ⟨ds, g, h⟩ := flushDailies_updCrew s u ci
  rw [h]
  rfl

theorem blockOr_sansCrews {s t : State} {b : Block} (h : (t.block? b.uid).map Block.sansCrews = (s.block? b.uid).map Block.sansCrews) :
    (t.blockOr b).sansCrews = (s.blockOr b).sansCrews := by
  unfold State.blockOr
  cases ht : t.block? b.uid <;> cases hs : s.block? b.uid <;> simp_all

theorem bar_congr {b c : Block} (h : b.sansCrews = c.sansCrews) (n : Nat) : b.bar n = c.bar n := (congrArg (Block.bar · n) h :)

theorem meets_congr {b c : Block} (h : b.sansCrews = c.sansCrews) (pkg : Bool) : b.body.meets pkg = c.body.meets pkg :=
  (congrArg (fun d : Block => d.body.meets pkg) h :)

/-! ### Arrivals at a block barrier (R284, R287) -/

theorem hasArr_append (arrs : List Arr) (a : Arr) (ci l : Nat) :
    hasArr (arrs ++ [a]) ci l = (hasArr arrs ci l || (a.ci == ci && a.lane == l)) := by simp [hasArr]

/-- A barrier of a block after an update of it: changed, or not there. -/
theorem bar_updBar (s : State) (b : Block) (n : Nat) (f : Bar → Bar) :
    ((s.updBar b.uid n f).blockOr b).bar n = (s.blockOr b).bar n ∨ ((s.updBar b.uid n f).blockOr b).bar n = f ((s.blockOr b).bar n) := by
  have hb := updBlock_block? s b.uid b.uid (fun b => { b with body := { b.body with bars := updAt b.body.bars n f } }) fun _ => rfl
  rw [if_pos rfl] at hb
  unfold State.blockOr State.updBar
  rw [hb]
  cases s.block? b.uid with
  | none => exact .inl rfl
  | some c =>
    simp only [Option.map_some, Option.getD_some, Block.bar, List.getD_eq_getElem?_getD, updAt_getElem?, if_pos]
    cases c.body.bars[n]? with
    | none => exact .inl rfl
    | some _ => exact .inr rfl

/-- The lanes still to arrive with a count: none of them has, and the count agrees with what is there. -/
def Ctx.mayArrive (x : Ctx) (k : Nat) (ls : List Nat) (bar : Bar) : Prop :=
  ls.Nodup ∧ (∀ l ∈ ls, x.bv l 32 = k ∧ hasArr bar.arrs x.ci l = false) ∧ (bar.arrs = [] ∨ bar.count = k)

theorem barArrive_goesOn {x : Ctx} (hu : x.b.uid = x.uid) {k : Nat} (hk : k ≤ 1024) (last waits : Bool) (s : State) (l : Nat) (r : List Nat)
    (h : x.mayArrive k (l :: r) ((s.blockOr x.b).bar x.w.a.toNat)) :
    x.mayArrive k r (((barArrive last waits x s l).1.blockOr x.b).bar x.w.a.toNat) ∧ GoesOn (barArrive last waits x s l).2 := by
  obtain ⟨hnodup, hlanes, hcount⟩ := h
  obtain ⟨hl, hr⟩ := List.nodup_cons.mp hnodup
  obtain ⟨⟨hbv, harr⟩, hrest⟩ := List.forall_mem_cons.mp hlanes
  have hagree : (!((s.blockOr x.b).bar x.w.a.toNat).arrs.isEmpty && ((s.blockOr x.b).bar x.w.a.toNat).count != k) = false := by
    rcases hcount with h | h <;> simp [h]
  simp only [barArrive, hbv, harr, hagree, Bool.false_eq_true, if_false, if_neg (Nat.not_lt.mpr hk)]
  refine ⟨⟨hr, ?_⟩, goesOn_waits ..⟩
  have hflush : ((s.flushDailies x.uid x.ci).blockOr x.b).bar x.w.a.toNat = (s.blockOr x.b).bar x.w.a.toNat :=
    bar_congr (blockOr_sansCrews (flushDailies_sansCrews ..)) _
  rw [← hu]
  rw [← hu] at hflush
  rcases bar_updBar (s.flushDailies x.b.uid x.ci) x.b x.w.a.toNat _ with hbar | hbar
  · rw [hbar, hflush]
    exact ⟨hrest, hcount⟩
  · rw [hbar, hflush]
    refine ⟨fun j hj => ⟨(hrest j hj).1, ?_⟩, .inr rfl⟩
    rw [hasArr_append, (hrest j hj).2]
    simpa [Ctx.arr] using fun e : l = j => hl (e ▸ hj)

theorem bar_acts {fn : Nat} {i : Fields → Instr} {last waits : Bool}
    (hi : ∀ w s, exec (i w) s = runLong 0xE6 (some fn) w s readsB (laneBody (barArrive last waits))) :
    Acts 0xE6 (some fn) readsB i Ctx.barOk (barArrive last waits) := by
  refine acts_of_body hi (fun _ _ => rfl) fun w s x hx ⟨hnodup, k, hk, hlanes, hcount⟩ => ?_
  have hbar : (x.s0.blockOr x.b).bar x.w.a.toNat = x.b.bar x.w.a.toNat := by
    refine bar_congr (blockOr_sansCrews (s := s) ?_ |>.trans ?_) _
    · rw [issueCtx_s0 hx.1]; exact updCrew_sansCrews ..
    · rw [State.blockOr, issueCtx_uid hx.1, issueCtx_block? hx.1]; rfl
  refine lanesRun_results (fun ls s => x.mayArrive k ls ((s.blockOr x.b).bar x.w.a.toNat)) ?_
    fun s l r h => barArrive_goesOn (issueCtx_uid hx.1) hk last waits s l r h
  rw [hbar]
  exact ⟨hnodup, hlanes, hcount⟩

/-! ### Arrivals at a cast or a package barrier (R290, R294, R295) -/

theorem meetOf_key (ms : List Meet) (key : Nat) : (meetOf ms key).key = key := by
  unfold meetOf
  split
  next m hm => simpa using List.find?_some hm
  next => rfl

theorem meetOf_putMeet (ms : List Meet) {m : Meet} {key : Nat} (h : m.key = key) : meetOf (putMeet ms m) key = m := by
  have hnone : (ms.filter fun k => k.key != m.key).find? (fun k => k.key == key) = none := by
    rw [List.find?_eq_none]
    intro k hk
    simpa [h] using (List.mem_filter.mp hk).2
  rw [meetOf, putMeet, List.find?_append, hnone]
  simp [h]

/-- The arrivals of a block at cast or package barriers after an update of them. -/
theorem meets_updMeets (s : State) (b : Block) (pkg : Bool) (f : List Meet → List Meet) :
    ((s.updMeets b.uid pkg f).blockOr b).body.meets pkg = (s.blockOr b).body.meets pkg ∨
    ((s.updMeets b.uid pkg f).blockOr b).body.meets pkg = f ((s.blockOr b).body.meets pkg) := by
  have hb := updBlock_block? s b.uid b.uid (fun b =>
    { b with body := if pkg then { b.body with pkgs := f b.body.pkgs } else { b.body with casts := f b.body.casts } }) fun _ => rfl
  rw [if_pos rfl] at hb
  unfold State.blockOr State.updMeets
  rw [hb]
  cases s.block? b.uid with
  | none => exact .inl rfl
  | some c => cases pkg <;> exact .inr rfl

/-- The lanes still to arrive at a cast or package barrier, none of which has, while no spoke link is down. -/
def Ctx.mayMeet (x : Ctx) (pkg : Bool) (key : Nat) (ls : List Nat) (s : State) : Prop :=
  s.downSpokes = [] ∧ ls.Nodup ∧ ∀ l ∈ ls, hasArr (meetOf ((s.blockOr x.b).body.meets pkg) key).arrs x.ci l = false

theorem publishDown_nil {s : State} (h : s.downSpokes = []) (core : Nat) (releases acquires : Bool) :
    s.publishDown core releases acquires = [] := by rw [State.publishDown, h]; rfl

theorem meetArrive_goesOn {x : Ctx} (hu : x.b.uid = x.uid) (pkg last waits : Bool) (key : Nat) (s : State) (l : Nat) (r : List Nat)
    (h : x.mayMeet pkg key (l :: r) s) :
    x.mayMeet pkg key r (meetArrive pkg last waits key x s l).1 ∧ GoesOn (meetArrive pkg last waits key x s l).2 := by
  obtain ⟨hdown, hnodup, hlanes⟩ := h
  obtain ⟨hl, hr⟩ := List.nodup_cons.mp hnodup
  obtain ⟨harr, hrest⟩ := List.forall_mem_cons.mp hlanes
  simp only [meetArrive, harr, publishDown_nil hdown, List.isEmpty_nil, Bool.not_true, Bool.false_eq_true, if_false]
  refine ⟨⟨?_, hr, ?_⟩, goesOn_waits ..⟩
  · refine (downSpokes_congr rfl).trans ((upland_downSpokes (fenceAt_upland ..)).trans ((downSpokes_congr ?_).trans hdown))
    exact flushDailies_links ..
  · have hfence : (((s.flushDailies x.uid x.ci).fenceAt x.b.core 2 4).blockOr x.b).body.meets pkg = (s.blockOr x.b).body.meets pkg := by
      refine meets_congr (blockOr_sansCrews ?_) pkg
      rw [upland_block? (fenceAt_upland ..), flushDailies_sansCrews]
    rw [← hu]
    rw [← hu] at hfence
    rcases meets_updMeets ((s.flushDailies x.b.uid x.ci).fenceAt x.b.core 2 4) x.b pkg _ with hms | hms
    · rw [hms, hfence]
      exact hrest
    · intro j hj
      rw [hms, hfence, meetOf_putMeet, hasArr_append, hrest j hj]
      · simpa [Ctx.arr] using fun e : l = j => hl (e ▸ hj)
      · exact meetOf_key _ key

section
variable {op fn key : Nat} {i : Fields → Instr} {refuse : Ctx → Nat → Option LaneFault} {ok : Ctx → Prop}
  {act : Nat → Ctx → State → Nat → State × LaneRes}

theorem meetBody_of_agreed {x : Ctx} (hkey : key = x.a x.low 32) (hall : ∀ l ∈ x.act, x.a l 32 = key) (hr : refuse x key = none) :
    meetBody refuse act x = laneBody (act key) x := by
  unfold meetBody
  rw [← hkey]
  simp only [hr]
  have hagrees : ∀ l ∈ x.act, x.agrees l = true := fun l hl => by simp [Ctx.agrees, hall l hl, ← hkey]
  rw [laneBody_eq, laneBody_eq, lanesRun_congr fun l hl s => if_pos (hagrees l hl)]

/-- The lanes of a form of `cbar` or `pbar` that agree on a barrier which nothing refuses. -/
theorem meet_acts {pkg last waits : Bool} (hact : act = meetArrive pkg last waits)
    (hi : ∀ w s, exec (i w) s = runLong op (some fn) w s (lowRead [0]) (meetBody refuse act))
    (hok : ∀ x, ok x → key = x.a x.low 32 ∧ (∀ l ∈ x.act, x.a l 32 = key) ∧ refuse x key = none ∧ x.meetOk pkg key) :
    Acts op (some fn) (lowRead [0]) i ok (meetArrive pkg last waits key) := by
  subst hact
  refine acts_of_body hi (fun x hx => ?_) fun w s x hx hx' => ?_
  · obtain ⟨hkey, hall, hr, -⟩ := hok x hx
    exact meetBody_of_agreed hkey hall hr
  · obtain ⟨-, -, -, hdown, hnodup, hlanes⟩ := hok x hx'
    refine lanesRun_results (x.mayMeet pkg key) ⟨hdown, hnodup, ?_⟩ fun s l r h =>
      meetArrive_goesOn (issueCtx_uid hx.1) pkg last waits key s l r h
    have hms : (x.s0.blockOr x.b).body.meets pkg = x.b.body.meets pkg := by
      refine meets_congr (blockOr_sansCrews (s := s) ?_ |>.trans ?_) pkg
      · rw [issueCtx_s0 hx.1]; exact updCrew_sansCrews ..
      · rw [State.blockOr, issueCtx_uid hx.1, issueCtx_block? hx.1]; rfl
    rw [hms]
    exact hlanes

theorem meetAwait_acts {pkg : Bool} (hi : ∀ w s, exec (i w) s = runLong op (some fn) w s (lowRead [0]) (meetBody refuse (meetAwait pkg)))
    (hok : ∀ x, ok x → key = x.a x.low 32 ∧ (∀ l ∈ x.act, x.a l 32 = key) ∧ refuse x key = none) :
    Acts op (some fn) (lowRead [0]) i ok (meetAwait pkg key) := by
  refine acts_of_body hi (fun x hx => ?_) fun w s x hx hx' => lanesRun_results (fun _ _ => True) trivial fun s l r _ => ⟨trivial, ?_⟩
  · obtain ⟨hkey, hall, hr⟩ := hok x hx
    exact meetBody_of_agreed hkey hall hr
  · exact goesOn_waits ..

end

theorem noCast_none {x : Ctx} {key : Nat} (h : (x.s0.castFor x.b key).isSome = true) : noCast x key = none := if_pos h

theorem noPkg_arrives {x : Ctx} {id : Nat} (hid : id ≤ 63) (hc : (x.s0.pkg x.b.ctx id).count ≠ 0) : noPkg true x id = none := by
  simp [noPkg, hc, Nat.not_lt.mpr hid]

theorem noPkg_awaits {x : Ctx} {id : Nat} (hid : id ≤ 63) : noPkg false x id = none := by
  simp [noPkg, Nat.not_lt.mpr hid]

/-- `pbar.cfg` of a barrier that no phase holds (R294). -/
theorem pbarCfg_configures {w : Fields} {s : State} {x : Ctx} (hx : IssuesLong 0xE8 (some 3) (lowRead [0, 1]) w s x) (hact : x.act ≠ [])
    (hid : x.a x.low 32 ≤ 63) (h1 : 1 ≤ x.bv x.low 32) (hmax : x.bv x.low 32 ≤ 65535)
    (harr : (x.s0.pkg x.b.ctx (x.a x.low 32)).arrived = []) (hnext : (x.s0.pkg x.b.ctx (x.a x.low 32)).next = [])
    (hend : (x.s0.pkg x.b.ctx (x.a x.low 32)).ending = none) :
    ∃ t : State, exec (.pbarCfg w) s = .next (x.ends t []) ∧ t.mem = s.mem ∧ t.ctxs = (x.s0.putPkg x.b.ctx
      ⟨x.a x.low 32, x.bv x.low 32, 0, [], [], none⟩).ctxs := by
  have hexec : exec (.pbarCfg w) s = execPbarCfg w s := rfl
  have hempty : x.act.isEmpty = false := by simpa using hact
  have hcount : ¬(x.bv x.low 32 = 0 ∨ x.bv x.low 32 > 65535) := by omega
  have hmem : x.s0.mem = s.mem := by rw [issueCtx_s0 hx.1]; rfl
  rw [hexec, execPbarCfg, runLong_issues hx]
  simp only [hempty, Nat.not_lt.mpr hid, hcount, harr, hnext, hend, Bool.false_eq_true, if_false, List.isEmpty_nil, Bool.not_true,
    Option.isSome_none, Bool.or_self, gt_iff_lt]
  exact ⟨_, rfl, hmem, rfl⟩

/-- Settles O22: the lanes arrive one after another, each with the arrivals of those before it. -/
theorem barrierForms : Obligations.BarrierForms := by
  refine ⟨bar_acts fun _ _ => rfl, bar_acts fun _ _ => rfl, bar_acts fun _ _ => rfl, ends_of_body (fun _ _ => rfl) fun _ _ => rfl,
    ?_, ?_, fun w s x hx => pbarCfg_configures hx⟩
  · rintro key ok rfl
    exact ⟨meet_acts rfl (fun _ _ => rfl) fun x ⟨⟨hk, hall, hc⟩, hm⟩ => ⟨hk, hall, noCast_none hc, hm⟩,
      meet_acts rfl (fun _ _ => rfl) fun x ⟨⟨hk, hall, hc⟩, hm⟩ => ⟨hk, hall, noCast_none hc, hm⟩,
      meetAwait_acts (fun _ _ => rfl) fun x ⟨hk, hall, hc⟩ => ⟨hk, hall, noCast_none hc⟩,
      meet_acts rfl (fun _ _ => rfl) fun x ⟨⟨hk, hall, hc⟩, hm⟩ => ⟨hk, hall, noCast_none hc, hm⟩⟩
  · rintro key ok rfl
    exact ⟨meet_acts rfl (fun _ _ => rfl) fun x ⟨⟨hk, hall, hid⟩, hc, hm⟩ => ⟨hk, hall, noPkg_arrives hid hc, hm⟩,
      meet_acts rfl (fun _ _ => rfl) fun x ⟨⟨hk, hall, hid⟩, hc, hm⟩ => ⟨hk, hall, noPkg_arrives hid hc, hm⟩,
      meetAwait_acts (fun _ _ => rfl) fun x ⟨hk, hall, hid⟩ => ⟨hk, hall, noPkg_awaits hid⟩⟩

/-! ### The release of a block barrier (R288) -/

theorem tellLast_sansCrews (s : State) (u : Nat) (arrs : List Arr) (isLast : Arr → Bool) (v : Nat) :
    ((s.tellLast u arrs isLast).block? v).map Block.sansCrews = (s.block? v).map Block.sansCrews := by
  refine foldl_keeps_part (fun s : State => (s.block? v).map Block.sansCrews) (fun s a => ?_) arrs s
  split
  · exact updCrew_sansCrews ..
  · rfl

/-- A phase whose every live thread has arrived, and whose carried copies are complete, is over. -/
theorem settleBar_releases {s : State} {uid n : Nat} {b : Block} (hb : s.block? uid = some b) (harrs : (b.bar n).arrs ≠ [])
    (hcount : (b.bar n).count = 0) (hall : ∀ p ∈ b.liveThreads, hasArr (b.bar n).arrs p.1 p.2 = true)
    (hcopies : s.copiesDone ((b.bar n).arrs.flatMap (·.carried)) = true) :
    ∃ isLast, s.settleBar uid n = ((s.tellLast uid (b.bar n).arrs isLast).updBar uid n fun _ =>
      { Bar.idle with exits := b.exits }).releaseWaiters uid (.bar n) := by
  have hempty : (b.bar n).arrs.isEmpty = false := by simpa using harrs
  have habsent : (b.liveThreads.filter fun p => !hasArr (b.bar n).arrs p.1 p.2) = [] :=
    List.filter_eq_nil_iff.mpr fun p hp => by rw [hall p hp]; exact Bool.false_ne_true
  unfold State.settleBar
  simp only [hb, hempty, hcount, habsent, hcopies, List.length_nil, Bool.false_eq_true, if_false, if_true]
  split
  · exact ⟨_, rfl⟩
  next hmet => cases hm : (b.bar n).met <;> simp [hm] at hmet

theorem settleBar_done {s : State} {uid n : Nat} {b : Block} (hb : s.block? uid = some b) (harrs : (b.bar n).arrs ≠ [])
    (hcount : (b.bar n).count = 0) (hall : ∀ p ∈ b.liveThreads, hasArr (b.bar n).arrs p.1 p.2 = true)
    (hcopies : s.copiesDone ((b.bar n).arrs.flatMap (·.carried)) = true) :
    ∃ b', (s.settleBar uid n).block? uid = some b' ∧ b'.bar n = { Bar.idle with exits := b.exits } ∧
      ∀ c ∈ b'.body.crews, ∀ t ∈ c.threads, t.waitsOn ≠ some (.bar n) := by
  obtain ⟨isLast, hsettle⟩ := settleBar_releases hb harrs hcount hall hcopies
  have htold := tellLast_sansCrews s uid (b.bar n).arrs isLast uid
  rw [hb] at htold
  obtain ⟨c, hc, hcb⟩ := Option.map_eq_some_iff.mp htold
  have hbars : c.body.bars = b.body.bars := (congrArg (fun d : Block => d.body.bars) hcb :)
  have hupd := updBlock_block?_same hc (fun c => { c with body := { c.body with bars := updAt c.body.bars n fun _ =>
    ({ Bar.idle with exits := b.exits } : Bar) } }) fun _ => rfl
  rw [hsettle]
  refine ⟨_, releaseWaiters_block? hupd _, ?_, freed_waitsOn _ _⟩
  have hthere : ∃ k, b.body.bars[n]? = some k := by
    refine Classical.byContradiction fun hnone => harrs ?_
    rw [Block.bar, List.getD_eq_getElem?_getD, Option.eq_none_iff_forall_ne_some.mpr fun k hk => hnone ⟨k, hk⟩]
    rfl
  obtain ⟨k, hk⟩ := hthere
  simp only [Block.freed, Block.bar, List.getD_eq_getElem?_getD, updAt_getElem?, hbars, hk, if_true]
  rfl

/-! ### Arrivals counted at a cast and at the root of the clapper tree (R290, R291, R295, R296) -/

theorem castCount_counts {uid cast ph : Nat} {s : State} {b : Block} {h : CastHub} (hb : s.block? uid = some b)
    (hsent : (meetOf b.body.casts cast).sent = some ph) (hcounted : (meetOf b.body.casts cast).counted = false)
    (hcast : s.castFor b cast = some h) :
    ∃ s1 : State, s1.launches = s.launches ∧ s1.mem = s.mem ∧ exec (.castArrival uid cast) s =
      .next (if ph < h.g ∨ (h.arrived.any fun a => a.1 == b.lin) = true then s1
        else (s1.updCast b.launch cast fun h => { h with arrived := h.arrived ++ [(b.lin, s.hubCycle)] }).castTest b.launch cast true) := by
  have hexec : exec (.castArrival uid cast) s = execCastArrival uid cast s := rfl
  refine ⟨s.updMeets uid false fun ms => putMeet ms { meetOf b.body.casts cast with counted := true }, rfl, rfl, ?_⟩
  rw [hexec, execCastArrival, State.castCount]
  simp only [hb, hsent, hcounted, hcast, Bool.or_eq_true, decide_eq_true_eq]
  rfl

theorem pkgCount_counts {uid id ph : Nat} {s : State} {b : Block} (hb : s.block? uid = some b)
    (hsent : (meetOf b.body.pkgs id).sent = some ph) (hcounted : (meetOf b.body.pkgs id).counted = false)
    (hg : (s.pkg b.ctx id).g ≤ ph) (hnew : (b.launch, b.lin) ∉ (s.pkg b.ctx id).arrived) (hend : (s.pkg b.ctx id).ending = none) :
    ∃ s1 : State, s1.ctxs = s.ctxs ∧ s1.mem = s.mem ∧ exec (.clapperRootArrival uid id) s = .next ((s1.putPkg b.ctx
      { s.pkg b.ctx id with arrived := (s.pkg b.ctx id).arrived ++ [(b.launch, b.lin)] }).pkgTest b.ctx id) := by
  have hexec : exec (.clapperRootArrival uid id) s = execClapperRootArrival uid id s := rfl
  have hcounts : ¬(ph < (s.pkg b.ctx id).g ∨ (s.pkg b.ctx id).arrived.contains (b.launch, b.lin) = true) := by
    simpa [Nat.not_lt] using ⟨hg, hnew⟩
  refine ⟨s.updMeets uid true fun ms => putMeet ms { meetOf b.body.pkgs id with counted := true, sent := some ph }, rfl, rfl, ?_⟩
  rw [hexec, execClapperRootArrival, State.pkgCount]
  simp only [hb, hsent, hcounted, hcounts, hend, Bool.false_eq_true, if_false, Option.isSome_none]

/-- Settles O23: each release and count from what its guards leave of the test. -/
theorem barrierReleases : Obligations.BarrierReleases := by
  refine ⟨fun s uid n b => settleBar_done, fun uid cast ph s b h => castCount_counts, fun uid id ph s b => pkgCount_counts,
    fun ctx id t s hend ht => ?_⟩
  have hexec : exec (.clapperCountdownElapse ctx id) s = execClapperCountdownElapse ctx id s := rfl
  simp only [hexec, execClapperCountdownElapse, hend, Nat.not_lt.mpr ht, if_false]

end Sys2Proof.Machine

/-! The family of R298 to R304: the events of queues, and the arbiter. -/

namespace Sys2Proof.Machine
open Sys2Proof

/-! ### Tables by number -/

theorem find?_putKey {α : Type} (t : List (Nat × α)) (k : Nat) (v : α) (j : Nat) :
    (putKey t k v).find? (fun p => p.1 == j) = if j = k then some (k, v) else t.find? fun p => p.1 == j := by
  by_cases hj : j = k
  · subst hj
    fun_induction putKey t j v <;> simp_all
  · have hk : (k == j) = false := beq_eq_false_iff_ne.mpr (Ne.symm hj)
    fun_induction putKey t k v <;> simp_all [List.find?_cons]

theorem queue_putQueue (s : State) (n : Nat) (q : Queue) (m : Nat) : (s.putQueue n q).queue m = if m = n then q else s.queue m := by
  unfold State.queue State.putQueue
  rw [find?_putKey]
  by_cases h : m = n
  · rw [if_pos h, if_pos h]
  · rw [if_neg h, if_neg h]

/-! ### Queues bound, unbound, rung and picked (R298 to R303) -/

section
variable (s : State)
@[simp] theorem exec_queueBind (n cfg : Nat) : exec (.queueBind n cfg) s = execQueueBind n cfg s := rfl
@[simp] theorem exec_queueUnbind (n : Nat) : exec (.queueUnbind n) s = execQueueUnbind n s := rfl
@[simp] theorem exec_qtail (n v : Nat) : exec (.qtail n v) s = execQtail n v s := rfl
@[simp] theorem exec_tailReread (n : Nat) : exec (.tailReread n) s = execTailReread n s := rfl
@[simp] theorem exec_waitWordChange (n : Nat) : exec (.waitWordChange n) s = execWaitWordChange n s := rfl
@[simp] theorem exec_arbiterPick : exec .arbiterPick s = execArbiterPick s := rfl
@[simp] theorem exec_budgetPeriod : exec .budgetPeriod s = execBudgetPeriod s := rfl
end

/-- A copy of this device's memory given up changes nothing but the copies. -/
theorem l2Evict_of_own {s : State} {l : L2Line} (h : peerLine l.line = false) : s.l2Evict l =
    { s with l2 := s.l2.filter fun x => !(x.die == l.die && x.line == l.line) } := by
  rw [State.l2Evict, h]; rfl

theorem unwatch_of_own {s : State} (h : ∀ k ∈ s.l2, peerLine k.line = false) (watch : Nat) :
    (s.unwatch watch).mem = s.mem ∧ ∀ k ∈ (s.unwatch watch).l2, peerLine k.line = false := by
  refine (s.l2.filter fun l => l.die == watch).foldlRecOn State.l2Evict
    (motive := fun t => t.mem = s.mem ∧ ∀ k ∈ t.l2, peerLine k.line = false) ⟨rfl, h⟩ fun t ⟨hm, hl⟩ l hk => ?_
  rw [l2Evict_of_own (h l (List.mem_filter.mp hk).1)]
  exact ⟨hm, fun k hk => hl k (List.mem_filter.mp hk).1⟩

theorem unbindQueue_unbinds {s : State} (h : ∀ k ∈ s.l2, peerLine k.line = false) (n : Nat) :
    (s.unbindQueue n).mem = s.mem ∧ ((s.unbindQueue n).queue n).en = false := by
  unfold State.unbindQueue
  dsimp only
  split
  next =>
    obtain ⟨htail, hl2⟩ := unwatch_of_own h (tailWatch n)
    rw [putQueue_mem, queue_putQueue, if_pos rfl]
    exact ⟨((unwatch_of_own hl2 _).1).trans htail, rfl⟩
  next hen => exact ⟨rfl, Bool.eq_false_iff.mpr hen⟩

theorem bindTail_of_got {s t' : State} {n t : Nat} {b : Queue} (h : s.tailOf n b = (t', .got t)) :
    s.bindTail n b = (t'.putQueue n { b with head := t, tail := t, binding := false }).writeHead
      { b with head := t, tail := t, binding := false } := by
  rw [State.bindTail, h]

theorem execQueueBind_binds {n cfg : Nat} {s : State} (hw : s.awake = true) (hn : n < 1024) (hen : (s.queue n).en = false)
    (h4 : 4 ≤ ((s.queue n).setCfg cfg).log2sz) (h16 : ((s.queue n).setCfg cfg).log2sz ≤ 16)
    (hfree : ∀ c, s.ctxs[((s.queue n).setCfg cfg).ctx]? = some c → c.state ≠ .free)
    (hctx : (s.ctxs[((s.queue n).setCfg cfg).ctx]?).isSome = true)
    (hdoor : ¬(((s.queue n).setCfg cfg).dev = true ∧ ((s.queue n).setCfg cfg).door = true)) :
    execQueueBind n cfg s = .next (s.bindTail n { (s.queue n).setCfg cfg with
      en := true, st := .empty, cause := 0, record := none, met := false, tail := ((s.queue n).setCfg cfg).head, binding := true }) := by
  obtain ⟨c, hc⟩ := Option.isSome_iff_exists.mp hctx
  have hst := hfree c hc
  simp only [execQueueBind, hw, hen, hc]
  rw [if_neg (by simp), if_neg (by simpa using hn), if_neg]
  simp only [Bool.or_eq_true, decide_eq_true_eq, beq_iff_eq, Bool.and_eq_true, not_or]
  exact ⟨⟨⟨by omega, by omega⟩, hst⟩, hdoor⟩

/-- Settles O33: each event under its guards; a queue that binds takes TAIL as HEAD, and one that unbinds gives up only copies. -/
theorem queueEvents : Obligations.QueueEvents := by
  refine ⟨fun n cfg t s t' hw hn hen h4 h16 hfree hctx hdoor hgot => ?_,
    fun n s hw hl2 => ⟨?_, unbindQueue_unbinds hl2 n⟩, fun n v s hw hn hd => ?_, fun n s hn hl => ?_, fun n v s hr => ?_,
    fun n v s hc hr => ?_, fun s hp => if_neg (Nat.not_lt.mpr hp)⟩
  · exact (execQueueBind_binds hw hn hen h4 h16 hfree hctx hdoor).trans (congrArg _ (bindTail_of_got hgot))
  · simp [execQueueUnbind, hw]
  · simp [execQtail, hw, hn, hd]
  · simp [execTailReread, hn, hl]
  · simp only [exec_waitWordChange, execWaitWordChange, hr, List.all_eq_true]
  · simp only [exec_arbiterPick, execArbiterPick, hc, hr]

/-! ### The arbiter (R304) -/

/-- The least of some things by a key is one of them. -/
theorem mem_of_leastBy {α : Type} {key : α → Nat} {xs : List α} {a : α} (h : leastBy key xs = some a) : a ∈ xs := by
  have hmem : ∀ b, leastBy key xs = some b → b ∈ xs := by
    refine xs.foldlRecOn _ (motive := fun o => ∀ b, o = some b → b ∈ xs) (by simp) fun best hbest x hx b hb => ?_
    split at hb
    next => exact Option.some.inj hb ▸ hx
    next y =>
      split at hb
      next => exact Option.some.inj hb ▸ hx
      next => exact hbest b hb
  exact hmem a h

theorem le_foldl_max {α : Type} (f : α → Nat) (xs : List α) (m : Nat) :
    m ≤ xs.foldl (fun m x => max m (f x)) m ∧ ∀ a ∈ xs, f a ≤ xs.foldl (fun m x => max m (f x)) m := by
  induction xs generalizing m with
  | nil => exact ⟨Nat.le_refl m, List.forall_mem_nil _⟩
  | cons x r ih =>
    obtain ⟨hm, hr⟩ := ih (max m (f x))
    exact ⟨Nat.le_trans (Nat.le_max_left ..) hm, List.forall_mem_cons.mpr ⟨Nat.le_trans (Nat.le_max_right ..) hm, hr⟩⟩

/-- Settles O34: the queue picked is one of the READY ones of the highest priority. -/
theorem arbiterTakesHighestPriority : Obligations.ArbiterTakesHighestPriority := by
  intro s n h
  obtain ⟨⟨i, q⟩, hleast, rfl⟩ := Option.map_eq_some_iff.mp h
  obtain ⟨hready, htop⟩ := List.mem_filter.mp (mem_of_leastBy hleast)
  obtain ⟨hq, hst⟩ := List.mem_filter.mp hready
  refine ⟨q, hq, eq_of_beq hst, fun p hp hpst => ?_⟩
  rw [eq_of_beq htop]
  exact (le_foldl_max (fun p : Nat × Queue => p.2.prio) _ 0).2 p (List.mem_filter.mpr ⟨hp, by rw [hpst]; rfl⟩)
end Sys2Proof.Machine

/-! The family of R327 to R338: how faults reach the handler of a context, and the instructions of traps and the timer. A delivery is one
update of the crew (`takeFaults_delivers`); what a lane then holds is read off the last delivery made to it. -/

namespace Sys2Proof.Machine
open Sys2Proof

/-! ### Updates of several lanes -/

theorem foldl_updThread_lane {α : Type} (g : Nat × α → Thread → Thread) (fs : List (Nat × α)) (c : Crew) (l : Nat) :
    (fs.foldl (fun c p => c.updThread p.1 (g p)) c).threads[l]? =
      c.threads[l]?.map fun t => (fs.filter fun p => p.1 == l).foldl (fun t p => g p t) t := by
  induction fs generalizing c with
  | nil => simp
  | cons p r ih =>
    rw [List.foldl_cons, ih, Crew.updThread, updAt_getElem?]
    by_cases h : l = p.1
    · rw [if_pos h, List.filter_cons_of_pos (by simp [h]), Option.map_map]
      rfl
    · rw [if_neg h, List.filter_cons_of_neg (by simpa using Ne.symm h)]

/-- Elements of a list whose images under a function all differ are told apart by it. -/
theorem eq_of_nodup_map {α β : Type} {f : α → β} {xs : List α} (h : (xs.map f).Nodup) {a b : α} (ha : a ∈ xs) (hb : b ∈ xs)
    (he : f a = f b) : a = b := by
  induction xs with
  | nil => cases ha
  | cons x r ih =>
    obtain ⟨hx, hr⟩ := List.nodup_cons.mp h
    rcases List.mem_cons.mp ha with hax | har
    · rcases List.mem_cons.mp hb with hbx | hbr
      · exact hax.trans hbx.symm
      · exact absurd (hax ▸ he ▸ List.mem_map_of_mem hbr) hx
    · rcases List.mem_cons.mp hb with hbx | hbr
      · exact absurd (hbx ▸ he ▸ List.mem_map_of_mem har) hx
      · exact ih hr har hbr

theorem filterMap_congr_mem {α β : Type} {f g : α → Option β} {xs : List α} (h : ∀ x ∈ xs, f x = g x) :
    xs.filterMap f = xs.filterMap g := by
  induction xs with
  | nil => rfl
  | cons x r ih =>
    rw [List.filterMap_cons, List.filterMap_cons, h x List.mem_cons_self, ih fun y hy => h y (List.mem_cons_of_mem _ hy)]

/-- What every step of a fold makes true holds after the last. -/
theorem foldl_of_every {α β : Type} {R : β → Prop} {g : α → β → β} {qs : List α} (hne : qs ≠ []) (h : ∀ p ∈ qs, ∀ b, R (g p b)) (b : β) :
    R (qs.foldl (fun b p => g p b) b) := by
  rw [← List.dropLast_concat_getLast hne, List.foldl_append]
  exact h _ (List.getLast_mem hne) _

/-! ### Delivery (R327, R331) -/

theorem classesOf_one {fs : List (Nat × LaneFault)} {cls : Nat} (hne : fs ≠ []) (hcls : ∀ p ∈ fs, p.2.cls = cls) (h : cls < 0x13) :
    classesOf fs = [cls] := by
  have hany : ∀ k, (fs.any fun p => p.2.cls == k) = (k == cls) := fun k => by
    rw [Bool.eq_iff_iff, List.any_eq_true]
    constructor
    · rintro ⟨p, hp, hk⟩
      rw [← eq_of_beq hk, hcls p hp]
      exact beq_self_eq_true cls
    · intro hk
      obtain ⟨p, hp⟩ := List.exists_mem_of_ne_nil fs hne
      exact ⟨p, hp, by rw [hcls p hp, eq_of_beq hk]; exact beq_self_eq_true cls⟩
  simp only [classesOf, hany, List.filter_beq]
  rw [List.nodup_range.count, if_pos (List.mem_range.mpr h)]
  rfl

section
variable {s : State} {uid ci pc next cls : Nat} {fs : List (Nat × LaneFault)} {offer : Bool} {b : Block} {c : Crew} {k : Context}

/-- Faults of one class that the context takes in every lane are one delivery. -/
theorem takeFaults_delivers (hb : s.block? uid = some b) (hc : b.crew? ci = some c) (hk : s.ctxs[b.ctx]? = some k)
    (hdel : k.delivers cls = true) (hmode : ∀ p ∈ fs, ∃ t, c.threads[p.1]? = some t ∧ t.hmode = false) (hne : fs ≠ [])
    (hcls : ∀ p ∈ fs, p.2.cls = cls) (hpage : ∀ p ∈ fs, p.2.isPage = true → offer = false ∨ k.pfbase = 0) (hlt : cls < 0x13) :
    s.takeFaults uid ci pc next fs offer false =
      s.updCrew uid ci fun c => (c.noteFaults (s.clockOf b.core) fs).deliver k.tvec pc next fs := by
  unfold State.takeFaults
  simp -zeta only [hb, hc, hk]
  extract_lets +onlyGivenNames hm serviced delivered toPark toKill
  have hserviced : ∀ p ∈ fs, serviced p = false := fun p hp => by
    cases hi : p.2.isPage
    · simp [serviced, hi]
    · rcases hpage p hp hi with h | h <;> simp [serviced, h]
  have hdelivered : ∀ p ∈ fs, delivered p = true := fun p hp => by
    obtain ⟨t, ht, hh⟩ := hmode p hp
    simp [delivered, hm, hserviced p hp, ht, hh, hcls p hp, hdel]
  have hnoPark : toPark = [] := List.filter_eq_nil_iff.mpr fun p hp => by rw [hserviced p hp]; exact Bool.false_ne_true
  have hnoKill : toKill = [] := List.filter_eq_nil_iff.mpr fun p hp => by simp [hdelivered p hp]
  have hall : fs.filter delivered = fs := List.filter_eq_self.mpr hdelivered
  have hone : fs.filter (fun p => delivered p && p.2.cls == cls) = fs :=
    List.filter_eq_self.mpr fun p hp => by rw [hdelivered p hp, hcls p hp]; simp
  simp only [hnoPark, hnoKill, hall, classesOf_one hne hcls hlt, List.isEmpty_nil, if_true, List.foldl_nil, List.foldl_cons, hone,
    updCrew_updCrew]

end

/-- A lane after a delivery: its latches are lost, and its faults are delivered to it one after another. -/
theorem deliver_lane (c : Crew) (tvec pc next : Nat) (fs : List (Nat × LaneFault)) (l : Nat) :
    (c.deliver tvec pc next fs).threads[l]? = c.threads[l]?.map fun t => (fs.filter fun p => p.1 == l).foldl
      (fun t p => t.deliver tvec p.2 (laneMask (fs.map (·.1))) pc next) t.loseLatches := by
  unfold Crew.deliver
  rw [foldl_updThread_lane fun p t => t.deliver tvec p.2 (laneMask (fs.map (·.1))) pc next]
  change (c.threads.map Thread.loseLatches)[l]?.map _ = _
  rw [List.getElem?_map, Option.map_map]
  rfl

/-- A lane that a delivery reaches holds the record of one of its faults. -/
theorem deliver_delivered {c : Crew} {tvec pc next l : Nat} {fs : List (Nat × LaneFault)} {f : LaneFault} {t : Thread}
    (ht : c.threads[l]? = some t) (hl : l ∈ fs.map (·.1)) (hf : ∀ p ∈ fs, p.1 = l → p.2 = f) :
    ∃ h, (c.deliver tvec pc next fs).threads[l]? = some h ∧
      Delivered h tvec f (laneMask (fs.map (·.1))) (if 0x10 ≤ f.cls then next else pc) := by
  obtain ⟨p, hp, rfl⟩ := List.mem_map.mp hl
  rw [deliver_lane, ht]
  refine ⟨_, rfl, foldl_of_every (R := fun h => Delivered h tvec f _ _)
    (List.ne_nil_of_mem (List.mem_filter.mpr ⟨hp, beq_self_eq_true p.1⟩)) (fun q hq t => ?_) _⟩
  obtain ⟨hq, he⟩ := List.mem_filter.mp hq
  rw [hf q hq (eq_of_beq he)]
  exact ⟨rfl, rfl, rfl, rfl, rfl, rfl, rfl, rfl, rfl⟩

/-- A lane that a delivery does not reach loses its latches. -/
theorem deliver_other {c : Crew} {tvec pc next l : Nat} {fs : List (Nat × LaneFault)} (hl : l ∉ fs.map (·.1)) :
    (c.deliver tvec pc next fs).threads[l]? = c.threads[l]?.map Thread.loseLatches := by
  have hnone : (fs.filter fun p => p.1 == l) = [] :=
    List.filter_eq_nil_iff.mpr fun p hp he => hl (eq_of_beq he ▸ List.mem_map_of_mem hp)
  rw [deliver_lane, hnone]
  rfl

theorem noteFaults_threads (c : Crew) (clk : Nat) (fs : List (Nat × LaneFault)) : (c.noteFaults clk fs).threads = c.threads := by
  unfold Crew.noteFaults Crew.inCycle
  dsimp only
  split <;> rfl

theorem thread?_updCrew (s : State) (u ci : Nat) (f : Crew → Crew) (l : Nat) :
    (s.updCrew u ci f).thread? u ci l = (s.crew? u ci).bind fun c => (f c).threads[l]? := by
  rw [State.thread?, updCrew_crew?, if_pos ⟨rfl, rfl⟩]
  cases s.crew? u ci <;> rfl

/-- The crew of the lanes that a context takes a class in. -/
theorem takes_crew {s : State} {uid ci cls : Nat} {ls : List Nat} {b : Block} {k : Context} (h : Takes s uid ci ls b k cls) (hne : ls ≠ []) :
    ∃ c, s.crew? uid ci = some c ∧ b.crew? ci = some c ∧ ∀ l ∈ ls, ∃ t, c.threads[l]? = some t ∧ t.hmode = false := by
  obtain ⟨hb, -, -, hmode⟩ := h
  obtain ⟨l, hl⟩ := List.exists_mem_of_ne_nil ls hne
  obtain ⟨t, ht, -⟩ := hmode l hl
  obtain ⟨c, hc, -⟩ := Option.bind_eq_some_iff.mp ht
  have hcb := hc
  rw [State.crew?, hb] at hcb
  refine ⟨c, hc, hcb, fun l hl => ?_⟩
  obtain ⟨t, ht, hm⟩ := hmode l hl
  rw [State.thread?, hc] at ht
  exact ⟨t, ht, hm⟩

/-- Settles O38: the faults are one delivery, in which each lane's record is its own. -/
theorem faultDelivery : Obligations.FaultDelivery := by
  intro s uid ci pc next cls fs offer b k htakes hnodup hne hfs hlt
  obtain ⟨c, hc, hcb, hmode⟩ := takes_crew htakes (by simpa using hne)
  obtain ⟨hb, hk, hdel, -⟩ := htakes
  rw [takeFaults_delivers hb hcb hk hdel (fun p hp => hmode p.1 (List.mem_map_of_mem hp)) hne (fun p hp => (hfs p hp).1)
    (fun p hp => (hfs p hp).2) hlt]
  refine ⟨fun p hp => ?_, fun l t ht hl => ?_, updCrew_mem ..⟩
  · obtain ⟨t, ht, -⟩ := hmode p.1 (List.mem_map_of_mem hp)
    rw [thread?_updCrew, hc, ← (hfs p hp).1]
    exact deliver_delivered (by rw [noteFaults_threads]; exact ht) (List.mem_map_of_mem hp) fun q hq he =>
      congrArg Prod.snd (eq_of_nodup_map hnodup hq hp he)
  · rw [State.thread?, hc] at ht
    rw [thread?_updCrew, hc]
    refine ⟨t.loseLatches, ?_, rfl, rfl, rfl, rfl, rfl, rfl⟩
    change ((c.noteFaults _ fs).deliver _ _ _ fs).threads[l]? = _
    rw [deliver_other hl, noteFaults_threads]
    exact congrArg (Option.map Thread.loseLatches) ht

/-! ### An instruction that faults in every active lane (R331) -/

/-- Whether each lane of a crew is in handler mode. -/
def Crew.modes (c : Crew) : List Bool := c.threads.map (·.hmode)

theorem updThread_modes {f : Thread → Thread} (hf : ∀ t, (f t).hmode = t.hmode) (c : Crew) (l : Nat) : (c.updThread l f).modes = c.modes :=
  map_updAt hf c.threads l

theorem foldl_modes {α : Type} {f : Crew → α → Crew} (hf : ∀ c a, (f c a).modes = c.modes) (as : List α) (c : Crew) :
    (as.foldl f c).modes = c.modes :=
  as.foldlRecOn f (motive := fun d => d.modes = c.modes) rfl fun d hd a _ => (hf d a).trans hd

theorem modes_lane {c d : Crew} (h : d.modes = c.modes) {l : Nat} {t : Thread} (ht : c.threads[l]? = some t) :
    ∃ u, d.threads[l]? = some u ∧ u.hmode = t.hmode := by
  have hl := congrArg (fun ms : List Bool => ms[l]?) h
  simp only [Crew.modes, List.getElem?_map, ht, Option.map_some] at hl
  exact Option.map_eq_some_iff.mp hl

theorem finish_hmode (t : Thread) (r : LaneRes) (i : Option Instr) (ks : List KCell) (len stall clk : Nat) (staleAt : Nat → Option Nat) :
    (t.finish r i ks len stall clk staleAt).hmode = t.hmode := by cases r <;> rfl

theorem hints_modes (x : Ctx) (c : Crew) : (x.hints c).modes = c.modes := by unfold Ctx.hints; split <;> rfl

theorem setFmask_modes (c : Crew) (m : Nat) : (c.setFmask m).modes = c.modes := rfl

theorem ite_modes {f : Crew → Crew} (hf : ∀ c, (f c).modes = c.modes) (p : Prop) [Decidable p] (c : Crew) :
    (if p then f c else c).modes = c.modes := by
  split
  · exact hf c
  · rfl

theorem inCycle_modes (c : Crew) (clk : Nat) : (c.inCycle clk).modes = c.modes := by unfold Crew.inCycle; split <;> rfl

theorem resultOf_faults (ls : List Nat) (f : Nat → LaneFault) (l : Nat) :
    resultOf (ls.map fun l => (l, .fault (f l))) l = if l ∈ ls then .fault (f l) else .next := by
  unfold resultOf
  rw [List.find?_map]
  by_cases h : l ∈ ls
  · have hfind : ls.find? (· == l) = some l := by
      obtain ⟨k, hk⟩ := Option.isSome_iff_exists.mp (List.find?_isSome (p := fun k => k == l).mpr ⟨l, h, beq_self_eq_true l⟩)
      have hkl : (k == l) = true := List.find?_some (p := fun k => k == l) hk
      rw [hk, eq_of_beq hkl]
    rw [if_pos h]
    simp only [Function.comp_def, hfind, Option.map_some]
  · have hfind : ls.find? (· == l) = none := List.find?_eq_none.mpr fun k hk he => h (eq_of_beq he ▸ hk)
    rw [if_neg h]
    simp only [Function.comp_def, hfind, Option.map_none]

theorem issueCtx_act {s : State} {op len : Nat} {w : Fields} {x : Ctx} (h : s.issueCtx op len w = some x) :
    ∃ g : Nat → Bool, x.act = x.bundle.filter g := by
  unfold State.issueCtx at h
  split at h
  · cases h
  · split at h
    · cases h
    · split at h
      · cases h
      · cases h; exact ⟨_, rfl⟩

/-- The faulting lanes of a bundle in which every active lane faults are the active ones. -/
theorem bundle_faults {x : Ctx} {g : Nat → Bool} (hact : x.act = x.bundle.filter g) (f : Nat → LaneFault) :
    x.bundle.filterMap (fun l => match resultOf (x.act.map fun l => (l, .fault (f l))) l with | .fault f => some (l, f) | _ => none) =
      x.act.map fun l => (l, f l) := by
  have hres : ∀ l ∈ x.bundle, (match resultOf (x.act.map fun l => (l, .fault (f l))) l with | .fault f => some (l, f) | _ => none) =
      if g l then some (l, f l) else none := fun l hl => by
    rw [resultOf_faults, hact]
    by_cases hg : g l = true <;> simp [hl, hg]
  rw [filterMap_congr_mem hres, hact, ← List.filterMap_eq_map, List.filterMap_filter]
  rfl

/-- The end of an instruction in which every active lane faults: the lanes leave the bundle, and their faults are taken. -/
theorem finishIssue_faults {x : Ctx} {g : Nat → Bool} (hact : x.act = x.bundle.filter g) (hne : x.act ≠ []) (s : State) (f : Nat → LaneFault)
    (fatal : Bool) :
    ∃ (t : State) (h : Crew → Crew), finishIssue x s x.act (x.act.map fun l => (l, .fault (f l))) fatal =
        t.takeFaults x.uid x.ci x.pc (x.pc + x.len) (x.act.map fun l => (l, f l)) true fatal ∧
      t.blocks = (s.updCrew x.uid x.ci h).blocks ∧ t.ctxs = s.ctxs ∧ t.mem = s.mem ∧ ∀ c, (h c).modes = c.modes := by
  unfold finishIssue
  extract_lets +onlyGivenNames res faults exits
  have hfaults : faults = x.act.map fun l => (l, f l) := bundle_faults hact f
  have hexits : exits = [] := List.filter_eq_nil_iff.mpr fun l _ => by
    have hl : res l = _ := resultOf_faults x.act f l
    rw [hl]
    by_cases ha : l ∈ x.act <;> simp [ha]
  clear_value faults exits
  subst hfaults hexits
  rw [if_neg (by simpa using hne)]
  refine ⟨_, _, rfl, rfl, rfl, rfl, fun c => ?_⟩
  refine (foldl_modes (α := Nat × LaneFault) (fun c p => updThread_modes (f := fun t => t.park .replay) (fun _ => rfl) c p.1) _ _).trans ?_
  refine (ite_modes (fun c => setFmask_modes c _) _ _).trans ((hints_modes ..).trans ?_)
  exact foldl_modes (fun c l => updThread_modes (f := fun t => t.finish ..) (fun t => finish_hmode ..) c l) _ c

/-- Every active lane faults with a class that the context takes: each enters the handler with its own record. -/
theorem faults_delivered {s s1 : State} {op len cls : Nat} {w : Fields} {x : Ctx} {k : Context} {f : Nat → LaneFault}
    (hx : s.issueCtx op len w = some x) (hne : x.act ≠ []) (htakes : Takes s x.uid x.ci x.act x.b k cls)
    (hcls : ∀ l, (f l).cls = cls) (hpage : ∀ l, (f l).isPage = false) (hlt : cls < 0x13) (hblocks : s1.blocks = x.s0.blocks)
    (hctxs : s1.ctxs = s.ctxs) (hmem : s1.mem = s.mem) :
    ∃ t, finishIssue x s1 x.act (x.act.map fun l => (l, .fault (f l))) false = t ∧ t.mem = s.mem ∧
      ∀ l ∈ x.act, ∃ h, t.thread? x.uid x.ci l = some h ∧
        Delivered h k.tvec (f l) (laneMask x.act) (if 0x10 ≤ cls then x.pc + x.len else x.pc) := by
  obtain ⟨g, hact⟩ := issueCtx_act hx
  obtain ⟨t, h, hfinish, htb, htc, htm, hmodes⟩ := finishIssue_faults hact hne s1 f false
  obtain ⟨c, hc, hcb, hmode⟩ := takes_crew htakes hne
  obtain ⟨hb, hk, hdel, -⟩ := htakes
  have hlanes : (x.act.map fun l => (l, f l)).map Prod.fst = x.act := by simp [Function.comp_def]
  have hs1 : s1.block? x.uid = some (x.b.updCrew x.ci fun c => c.inCycle x.clk) := by
    rw [State.block?, hblocks]; exact issueCtx_s0_block? hx
  have hbt : t.block? x.uid = some ((x.b.updCrew x.ci fun c => c.inCycle x.clk).updCrew x.ci h) := by
    rw [State.block?, htb]; exact updBlock_block?_same hs1 (fun b => b.updCrew x.ci h) fun _ => rfl
  have hct : ((x.b.updCrew x.ci fun c => c.inCycle x.clk).updCrew x.ci h).crew? x.ci = some (h (c.inCycle x.clk)) := by
    have hget : x.b.body.crews[x.ci]? = some c := hcb
    simp [Block.crew?, Block.updCrew, updAt_getElem?, hget]
  have hmodeT : ∀ l ∈ x.act, ∃ u, (h (c.inCycle x.clk)).threads[l]? = some u ∧ u.hmode = false := fun l hl => by
    obtain ⟨u, hu, hm⟩ := hmode l hl
    obtain ⟨v, hv, hvm⟩ := modes_lane ((hmodes _).trans (inCycle_modes c x.clk)) hu
    exact ⟨v, hv, hvm.trans hm⟩
  refine ⟨_, rfl, ?_⟩
  rw [hfinish, takeFaults_delivers (k := k) (cls := cls) hbt hct (by rw [htc, hctxs]; exact hk) hdel
    (List.forall_mem_map.mpr hmodeT) (by simpa using hne) (List.forall_mem_map.mpr fun l _ => hcls l)
    (List.forall_mem_map.mpr fun l _ hp => absurd hp (by rw [hpage l]; exact Bool.false_ne_true)) hlt]
  refine ⟨(updCrew_mem ..).trans (htm.trans hmem), fun l hl => ?_⟩
  obtain ⟨u, hu, -⟩ := hmodeT l hl
  have hcrew : t.crew? x.uid x.ci = some (h (c.inCycle x.clk)) := by rw [State.crew?, hbt]; exact hct
  have hdelivered := deliver_delivered (tvec := k.tvec) (pc := x.pc) (next := x.pc + x.len) (f := f l)
    (c := (h (c.inCycle x.clk)).noteFaults (t.clockOf (x.b.updCrew x.ci fun c => c.inCycle x.clk).core) (x.act.map fun l => (l, f l)))
    (by rw [noteFaults_threads]; exact hu) (by rw [hlanes]; exact hl) (List.forall_mem_map.mpr fun k _ hk => congrArg f hk)
  rw [hlanes, hcls] at hdelivered
  rw [thread?_updCrew, hcrew]
  exact hdelivered

/-! ### `trap` and `bkpt` (R334, R394) -/

theorem codeFault_isPage {cls : Nat} (h6 : cls ≠ 6) (hB : cls ≠ 0x0B) (d a i m : Nat) : (⟨cls, d, a, i, m⟩ : LaneFault).isPage = false := by
  simp [LaneFault.isPage, h6, hB]

theorem trap_delivers {w : Fields} {s : State} {x : Ctx} {k : Context} (hne : x.act ≠ []) (htakes : Takes s x.uid x.ci x.act x.b k 0x11)
    (hx : IssuesLong 0xF0 (some 0) readsA w s x) :
    ∃ t, exec (.trap w) s = .next t ∧ t.mem = s.mem ∧ ∀ l ∈ x.act, ∃ h, t.thread? x.uid x.ci l = some h ∧
      Delivered h k.tvec ⟨0x11, x.a l 32 % 256, 0, x.a l 32, 0⟩ (laneMask x.act) (x.pc + x.len) := by
  have hexec : exec (.trap w) s = execTrap w s := rfl
  have hs0 := issueCtx_s0 hx.1
  obtain ⟨t, ht, hmem, hlanes⟩ := faults_delivered (f := fun l => ⟨0x11, x.a l 32 % 256, 0, x.a l 32, 0⟩) hx.1 hne htakes (fun _ => rfl)
    (fun _ => codeFault_isPage (by decide) (by decide) ..) (by decide) rfl (by rw [hs0, updCrew_ctxs]) (by rw [hs0, updCrew_mem])
  exact ⟨t, by rw [hexec, execTrap, runLong_issues hx]; exact congrArg _ ht, hmem, hlanes⟩

theorem choose_mem (s : State) (n : Nat) : (s.choose n).2.mem = s.mem := by unfold State.choose; split <;> rfl

theorem ends_next_frame (x : Ctx) (s : State) : (x.ends s x.allNext).mem = s.mem ∧ (x.ends s x.allNext).mgmt = s.mgmt := by
  have hstays : ∀ r ∈ x.allNext, r.2.stays = true := List.forall_mem_map.mpr fun _ _ => rfl
  rw [ends_of_stays x s hstays]
  exact ⟨rfl, rfl⟩

theorem bkpt_delivers_or_halts {w : Fields} {s : State} {x : Ctx} {k : Context} (hne : x.act ≠ [])
    (htakes : Takes s x.uid x.ci x.act x.b k 0x12) (hx : IssuesLong 0xF6 none readsA w s x) :
    ∃ t, exec (.bkpt w) s = .next t ∧ t.mem = s.mem ∧
      ((∀ l ∈ x.act, ∃ h, t.thread? x.uid x.ci l = some h ∧
        Delivered h k.tvec ⟨0x12, x.a l 32 % 256, 0, x.a l 32, 0⟩ (laneMask x.act) (x.pc + x.len)) ∨
      (s.mgmt.debug = true ∧ (x.uid, x.ci) ∈ t.mgmt.halted)) := by
  have hexec : exec (.bkpt w) s = execBkpt w s := rfl
  have hs0 := issueCtx_s0 hx.1
  have hdeliver : ∀ s1 : State, s1.upland = x.s0.upland → s1.mem = x.s0.mem → ∃ t, finishIssue x s1 x.act (x.act.map fun l =>
      (l, .fault ⟨0x12, x.a l 32 % 256, 0, x.a l 32, 0⟩)) false = t ∧ t.mem = s.mem ∧ ∀ l ∈ x.act, ∃ h, t.thread? x.uid x.ci l = some h ∧
        Delivered h k.tvec ⟨0x12, x.a l 32 % 256, 0, x.a l 32, 0⟩ (laneMask x.act) (x.pc + x.len) := fun s1 h1 hm1 =>
    faults_delivered (f := fun l => ⟨0x12, x.a l 32 % 256, 0, x.a l 32, 0⟩) hx.1 hne htakes (fun _ => rfl)
      (fun _ => codeFault_isPage (by decide) (by decide) ..) (by decide) (upland_blocks h1)
      (by rw [upland_ctxs h1, hs0, updCrew_ctxs]) (by rw [hm1, hs0, updCrew_mem])
  rw [hexec, execBkpt, runLong_issues hx]
  unfold bkptBody
  by_cases hd : x.s0.mgmt.debug = true
  · simp only [hd, Bool.not_true, Bool.false_eq_true, if_false]
    by_cases hk : (x.s0.choose 1).1 = 0
    · rw [if_pos hk]
      obtain ⟨t, ht, hmem, hlanes⟩ := hdeliver (x.s0.choose 1).2 (choose_upland ..) (choose_mem ..)
      exact ⟨t, congrArg _ ht, hmem, .inl hlanes⟩
    · rw [if_neg hk]
      obtain ⟨hmem, hmgmt⟩ := ends_next_frame x { (x.s0.choose 1).2 with
        mgmt := { (x.s0.choose 1).2.mgmt with halted := (x.s0.choose 1).2.mgmt.halted ++ [(x.uid, x.ci)] } }
      refine ⟨_, rfl, hmem.trans ((choose_mem ..).trans (by rw [hs0, updCrew_mem])), .inr ⟨by rw [← hd, hs0, updCrew_mgmt], ?_⟩⟩
      exact hmgmt ▸ List.mem_append_right _ (List.mem_singleton_self _)
  · simp only [hd, Bool.not_false, if_true]
    obtain ⟨t, ht, hmem, hlanes⟩ := hdeliver x.s0 rfl rfl
    exact ⟨t, congrArg _ ht, hmem, .inl hlanes⟩

/-- Settles O36: the active lanes fault together, and the context takes the class. -/
theorem trapEntersHandler : Obligations.TrapEntersHandler := by
  intro w s x k cls hne htakes
  refine ⟨?_, ?_⟩
  · rintro hx rfl
    exact trap_delivers hne htakes hx
  · rintro hx rfl
    exact bkpt_delivers_or_halts hne htakes hx

/-! ### `rett`, `syswr` and `tmrset` (R335 to R337) -/

/-- A body whose lanes each change the state by `f` with a result of their own. -/
theorem laneBody_of_results {x : Ctx} {act : Ctx → State → Nat → State × LaneRes} {f : State → Nat → State} {r : Nat → LaneRes}
    (h : ∀ s, ∀ l ∈ x.act, act x s l = (f s l, r l)) :
    laneBody act x = .done (x.act.foldl f x.s0) (x.act.map fun l => (l, r l)) := by
  have hfold : ∀ (ls : List Nat), (∀ s, ∀ l ∈ ls, act x s l = (f s l, r l)) → ∀ (s : State) (acc : List (Nat × LaneRes)),
      ls.foldl (fun (a : State × List (Nat × LaneRes)) l => ((act x a.1 l).1, a.2 ++ [(l, (act x a.1 l).2)])) (s, acc) =
        (ls.foldl f s, acc ++ ls.map fun l => (l, r l)) := by
    intro ls
    induction ls with
    | nil => intro _ s acc; simp
    | cons l ls ih =>
      intro h s acc
      rw [List.foldl_cons, h s l List.mem_cons_self, ih fun s k hk => h s k (List.mem_cons_of_mem l hk), List.append_assoc]
      rfl
  rw [laneBody_eq, Ctx.lanesRun, hfold x.act h]
  rfl

theorem rett_returns : Ends 0xF1 none [] .rett (fun x => x.act ≠ [] ∧ ∀ l ∈ x.act, (x.t l).hmode = true ∧ (x.t l).epc.toNat % 4 = 0)
    (fun x => ((x.act.foldl (fun (s : State) l => s.updThread x.uid x.ci l fun t =>
        { t with hmode := false, resumeI := 0 }) x.s0).updCrew x.uid x.ci fun c =>
          { c with threads := c.threads.map Thread.loseLatches },
      x.act.map fun l => (l, .resume (x.t l).epc.toNat (x.t l).resumeI))) := by
  have hexec : ∀ w s, exec (.rett w) s = execRett w s := fun _ _ => rfl
  refine ends_of_body (fun w s => (hexec w s).trans rfl) fun x ⟨hne, hlanes⟩ => ?_
  have hlane : ∀ s, ∀ l ∈ x.act, rettLane x s l = (s.updThread x.uid x.ci l fun t => { t with hmode := false, resumeI := 0 },
      .resume (x.t l).epc.toNat (x.t l).resumeI) := fun s l hl => by
    obtain ⟨hm, hal⟩ := hlanes l hl
    simp [rettLane, hm, hal]
  obtain ⟨l, hl⟩ := List.exists_mem_of_ne_nil x.act hne
  rw [laneBody_of_results hlane]
  dsimp only
  rw [if_pos (List.any_eq_true.mpr ⟨_, List.mem_map_of_mem hl, rfl⟩)]

theorem rett_refused : Ends 0xF1 none [] .rett (fun x => ∀ l ∈ x.act, (x.t l).hmode = false) (fun x => (x.s0, x.faults fun _ => protF 0x09 0)) := by
  have hexec : ∀ w s, exec (.rett w) s = execRett w s := fun _ _ => rfl
  refine ends_of_body (fun w s => (hexec w s).trans rfl) fun x hlanes => ?_
  rw [laneBody_of_keeps (r := fun _ => .fault (protF 0x09 0)) fun l hl => by simp [rettLane, hlanes l hl]]
  dsimp only
  rw [if_neg]
  · rfl
  · simp

/-- Settles O37: each instruction from its body. -/
theorem trapReturnAndSystem : Obligations.TrapReturnAndSystem := by
  have hsyswr : ∀ w s, exec (.syswr w) s = runLong 0xF5 none w s readsA (laneBody syswrLane) := fun _ _ => rfl
  have htmrset : ∀ w s, exec (.tmrset w) s = execTmrset w s := fun _ _ => rfl
  refine ⟨fun w s x hx => ?_, rett_returns, rett_refused, ends_of_body hsyswr fun x hd => ?_, ends_of_body hsyswr fun x ⟨hd, hm⟩ => ?_,
    ends_of_body (fun w s => (htmrset w s).trans rfl) fun x hne => crewBody_of_active _ hne⟩
  · have hexec : exec (.trapAbort w) s = execTrapAbort w s := rfl
    rw [hexec, execTrapAbort, runLong_issues hx _ true]
    rfl
  · exact laneBody_of_results fun s l _ => by rw [syswrLane, if_pos hd]
  · exact laneBody_of_results fun s l hl => by simp [syswrLane, hd, hm l hl]

end Sys2Proof.Machine

/-! The family of R324, R325, R339 to R345: the commands of a context and the ends of its drain, its save step and its reset, and host
calls. -/

namespace Sys2Proof.Machine
open Sys2Proof

/-! ### The events as `exec` runs them -/

section
variable (s : State) (ctx num : Nat)
@[simp] theorem exec_alloc : exec (.alloc ctx) s = execAlloc ctx s := rfl
@[simp] theorem exec_run : exec (.run ctx) s = execRun ctx s := rfl
@[simp] theorem exec_preempt : exec (.preempt ctx) s = execPreempt ctx s := rfl
@[simp] theorem exec_drained : exec (.drained ctx) s = execDrained ctx s := rfl
@[simp] theorem exec_drainDeadline : exec (.drainDeadline ctx) s = execDrainDeadline ctx s := rfl
@[simp] theorem exec_saveStepComplete : exec (.saveStepComplete ctx) s = execSaveStepComplete ctx s := rfl
@[simp] theorem exec_reset : exec (.reset ctx) s = execReset ctx s := rfl
@[simp] theorem exec_resetDeadline : exec (.resetDeadline ctx) s = execResetDeadline ctx s := rfl
@[simp] theorem exec_resetComplete : exec (.resetComplete ctx) s = execResetComplete ctx s := rfl
@[simp] theorem exec_hostCallPost : exec (.hostCallPost ctx) s = execHostCallPost ctx s := rfl
@[simp] theorem exec_hostCallReply : exec (.hostCallReply ctx num) s = execHostCallReply ctx num s := rfl
@[simp] theorem exec_chdoor : exec (.chdoor ctx num) s = execChdoor ctx num s := rfl
end

/-! ### Commands (R324, R325, R341, R343, R345) -/

section
variable {s : State} {ctx : Nat} {c : Context} (hc : s.ctxs[ctx]? = some c)
include hc

theorem alloc_takes (hw : s.awake = true) (hst : c.state = .free) (hok : c.fieldsOk = true) (hclash : s.dailiesClash ctx c = false) :
    ∃ t c', exec (.alloc ctx) s = .next t ∧ t.ctxs[ctx]? = some c' ∧ c'.state = .ready ∧ t.mem = s.mem := by
  have hexec : exec (.alloc ctx) s = .next (({ s with
      calls := s.calls.filter fun e => e.ctx != ctx, faults := s.faults.filter fun e => e.ctx != ctx } : State).updCtx ctx fun c =>
        { c with state := .ready, pkgs := [], logcnt := 0, hcTail := 0, hcHead := 0, pfTail := 0, pfHead := 0 }) := by
    simp [execAlloc, hw, hc, hst, hok, hclash]
  exact ⟨_, _, hexec, updCtx_getElem? _ _ hc, rfl, rfl⟩

theorem alloc_refused (hw : s.awake = true) (hst : c.state = .free) (hok : c.fieldsOk = false) :
    exec (.alloc ctx) s = .next (s.updCtx ctx fun c => { c with lastcls := 0x05 }) := by
  simp [execAlloc, hw, hc, hst, hok]

theorem run_runs (hw : s.awake = true) (hst : c.state = .ready ∨ c.state = .saved) :
    ∃ s1 : State, s1.mem = s.mem ∧ s1.ctxs = s.ctxs ∧ exec (.run ctx) s =
      .next (s1.updCtx ctx fun c => { c with state := .running, drainEnd := none, resetEnd := none, saving := false }).checkQueues := by
  have hruns : ¬(c.state ≠ .ready ∧ c.state ≠ .saved) := by rcases hst with h | h <;> simp [h]
  refine ⟨{ s with
    blocks := mapWhere (fun (b : Block) => b.ctx == ctx && b.state == .saved)
      (fun b => { b with state := .placing, die := s.liveDie b.die }) s.blocks }, rfl, rfl, ?_⟩
  simp only [exec_run, execRun, hw, hc, if_neg hruns]
  rfl

theorem preempt_drains (hw : s.awake = true) (hst : c.state = .running) :
    ∃ s1 : State, s1.mem = s.mem ∧ s1.ctxs = s.ctxs ∧ exec (.preempt ctx) s = .next (s1.updCtx ctx fun c =>
      { c with state := .draining, saving := false, drainEnd := some (s.hubCycle + c.drainLimit),
               resetEnd := some (s.hubCycle + c.resetLimit) }).checkQueues := by
  refine ⟨s, rfl, rfl, ?_⟩
  simp only [exec_preempt, execPreempt, hw, hc, hst]
  rfl

theorem drained_saves (hst : c.state = .draining) (hsaving : c.saving = false)
    (hgone : ∀ b ∈ s.blocks, b.ctx = ctx → b.isDirector = false → b.onCore = false) :
    exec (.drained ctx) s = .next ((s.writeHeader ctx c).becomeSaved ctx) := by
  have hnone : s.blocks.any (fun b => b.ctx == ctx && b.onCore && !b.isDirector) = false := by
    rw [List.any_eq_false]
    intro b hb
    have hcore := hgone b hb
    by_cases h1 : b.ctx = ctx <;> by_cases h2 : b.isDirector = false <;> simp_all
  simp only [exec_drained, execDrained, hc, hst, hsaving, hnone]
  rfl

theorem drainDeadline_begins_save {e : Nat} (hst : c.state = .draining) (hsaving : c.saving = false) (he : c.drainEnd = some e)
    (hdue : e ≤ s.hubCycle) :
    exec (.drainDeadline ctx) s = .next (((s.blocks.filter fun b => b.ctx == ctx && b.state == .resident && b.inside).foldl
      (fun (s : State) b => s.discardBlock b.uid) s).updCtx ctx fun c => { c with saving := true }) := by
  simp [execDrainDeadline, hc, hst, hsaving, he, hdue]

theorem saveStep_saves (hst : c.state = .draining) (hsaving : c.saving = true) (hready : s.saveReady ctx = true) (hup : s.downSpokes = []) :
    let mine := s.blocks.filter fun b => b.ctx == ctx && b.onCore && !b.isDirector
    let cores := ((mine.map (·.core)) ++ (s.l1.filter fun l => l.ctx == ctx && l.dirty).map (·.core)).eraseDups
    let s1 := cores.foldl (fun (s : State) k => s.publishAll k) s
    let s2 := (s1.l1.filter fun l => l.ctx == ctx).foldl State.evictL1 s1
    exec (.saveStepComplete ctx) s = .next (if s.saveNeed ctx c ≤ c.ssize
      then ((mine.foldl State.saveBlock s2).writeRecords ctx c).becomeSaved ctx
      else (cores.filter s.unpublished).foldl (fun (s : State) k => s.publishAll k) s) := by
  intro mine cores s1 s2
  have hdown : ∀ ks : List Nat, (ks.flatMap fun k => s.publishDown k true false).eraseDups = [] := fun ks => by
    rw [List.flatMap_eq_nil_iff.mpr fun k _ => publishDown_nil hup k true false]
    rfl
  have hgo : ¬(c.state ≠ .draining ∨ (!c.saving) = true ∨ (!s.saveReady ctx) = true) := by simp [hst, hsaving, hready]
  simp only [exec_saveStepComplete, execSaveStepComplete, hc, if_neg hgo, hdown, List.isEmpty_nil, Bool.not_true, Bool.false_eq_true, if_false]
  by_cases hroom : s.saveNeed ctx c ≤ c.ssize
  · rw [if_pos hroom, if_neg (Nat.not_lt.mpr hroom)]
  · rw [if_neg hroom, if_pos (Nat.not_le.mp hroom)]

theorem reset_resets (hw : s.awake = true) (hfree : c.state ≠ .free) (hreset : c.state ≠ .reset) :
    exec (.reset ctx) s = .next (s.resetContext ctx false) := by
  simp [execReset, hw, hc, hfree, hreset]

theorem resetDeadline_resets {e : Nat} (hst : c.state = .draining) (he : c.resetEnd = some e) (hdue : e ≤ s.hubCycle) :
    exec (.resetDeadline ctx) s = .next ((s.logEvent ctx { cls := 0x0D, detail := 2 }).resetContext ctx true) := by
  simp [execResetDeadline, hc, hst, he, hdue]

theorem resetComplete_ends (hst : c.state = .reset) : exec (.resetComplete ctx) s = .next (s.updCtx ctx fun c =>
    { c with state := if c.byDeadline then .faulted else .free }) := by
  simp [execResetComplete, hc, hst]

end

/-- Settles O40: each command and each end under its guards. -/
theorem contextCommands : Obligations.ContextCommands := fun _ _ _ hw hc =>
  ⟨alloc_takes hc hw, alloc_refused hc hw, run_runs hc hw, preempt_drains hc hw, drained_saves hc,
   fun _ => drainDeadline_begins_save hc, saveStep_saves hc, reset_resets hc hw, fun _ => resetDeadline_resets hc, resetComplete_ends hc⟩

/-! ### Host calls (R339, R340) -/

theorem issueCtx_ctxs {s : State} {op len : Nat} {w : Fields} {x : Ctx} (h : s.issueCtx op len w = some x) : x.s0.ctxs = s.ctxs := by
  rw [issueCtx_s0 h, updCrew_ctxs]

theorem issueCtx_downSpokes {s : State} {op len : Nat} {w : Fields} {x : Ctx} (h : s.issueCtx op len w = some x) :
    x.s0.downSpokes = s.downSpokes := downSpokes_congr (by rw [issueCtx_s0 h, updCrew_links])

section
variable {w : Fields} {s : State} {x : Ctx} {c : Context} (hx : IssuesLong 0xF2 none readsA w s x) (hact : x.act ≠ [])
  (hin : x.b.inside = false) (hc : s.ctxs[x.b.ctx]? = some c)
include hx hact hin hc

theorem hcall_posts_or_waits (hbase : c.hbase ≠ 0) (hup : s.downSpokes = []) :
    let s1 := (x.s0.flushDailies x.uid x.ci).fenceAt x.b.core 2 5
    (c.callRoom = true → s1.callWaits x.b.ctx = [] →
      let r := s1.postCall x.b x.ci x.pc (x.act.map fun l => (l, x.a l 128))
      exec (.hcall w) s = .next (x.ends r.1 (x.act.map fun l => (l, .park (.hcall r.2 x.w.d.toNat x.len))))) ∧
    (c.callRoom = false ∨ s1.callWaits x.b.ctx ≠ [] → exec (.hcall w) s = .next (x.ends { s1 with nextId := s1.nextId + 1 }
      (x.act.map fun l => (l, .park (.hcallPost s1.nextId (x.a l 128) x.w.d.toNat x.len))))) := by
  intro s1
  have hexec : exec (.hcall w) s = execHcall w s := rfl
  have hempty : x.act.isEmpty = false := by simpa using hact
  have hc0 : x.s0.ctxs[x.b.ctx]? = some c := by rw [issueCtx_ctxs hx.1]; exact hc
  have hdown := publishDown_nil ((issueCtx_downSpokes hx.1).trans hup) x.b.core true false
  rw [hexec, execHcall, runLong_issues hx]
  simp only [hc0, hempty, hin, hdown, hbase, Bool.false_eq_true, if_false, List.isEmpty_nil, Bool.not_true]
  refine ⟨fun hroom hwaits => ?_, fun hwait => ?_⟩
  · rw [if_pos (by simpa [hroom] using hwaits)]
    rfl
  · rw [if_neg]
    · rfl
    · rw [Bool.and_eq_true, List.isEmpty_iff]
      rintro ⟨hroom, hnone⟩
      rcases hwait with h | h
      · rw [hroom] at h; cases h
      · exact h hnone

theorem hcall_refused (hbase : c.hbase = 0) : exec (.hcall w) s = .next (x.ends x.s0 (x.faults fun _ => protF 0x09 0)) := by
  have hexec : exec (.hcall w) s = execHcall w s := rfl
  have hempty : x.act.isEmpty = false := by simpa using hact
  have hc0 : x.s0.ctxs[x.b.ctx]? = some c := by rw [issueCtx_ctxs hx.1]; exact hc
  rw [hexec, execHcall, runLong_issues hx]
  simp only [hc0, hempty, hin, hbase, Bool.false_eq_true, if_false, if_true]
  rfl

end

theorem postCall_numbers (s : State) (b : Block) (ci pc : Nat) (ls : List (Nat × Nat)) {c : Context} (hc : s.ctxs[b.ctx]? = some c) :
    (s.postCall b ci pc ls).2 = c.hcTail ∧
    ∃ c', (s.postCall b ci pc ls).1.ctxs[b.ctx]? = some c' ∧ c'.hcTail = c.hcTail + 1 ∧ c'.hcHead = c.hcHead := by
  simp only [State.postCall, hc]
  refine ⟨trivial, _, updCtx_getElem? _ _ (c := c) ?_, rfl, rfl⟩
  rw [upland_ctxs (agentWrite_upland ..), upland_ctxs (agentWrite_upland ..)]
  exact hc

/-- Settles O42: a call by what its guards leave of the body, an entry by what its post and its answer make of it. -/
theorem hostCalls : Obligations.HostCalls := by
  refine ⟨fun w s x c hx hact hin hc hbase => hcall_posts_or_waits hx hact hin hc hbase,
    fun w s x c hx hact hin hc => hcall_refused hx hact hin hc, fun ctx g uid ci s c b k hc hg hroom hb hk => ?_, fun ctx num s h => ?_,
    fun ctx num s hw hd => ?_, fun ctx num s hd => ?_, fun s b ci pc ls c => postCall_numbers s b ci pc ls⟩
  · simp only [exec_hostCallPost, execHostCallPost, hc, hg, hroom, hb, hk]
    rfl
  · simp [execHostCallReply, h]
  · refine ⟨{ s with calls := mapWhere (fun e => e.ctx == ctx && e.num == num) (fun e => { e with rung := true }) s.calls }, rfl, rfl, ?_⟩
    simp [execChdoor, hw, hd]
  · simp [execChdoor, hd]

end Sys2Proof.Machine

/-! The family of R350 to R364: expert fetches and tests, the dailies, the host's commands on experts and their fetches, walks and
invalidations, and page faults. -/

namespace Sys2Proof.Machine
open Sys2Proof

/-! ### Expert fetches and tests (R359, R362) -/

@[simp] theorem setExpert_ctxs (s : State) (e : Expert) : (s.setExpert e).ctxs = s.ctxs := by
  unfold State.setExpert
  dsimp only
  split
  · rfl
  · exact (upland_ctxs (agentWrite_upland ..)).trans rfl

@[simp] theorem fetchExpert_ctxs (s : State) (ctx id : Nat) : (s.fetchExpert ctx id).ctxs = s.ctxs := by
  unfold State.fetchExpert
  split
  · rfl
  · rfl
  · exact setExpert_ctxs ..

theorem expertKnown_congr {s t : State} (h : t.ctxs = s.ctxs) (ctx id : Nat) : t.expertKnown ctx id = s.expertKnown ctx id := by
  unfold State.expertKnown
  rw [h]

theorem exfetch_fetches : Ends 0xB0 none readsA .exfetch (fun x => ∀ l ∈ x.act, x.s0.expertKnown x.b.ctx (x.a l 32) = true)
    (fun x => (x.act.foldl (fun (s : State) l => s.fetchExpert x.b.ctx (x.a l 32)) x.s0, x.allNext)) := by
  have hexec : ∀ w s, exec (.exfetch w) s = execExfetch w s := fun _ _ => rfl
  refine ends_of_body (fun w s => (hexec w s).trans rfl) fun x hknown => ?_
  refine laneBody_of_next (fun s => s.ctxs = x.s0.ctxs) rfl fun s hs l hl => ⟨?_, (fetchExpert_ctxs ..).trans hs⟩
  simp only [expertKnown_congr hs, hknown l hl, if_true]

theorem exfetch_refused : Ends 0xB0 none readsA .exfetch (fun x => ∀ l ∈ x.act, x.s0.expertKnown x.b.ctx (x.a l 32) = false)
    (fun x => (x.s0, x.faults fun _ => protF 0x01 0)) := by
  have hexec : ∀ w s, exec (.exfetch w) s = execExfetch w s := fun _ _ => rfl
  refine ends_of_body (fun w s => (hexec w s).trans rfl) fun x hknown => laneBody_of_keeps fun l hl => ?_
  simp only [hknown l hl, Bool.false_eq_true, if_false]

theorem extest_tests : Ends 0xB1 none readsA .extest (fun x => ∀ l ∈ x.act, x.s0.expertKnown x.b.ctx (x.a l 32) = true)
    (fun x => (x.act.foldl (fun (s : State) l =>
      let st := (x.s0.expert? x.b.ctx (x.a l 32)).map (·.st)
      (if st = some .resident then s.acquireL1 x.b.core else s).updThread x.uid x.ci l fun t =>
        (t.setPred x.w.d.toNat (st == some .resident)).setPred (x.mod % 8)
          (st == some (.fetching true) || st == some (.fetching false))) x.s0, x.allNext)) := by
  have hexec : ∀ w s, exec (.extest w) s = execExtest w s := fun _ _ => rfl
  refine ends_of_body (fun w s => (hexec w s).trans rfl) fun x hknown => ?_
  refine laneBody_of_next (fun s => s.ctxs = x.s0.ctxs ∧ s.experts = x.s0.experts) ⟨rfl, rfl⟩ fun s ⟨hctxs, hexperts⟩ l hl => ?_
  have hexpert : ∀ id, s.expert? x.b.ctx id = x.s0.expert? x.b.ctx id := fun id => by rw [State.expert?, hexperts]; rfl
  simp only [expertKnown_congr hctxs, hknown l hl, hexpert, if_true, beq_iff_eq, true_and, updThread_ctxs, updThread_experts]
  split
  · exact ⟨hctxs, hexperts⟩
  · exact ⟨hctxs, hexperts⟩

/-! ### The dailies (R363, R364) -/

theorem flushDailies_ctxs (s : State) (u ci : Nat) : (s.flushDailies u ci).ctxs = s.ctxs := by
  obtain ⟨ds, g, h⟩ := flushDailies_updCrew s u ci
  rw [h]; rfl

theorem ecnt_gathers (c : Context) : Ends 0xB2 none readsAB .ecnt
    (fun x => x.b.inside = false ∧ x.s0.ctxs[x.b.ctx]? = some c ∧ ∀ l ∈ x.act, x.a l 32 < c.dcount)
    (fun x => (x.act.foldl (fun (s : State) l =>
      let i := c.dbase + x.a l 32
      let full := match s.crew? x.uid x.ci with
        | some k => decide (k.dailies.length ≥ 8) && !k.dailies.any fun d => d.counter == i
        | none => false
      (if full then s.flushDailies x.uid x.ci else s).updCrew x.uid x.ci fun k =>
        k.gather x.clk i (BitVec.ofNat 32 (x.bv l 32))) x.s0, x.allNext)) := by
  have hexec : ∀ w s, exec (.ecnt w) s = execEcnt w s := fun _ _ => rfl
  refine ends_of_body (fun w s => (hexec w s).trans rfl) fun x ⟨hin, hc, hlt⟩ => ?_
  simp only [hin, Bool.false_eq_true, if_false]
  refine laneBody_of_next (fun s => s.ctxs = x.s0.ctxs) rfl fun s hs l hl => ?_
  refine ⟨?_, ?_⟩
  · simp only [hs, hc, if_neg (Nat.not_le.mpr (hlt l hl)), ge_iff_le] <;> rfl
  · rw [updCrew_ctxs, apply_ite State.ctxs, flushDailies_ctxs, ite_self]
    exact hs

theorem find?_setSparse_same {v : Word} (hv : v ≠ 0#32) (t : List (Nat × Word)) (i : Nat) :
    (setSparse t i v).find? (fun p => p.1 == i) = some (i, v) := by
  induction t with
  | nil => simp [setSparse, hv]
  | cons p r ih =>
    obtain ⟨k, x⟩ := p
    rcases Nat.lt_trichotomy i k with h | h | h
    · simp [setSparse, hv, h, Nat.ne_of_lt h]
    · simp [setSparse, hv, h]
    · simp [setSparse, Nat.ne_of_gt h, Nat.ne_of_lt h, Nat.not_lt_of_gt h, ih]

theorem find?_setSparse_other {v : Word} (hv : v ≠ 0#32) (t : List (Nat × Word)) {i j : Nat} (hj : j ≠ i) :
    (setSparse t i v).find? (fun p => p.1 == j) = t.find? (fun p => p.1 == j) := by
  induction t with
  | nil => simp [setSparse, hv, hj.symm]
  | cons p r ih =>
    obtain ⟨k, x⟩ := p
    rcases Nat.lt_trichotomy i k with h | h | h
    · simp [setSparse, hv, h, Nat.ne_of_lt h, hj.symm]
    · simp [setSparse, hv, ← h, hj.symm]
    · simp [setSparse, Nat.ne_of_gt h, Nat.not_lt_of_gt h, List.find?_cons, ih]

/-- Settles O44: the lanes of each instruction one after another, in states whose contexts and experts are those at issue. -/
theorem expertsAndDailies : Obligations.ExpertsAndDailies := by
  refine ⟨exfetch_fetches, exfetch_refused, extest_tests, ecnt_gathers, fun uid ci t s b c hb hcrew hage hdue => ?_, fun i v s hw hi => ?_⟩
  · have hexec : exec (.dailyFlush uid ci) s = execDailyFlush uid ci s := rfl
    rw [hexec, execDailyFlush, hb, hcrew]
    simp only [hage, if_pos hdue]
  · have hexec : exec (.dailyWrite i v) s = .next { s with dailies := setSparse s.dailies i (BitVec.ofNat 32 v) } := by
      have h : exec (.dailyWrite i v) s = execDailyWrite i v s := rfl
      simp only [h, execDailyWrite, hw, if_pos hi, Bool.not_true, Bool.false_eq_true, if_false]
    refine ⟨fun hv => ⟨_, hexec, ?_, fun j hj => ?_, rfl⟩, fun hv => by rw [hexec, hv]⟩
    · rw [State.daily, find?_setSparse_same hv]
    · rw [State.daily, find?_setSparse_other hv _ hj]
      rfl

/-! ### Walks (R350, R351) -/

section
variable {id : Nat} {s s1 : State} {w : Walk} (hw : s.walks.find? (fun w => w.id == id && !w.done) = some w)
include hw

theorem tlbWalkComplete_here
    (h : s.walkFor w.die (walkReader id) w.ctx (w.vpage * 2 ^ 13) w.tag.isSome = (s1, .here)) :
    exec (.tlbWalkComplete id) s = .next ((s1.completeWalk w).endBring w.die (walkReader id)) := by
  have hexec : exec (.tlbWalkComplete id) s = execTlbWalkComplete id s := rfl
  simp only [hexec, execTlbWalkComplete, hw, h]

theorem tlbWalkComplete_remote {a : Nat}
    (h : s.walkFor w.die (walkReader id) w.ctx (w.vpage * 2 ^ 13) w.tag.isSome = (s1, .remote a)) :
    exec (.tlbWalkComplete id) s = .next ((s1.endWalk id (some (9, a)) none).endBring w.die (walkReader id)) := by
  have hexec : exec (.tlbWalkComplete id) s = execTlbWalkComplete id s := rfl
  simp only [hexec, execTlbWalkComplete, hw, h]

theorem tlbWalkComplete_waits
    (h : s.walkFor w.die (walkReader id) w.ctx (w.vpage * 2 ^ 13) w.tag.isSome = (s1, .wait)) :
    exec (.tlbWalkComplete id) s = .next s1 := by
  have hexec : exec (.tlbWalkComplete id) s = execTlbWalkComplete id s := rfl
  simp only [hexec, execTlbWalkComplete, hw, h]

end

section
variable {s : State} {w : Walk} {c : Context} (hc : s.ctxs[w.ctx]? = some c)
include hc

theorem completeWalk_error {e : XFault} (h : walkTables s.mem s.hubid c.root (w.vpage * 2 ^ 13) = .error e) :
    s.completeWalk w = s.endWalk w.id (some e) none := by
  simp only [State.completeWalk, hc, h]

variable {l : Leaf} (hl : walkTables s.mem s.hubid c.root (w.vpage * 2 ^ 13) = .ok l)
include hl

theorem completeWalk_reserved (h : l.type = 3) : s.completeWalk w = s.endWalk w.id (some (pageFault 0x03)) none := by
  simp only [State.completeWalk, hc, hl, h, if_true]

theorem completeWalk_absentExpert (h1 : l.type = 1) (hexpert : s.expertResident w.ctx l.exid = false) :
    s.completeWalk w = s.endWalk w.id none (some l) := by
  have h3 : ¬1 = 3 := by decide
  simp only [State.completeWalk, hc, hl, h1, if_neg h3, hexpert, decide_true, Bool.not_false, Bool.and_self, if_true]

theorem completeWalk_fills (h3 : l.type ≠ 3) (h2 : l.type ≠ 2) (hexpert : l.type = 1 → s.expertResident w.ctx l.exid = true) :
    s.completeWalk w =
      (((w.waiters.map fun c => TlbAt.die (dieOf c)) ++ w.waiters.map TlbAt.core).eraseDups).foldl
        (fun (s : State) p => s.tlbFill (l.entry p w.ctx (w.vpage * 2 ^ 13) none))
        { s with walks := s.walks.filter fun x => x.id != w.id } := by
  have hcached : (l.type = 1 && !s.expertResident w.ctx l.exid) = false := by
    by_cases h1 : l.type = 1
    · simp [hexpert h1]
    · simp [h1]
  have hleaf : s.taggedLeaf l w.tag = .ok (l, none) := by simp [State.taggedLeaf, h2]
  simp only [State.completeWalk, hc, hl, if_neg h3, hcached, hleaf, Bool.false_eq_true, if_false]

end

/-! ### Invalidation (R353) -/

/-- No translation that stays begins in the range dropped. -/
theorem dropTranslations_tlb {s : State} {ctx lo n : Nat} {e : TlbEntry} (he : e ∈ (s.dropTranslations ctx lo n).tlb) (hctx : e.ctx = ctx) :
    ¬(lo ≤ e.vpage * 2 ^ levelShift e.level ∧ e.vpage * 2 ^ levelShift e.level < lo + n) := by
  rintro ⟨hlo, hhi⟩
  have hpos : 0 < 2 ^ levelShift e.level := Nat.two_pow_pos _
  have hout := (List.mem_filter.mp he).2
  have hlt : lo < e.vpage * 2 ^ levelShift e.level + 2 ^ levelShift e.level := by omega
  simp [hctx, rangesMeet, hhi, hlt] at hout

theorem ctlbinv_invalidates {ctx vpage size : Nat} {s : State} (hw : s.awake = true) (hsize : size ≤ 2) :
    let n := 2 ^ (13 + 10 * size)
    let lo := vpage * 2 ^ 13 / n * n
    let t := (s.dropTranslations ctx lo n).unmapL1 ctx lo n
    exec (.ctlbinv ctx vpage size false) s =
      .next { t with invals := t.invals ++ [⟨ctx, t.ctxReqs ctx, s.slatesIn ctx lo n⟩] } := by
  have hexec : exec (.ctlbinv ctx vpage size false) s = execCtlbinv ctx vpage size false s := rfl
  have hnot : (size > 2 && !false) = false := by simpa using hsize
  simp only [hexec, execCtlbinv, hw, hnot, Bool.not_true, Bool.false_eq_true, if_false]

theorem ctlbinv_invalidates_all {ctx vpage size : Nat} {s : State} (hw : s.awake = true) :
    let t := (s.dropTranslations ctx 0 (2 ^ 53)).unmapL1 ctx 0 (2 ^ 53)
    exec (.ctlbinv ctx vpage size true) s =
      .next { t with invals := t.invals ++ [⟨ctx, t.ctxReqs ctx, s.slatesIn ctx 0 (2 ^ 53)⟩] } := by
  have hexec : exec (.ctlbinv ctx vpage size true) s = execCtlbinv ctx vpage size true s := rfl
  simp only [hexec, execCtlbinv, hw, Bool.not_true, Bool.and_false, Bool.false_eq_true, if_false, if_true]

theorem tlbInvalidateComplete_counts {s : State} {i : Inval} {rest : List Inval} {c : Context} (hi : s.invals = i :: rest)
    (hreqs : ∀ r ∈ s.reqs, r.id ∉ i.reqs) (hblocks : ∀ b ∈ s.blocks, b.uid ∉ i.slates) (hslates : ∀ b ∈ s.slates, b.uid ∉ i.slates)
    (hc : s.ctxs[i.ctx]? = some c) :
    ∃ t c', exec .tlbInvalidateComplete s = .next t ∧ t.invals = rest ∧ t.ctxs[i.ctx]? = some c' ∧
      c'.ctlbseq = (c.ctlbseq + 1) % 2 ^ 32 ∧ t.mem = s.mem := by
  have hexec : exec .tlbInvalidateComplete s = execTlbInvalidateComplete s := rfl
  have hdone : ((s.reqs.any fun r => i.reqs.contains r.id) || (s.blocks.any fun b => i.slates.contains b.uid) ||
      (s.slates.any fun b => i.slates.contains b.uid)) = false := by simpa using ⟨⟨hreqs, hblocks⟩, hslates⟩
  have hdrop : exec .tlbInvalidateComplete s = .next (({ s with invals := rest } : State).updCtx i.ctx fun c =>
      { c with ctlbseq := (c.ctlbseq + 1) % 2 ^ 32 }) := by
    simp only [hexec, execTlbInvalidateComplete, hi, hdone, Bool.false_eq_true, if_false]
  exact ⟨_, _, hdrop, rfl, updCtx_getElem? _ _ hc, rfl, rfl⟩

/-- Settles O46: the end of a walk by what its tables hold, and each step of an invalidation under its guards. -/
theorem translationEvents : Obligations.TranslationEvents := by
  refine ⟨fun id s s1 w c hw hwalk hc => ?_, fun _ _ _ _ _ hw => tlbWalkComplete_remote hw, fun _ _ _ _ => tlbWalkComplete_waits,
    fun _ _ _ _ hw hsize => ⟨ctlbinv_invalidates hw hsize, fun _ => dropTranslations_tlb⟩,
    fun _ _ _ _ hw => ctlbinv_invalidates_all hw, fun _ _ _ _ => tlbInvalidateComplete_counts⟩
  have hid : w.id = id := by
    have h := List.find?_some hw
    simp only [Bool.and_eq_true, beq_iff_eq] at h
    exact h.1
  dsimp only
  rw [tlbWalkComplete_here hw hwalk, ← hid]
  exact ⟨fun e he => by rw [completeWalk_error hc he], fun l hl h3 => by rw [completeWalk_reserved hc hl h3],
    fun l hl h1 hx => by rw [completeWalk_absentExpert hc hl h1 hx], fun l hl h3 h2 hx => by rw [completeWalk_fills hc hl h3 h2 hx]⟩

/-! ### Page faults (R355) -/

section
variable {who : Requester} {s : State} {a : PageAsk} {c : Context} (ha : s.pageAsk who = some a) (hc : s.ctxs[a.ctx]? = some c)
include ha hc

theorem pageFaultPost_posts
    (hnone : (s.faults.find? (fun e => e.ctx == a.ctx && e.vpage == a.addr / 8192 && e.detail == a.detail && !e.answered)) = none)
    (hroom : c.pfTail - c.pfHead < 2 ^ c.log2p) :
    ∃ s1 : State, s1.faults = s.faults ++ [⟨a.ctx, c.pfTail, a.addr / 8192, a.detail, 1, false, false⟩] ∧ s1.blocks = s.blocks ∧
      (s1.ctxs[a.ctx]?).map (·.pfTail) = some (c.pfTail + 1) ∧
      exec (.pageFaultPost who) s = .next (s1.putOnEntry who c.pfTail a) := by
  have hexec : exec (.pageFaultPost who) s = execPageFaultPost who s := rfl
  have hposts : ∃ t : State, t.upland = s.upland ∧ exec (.pageFaultPost who) s =
      let u := t.updCtx a.ctx (fun c' => { c' with pfTail := c.pfTail + 1 })
      .next (({ u with faults := u.faults ++ [⟨a.ctx, c.pfTail, a.addr / 8192, a.detail, 1, false, false⟩] } : State).putOnEntry
        who c.pfTail a) := by
    simp only [hexec, execPageFaultPost, ha, hc, hnone, if_neg (Nat.not_le.mpr hroom), ge_iff_le]
    refine ⟨_, ?_, rfl⟩
    exact (agentWrite_upland ..).trans (agentWrite_upland ..)
  obtain ⟨t, ht, hpost⟩ := hposts
  have htail : ((t.updCtx a.ctx (fun c' => { c' with pfTail := c.pfTail + 1 })).ctxs[a.ctx]?).map (·.pfTail) = some (c.pfTail + 1) := by
    rw [updCtx_getElem? t _ (upland_ctxs ht ▸ hc)]
    rfl
  have hfaults := upland_faults ht
  have hblocks := upland_blocks ht
  refine ⟨_, ?_, ?_, ?_, hpost⟩
  · exact congrArg (· ++ [_]) hfaults
  · exact hblocks
  · exact htail

theorem pageFaultPost_joins {e : PfEntry}
    (he : (s.faults.find? (fun e => e.ctx == a.ctx && e.vpage == a.addr / 8192 && e.detail == a.detail && !e.answered)) = some e) :
    ∃ s1 : State, s1.blocks = s.blocks ∧ s1.faults = mapWhere (fun x => x.ctx == e.ctx && x.num == e.num)
        (fun x => { x with joined := min (e.joined + 1) (2 ^ 32 - 1) }) s.faults ∧
      exec (.pageFaultPost who) s = .next (s1.putOnEntry who e.num a) := by
  have hexec : exec (.pageFaultPost who) s = execPageFaultPost who s := rfl
  have hjoins : ∃ t : State, t.upland = ({ s with
        faults :=
          mapWhere (fun x => x.ctx == e.ctx && x.num == e.num) (fun x => { x with joined := min (e.joined + 1) (2 ^ 32 - 1) }) s.faults
        } : State).upland ∧
      exec (.pageFaultPost who) s = .next (t.putOnEntry who e.num a) := by
    simp only [hexec, execPageFaultPost, ha, hc, he]
    exact ⟨_, agentWrite_upland .., rfl⟩
  obtain ⟨t, ht, hjoin⟩ := hjoins
  exact ⟨t, (upland_blocks ht).trans rfl, (upland_faults ht).trans rfl, hjoin⟩

end

/-- An answer that the hub reads in the ring. -/
theorem pageFaultReply_answers {ctx num st : Nat} {s s2 : State} {c : Context} {e : PfEntry} (hc : s.ctxs[ctx]? = some c)
    (hapart : s.faultsApart ctx = false) (he : s.faults.find? (fun e => e.ctx == ctx && e.num == num && !e.answered) = some e)
    (hread : s.hubAcquire (ctxReader ctx) ctx (c.faultAt num + 4) 4 true none = (s2, .got st)) :
    let s3 := s2.endBring hubDie (ctxReader ctx)
    let s1 : State := { s3 with faults := mapWhere (fun e => e.ctx == ctx && e.num == num) (fun e => { e with answered := true }) s3.faults }
    exec (.pageFaultReply ctx num) s = .next (if st ≠ 1 ∧ st ≠ 2 then s3 else
      (if st = 1 then s1.pageServed ctx num else s1.pageRefused ctx num).passFaults ctx) := by
  have hexec : exec (.pageFaultReply ctx num) s = execPageFaultReply ctx num s := rfl
  simp only [hexec, execPageFaultReply, hapart, Bool.false_and, Bool.false_eq_true, if_false, State.answerFault, hc, he, hread]

/-- Settles O43: a fault posted or joined, and an answer by its STATUS. -/
theorem pageService : Obligations.PageService := by
  have hdoor : ∀ ctx num s, exec (.cpfdoor ctx num) s = execCpfdoor ctx num s := fun _ _ _ => rfl
  refine ⟨fun _ _ _ _ ha hc => pageFaultPost_posts ha hc, fun _ _ _ _ _ ha hc => pageFaultPost_joins ha hc,
    fun ctx num st s s2 c e hc hapart he hread => ?_, fun ctx num s hw hd => ?_, fun ctx num s hd => ?_⟩
  · intro s3 s1
    have hreply := pageFaultReply_answers hc hapart he hread
    exact ⟨fun h => by rw [hreply, if_neg (by simp [h]), if_pos h], fun h => by rw [hreply, if_neg (by simp [h]), if_neg (by simp [h])],
      fun h1 h2 => by rw [hreply, if_pos ⟨h1, h2⟩]⟩
  · simp only [hdoor, execCpfdoor, hw, hd, Bool.not_true, Bool.or_self, Bool.false_eq_true, if_false]
    refine ⟨{ s with
      faults := mapWhere (fun e => e.ctx == ctx && e.num == num) (fun e => { e with rung := true }) s.faults }, rfl, rfl, rfl⟩
  · simp only [hdoor, execCpfdoor, hd, Bool.or_true, if_true]

end Sys2Proof.Machine

/-! The family of R358 to R360 and R374: the host's commands on experts, and their fetches. -/

namespace Sys2Proof.Machine
open Sys2Proof

/-! ### The experts held (R359) -/

theorem expert?_eq_some {s : State} {ctx id : Nat} {e : Expert} (h : s.expert? ctx id = some e) : e.ctx = ctx ∧ e.id = id := by
  simpa using List.find?_some h

theorem expert?_congr {s t : State} (h : t.experts = s.experts) (ctx id : Nat) : t.expert? ctx id = s.expert? ctx id := by
  rw [State.expert?, h]; rfl

theorem setExpert_experts (s : State) (e : Expert) :
    (s.setExpert e).experts = (s.experts.filter fun x => !(x.ctx == e.ctx && x.id == e.id)) ++ [e] := by
  unfold State.setExpert
  dsimp only
  split
  · rfl
  · exact (upland_experts (agentWrite_upland ..)).trans rfl

theorem setExpert_blocks (s : State) (e : Expert) : (s.setExpert e).blocks = s.blocks := by
  unfold State.setExpert
  dsimp only
  split
  · rfl
  · exact (upland_blocks (agentWrite_upland ..)).trans rfl

/-- No expert of a number is among those left without it. -/
theorem find?_without_expert (es : List Expert) (ctx id : Nat) :
    (es.filter fun x => !(x.ctx == ctx && x.id == id)).find? (fun e => e.ctx == ctx && e.id == id) = none := by
  rw [List.find?_eq_none]
  intro e he
  simpa [Decidable.imp_iff_not_or] using (List.mem_filter.mp he).2

theorem setExpert_expert?_same (s : State) (e : Expert) : (s.setExpert e).expert? e.ctx e.id = some e := by
  rw [State.expert?, setExpert_experts, List.find?_append, find?_without_expert]
  simp

theorem setExpert_expert?_other (s : State) (e : Expert) {c k : Nat} (h : ¬(c = e.ctx ∧ k = e.id)) :
    (s.setExpert e).expert? c k = s.expert? c k := by
  have hnot : (e.ctx == c && e.id == k) = false := by
    rw [Bool.eq_false_iff]
    intro hb
    simp only [Bool.and_eq_true, beq_iff_eq] at hb
    exact h ⟨hb.1.symm, hb.2.symm⟩
  have hkept : ∀ x : Expert, (!(x.ctx == e.ctx && x.id == e.id) && (x.ctx == c && x.id == k)) = (x.ctx == c && x.id == k) := fun x => by
    by_cases hx : x.ctx = c ∧ x.id = k
    · obtain ⟨rfl, rfl⟩ := hx
      have hne : (x.ctx == e.ctx && x.id == e.id) = false := by simpa [Decidable.imp_iff_not_or] using h
      rw [hne]
      rfl
    · have hne : (x.ctx == c && x.id == k) = false := by simpa [Decidable.imp_iff_not_or] using hx
      rw [hne, Bool.and_false]
  rw [State.expert?, setExpert_experts, List.find?_append, List.find?_filter]
  simp only [Bool.decide_and, Bool.decide_eq_true, hkept, List.find?_cons, hnot, List.find?_nil, Option.or_none]
  rfl

/-! ### Commands (R359) -/

section
variable {ctx id : Nat} {s : State}

theorem exec_fetch (hw : s.awake = true) (hknown : s.expertKnown ctx id = true) : exec (.fetch ctx id) s = .next (s.fetchExpert ctx id) := by
  have hexec : exec (.fetch ctx id) s = execFetch ctx id s := rfl
  simp only [hexec, execFetch, hw, hknown, Bool.not_true, Bool.false_eq_true, if_false, if_true]

theorem fetch_none (h : s.awake = false ∨ s.expertKnown ctx id = false) : exec (.fetch ctx id) s = .next s := by
  have hexec : exec (.fetch ctx id) s = execFetch ctx id s := rfl
  rw [hexec, execFetch]
  rcases h with h | h <;> simp [h]

theorem fetchExpert_stays {e : Expert} (he : s.expert? ctx id = some e) (hst : e.st ≠ .failed) : s.fetchExpert ctx id = s := by
  obtain ⟨c, i, st, v, n, src, sa, since⟩ := e
  rw [State.fetchExpert, he]
  cases st
  · rfl
  · rfl
  · exact absurd rfl hst

theorem fetchExpert_queues (h : ∀ e, s.expert? ctx id = some e → e.st = .failed) :
    s.fetchExpert ctx id = s.setExpert ⟨ctx, id, .fetching false, 0, 0, 0, 0, 0⟩ := by
  unfold State.fetchExpert
  split
  next he => cases h _ he
  next he => cases h _ he
  next => rfl

end

/-- What an eviction of an L1 line leaves: experts, and translations but for their D. -/
def State.heldExperts (s : State) : List Expert × List TlbEntry := (s.experts, s.tlb.map TlbEntry.undirty)

theorem heldExperts_of_upland {s t : State} (h : t.upland = s.upland) : t.heldExperts = s.heldExperts :=
  Prod.ext (upland_experts h) (upland_tlb h)

theorem evictL1_heldExperts (s : State) (l : L1Line) : (s.evictL1 l).heldExperts = s.heldExperts := by
  unfold State.evictL1
  refine Eq.trans (b := State.heldExperts (State.publishLine _ l)) rfl ?_
  refine (heldExperts_of_upland (publishLine_upland ..)).trans ?_
  split
  · split
    · rfl
    · rfl
  · rfl

theorem unmapL1_heldExperts (s : State) (ctx lo n : Nat) : (s.unmapL1 ctx lo n).heldExperts = s.heldExperts :=
  foldl_keeps_part State.heldExperts evictL1_heldExperts _ s

theorem exec_evict {ctx id : Nat} {s : State} {e : Expert} {c : Context} (hw : s.awake = true) (he : s.expert? ctx id = some e)
    (hc : s.ctxs[ctx]? = some c) (hst : e.st ≠ .failed) :
    exec (.evict ctx id) s = .next (((({ s.dropExpertReq ctx id with
        experts := s.experts.filter fun x => !(x.ctx == ctx && x.id == id),
        tlb := s.tlb.filter fun t => !(t.ctx == ctx && t.type == 1 && t.exid == id) } : State).dropTranslations
          ctx e.vbase (e.npg * 2 ^ 13)).unmapL1 ctx e.vbase (e.npg * 2 ^ 13)).agentWrite ctx (c.expertRecord id + 14) (toBytes 0 2)) := by
  have hexec : exec (.evict ctx id) s = execEvict ctx id s := rfl
  simp only [hexec, execEvict, hw, he, hc, if_neg hst, Bool.not_true, Bool.false_eq_true, if_false]
  rfl

theorem evict_evicts {ctx id : Nat} {s : State} {e : Expert} {c : Context} (hw : s.awake = true) (he : s.expert? ctx id = some e)
    (hc : s.ctxs[ctx]? = some c) (hst : e.st ≠ .failed) :
    ∃ t, exec (.evict ctx id) s = .next t ∧ t.expert? ctx id = none ∧ ∀ k ∈ t.tlb, ¬(k.ctx = ctx ∧ k.type = 1 ∧ k.exid = id) := by
  refine ⟨_, exec_evict hw he hc hst, ?_⟩
  generalize hu : (({ s.dropExpertReq ctx id with
      experts := s.experts.filter fun x => !(x.ctx == ctx && x.id == id),
      tlb := s.tlb.filter fun t => !(t.ctx == ctx && t.type == 1 && t.exid == id) } : State).dropTranslations
        ctx e.vbase (e.npg * 2 ^ 13)) = u
  have hheld := (heldExperts_of_upland (agentWrite_upland (u.unmapL1 ctx e.vbase (e.npg * 2 ^ 13)) ctx (c.expertRecord id + 14)
    (toBytes 0 2))).trans (unmapL1_heldExperts ..)
  obtain ⟨hexperts, htlb⟩ := Prod.mk.inj hheld
  refine ⟨?_, fun k hk hmine => ?_⟩
  · rw [expert?_congr hexperts, ← hu]
    exact find?_without_expert ..
  · obtain ⟨k', hk', heq⟩ := List.mem_map.mp (htlb ▸ List.mem_map_of_mem (f := TlbEntry.undirty) hk)
    have hkept : k' ∈ s.tlb.filter fun t => !(t.ctx == ctx && t.type == 1 && t.exid == id) := by
      rw [← hu] at hk'
      exact (List.mem_filter.mp hk').1
    have hctx : k'.ctx = k.ctx := (congrArg TlbEntry.ctx heq :)
    have htype : k'.type = k.type := (congrArg TlbEntry.type heq :)
    have hexid : k'.exid = k.exid := (congrArg TlbEntry.exid heq :)
    have hnot := (List.mem_filter.mp hkept).2
    simp [hctx, htype, hexid, hmine.1, hmine.2.1, hmine.2.2] at hnot

/-! ### Fetches (R358, R359) -/

theorem ofRecord_valid {e e' : Expert} {v now : Nat} (h : e.ofRecord v now = some e') :
    e'.ctx = e.ctx ∧ e'.id = e.id ∧ e'.st = .fetching true ∧ e'.vbase + 8192 * e'.npg ≤ 2 ^ 53 := by
  unfold Expert.ofRecord at h
  extract_lets vbase npg src saddr from_ ok at h
  split at h
  next hok =>
    have hrange : vbase + 8192 * npg ≤ 2 ^ 53 := by
      simp only [ok, Bool.and_eq_true, decide_eq_true_eq] at hok
      exact hok.1.1.1.1.1.1
    cases h
    exact ⟨rfl, rfl, rfl, hrange⟩
  next => cases h

/-- What the hub reads of an expert is what its record says. -/
theorem readExpert_got {s t : State} {e e' : Expert} (h : s.readExpert e = (t, .got e')) : ∃ v now, e.ofRecord v now = some e' := by
  unfold State.readExpert at h
  split at h
  · cases h
  · unfold Got.bind at h
    split at h
    · dsimp only at h
      split at h
      · cases h
      next r hr =>
        split at h
        · cases h
        · cases h
        · split at h
          · cases h
          · cases h
            exact ⟨_, _, hr⟩
    · cases h
    · cases h

section
variable {s : State} {e : Expert} (hroom : (s.experts.filter fun e => e.st == .fetching true).length < 64)
  (he : s.experts.find? (fun e => e.st == .fetching false) = some e)
include hroom he

theorem expertFetchStart_got {t : State} {e' : Expert} (h : s.readExpert e = (t, .got e')) :
    exec .expertFetchStart s = .next (((t.endBring hubDie (expertReader e.ctx e.id)).updExpert e').askExpert e') ∧
      e'.st = .fetching true ∧ e'.vbase + 8192 * e'.npg ≤ 2 ^ 53 := by
  have hexec : exec .expertFetchStart s = execExpertFetchStart s := rfl
  obtain ⟨v, now, hv⟩ := readExpert_got h
  obtain ⟨hctx, hid, hst, hrange⟩ := ofRecord_valid hv
  refine ⟨?_, hst, hrange⟩
  simp only [hexec, execExpertFetchStart, ge_iff_le, if_neg (Nat.not_le.mpr hroom), he, h, hctx, hid]

theorem expertFetchStart_bad {t : State} {f : XFault} (h : s.readExpert e = (t, .bad f)) : exec .expertFetchStart s =
    .next ((t.endBring hubDie (expertReader e.ctx e.id)).failExpert e 5 0x0A (f.1 * 256 + f.2)) := by
  have hexec : exec .expertFetchStart s = execExpertFetchStart s := rfl
  simp only [hexec, execExpertFetchStart, ge_iff_le, if_neg (Nat.not_le.mpr hroom), he, h]

theorem expertFetchStart_waits {t : State} (h : s.readExpert e = (t, .wait)) : exec .expertFetchStart s = .next t := by
  have hexec : exec .expertFetchStart s = execExpertFetchStart s := rfl
  simp only [hexec, execExpertFetchStart, ge_iff_le, if_neg (Nat.not_le.mpr hroom), he, h]

end

theorem expertFetchStart_none {s : State}
    (h : 64 ≤ (s.experts.filter fun e => e.st == .fetching true).length ∨ ∀ e ∈ s.experts, e.st ≠ .fetching false) :
    exec .expertFetchStart s = .next s := by
  have hexec : exec .expertFetchStart s = execExpertFetchStart s := rfl
  rw [hexec, execExpertFetchStart]
  rcases h with h | h
  · rw [if_pos h]
  · have hnone : s.experts.find? (fun e => e.st == .fetching false) = none := by simpa using h
    rw [hnone]
    exact ite_self _

section
variable {ctx id : Nat} {s : State} {e : Expert} {c : Context} (he : s.expert? ctx id = some e) (hc : s.ctxs[ctx]? = some c)
  (hst : e.st = .fetching true)
include he hc hst

theorem expertLand_lands (halive : s.agentDead e.source = false) {s1 s2 : State} {frames : List (Nat × Leaf)} {pages : List (List Byte)}
    (hwalks : s.expertWalks e = (s1, .here)) (hpages : s.expertSource e = some pages)
    (hs2 : s1.endBring hubDie (expertReader ctx id) = s2)
    (hframes : ((List.range e.npg).mapM fun i => s2.expertFrame c.root id (e.vbase + 8192 * i)) = .ok frames) :
    exec (.expertLand ctx id true) s =
      .next ((((frames.zip pages).foldl State.landPage s2).dropExpertReq ctx id).setExpert { e with st := .resident }) := by
  have hexec : exec (.expertLand ctx id true) s = execExpertLand ctx id true s := rfl
  have hstays : ¬e.st ≠ .fetching true := fun h => h hst
  simp only [hexec, execExpertLand, he, hc, if_neg hstays, halive, hpages, hwalks, hs2, hframes, Bool.not_true, Bool.false_and, Bool.false_or,
    Bool.false_eq_true, if_false]

theorem expertLand_fails
    (h : s.agentDead e.source = true ∨ (e.fromPeer = false ∧ e.since + 80000 ≤ s.hubCycle)) :
    exec (.expertLand ctx id false) s = .next (s.failExpert e 9 0x01 (remoteInfo e.source)) := by
  have hexec : exec (.expertLand ctx id false) s = execExpertLand ctx id false s := rfl
  have hstays : ¬e.st ≠ .fetching true := fun h => h hst
  have hdue : (!false && !s.agentDead e.source && (e.fromPeer || decide (s.hubCycle < e.since + 4 * requestTimeout))) = false := by
    rcases h with h | ⟨h1, h2⟩
    · simp [h]
    · have hnot : ¬s.hubCycle < e.since + 4 * requestTimeout := Nat.not_lt.mpr h2
      simp [h1, hnot]
  simp only [hexec, execExpertLand, he, hc, if_neg hstays]
  rw [hdue]
  simp only [Bool.not_false, Bool.true_or, Bool.false_eq_true, if_false, if_true]

end

/-- Settles O45: each command and each step of a fetch under its guards; the experts and the translations that stay are those held
before it, without the one it names. -/
theorem expertEvents : Obligations.ExpertEvents := by
  refine ⟨fun ctx id s hw hknown => ⟨fun e he hst => ?_, fun h => ?_⟩, fun _ _ _ => fetch_none, fun ctx id s e c hw he hc => ⟨fun hst => ?_, evict_evicts hw he hc⟩,
    fun ctx id s hw hnone => ?_, fun s e hroom he => ⟨fun _ _ => expertFetchStart_got hroom he, fun _ _ => expertFetchStart_bad hroom he,
    fun _ => expertFetchStart_waits hroom he⟩, fun _ => expertFetchStart_none,
    fun ctx id s e c he hc hst halive s1 frames pages hwalks hpages => ?_, fun _ _ _ _ _ he hc hst => expertLand_fails he hc hst⟩
  · rw [exec_fetch hw hknown, fetchExpert_stays he hst]
  · refine ⟨_, exec_fetch hw hknown, ?_⟩
    rw [fetchExpert_queues h]
    refine ⟨?_, setExpert_blocks .., fun c k hck => setExpert_expert?_other _ _ hck⟩
    exact congrArg (Option.map Expert.st) (setExpert_expert?_same s ⟨ctx, id, .fetching false, 0, 0, 0, 0, 0⟩)
  · have hexec : exec (.evict ctx id) s = execEvict ctx id s := rfl
    simp only [hexec, execEvict, hw, he, hc, if_pos hst, Bool.not_true, Bool.false_eq_true, if_false]
  · have hexec : exec (.evict ctx id) s = execEvict ctx id s := rfl
    simp only [hexec, execEvict, hw, hnone, Bool.not_true, Bool.false_eq_true, if_false]
  · intro s2 hframes s3
    refine ⟨expertLand_lands he hc hst halive hwalks hpages rfl hframes, ?_⟩
    obtain ⟨hctx, hid⟩ := expert?_eq_some he
    have hset := setExpert_expert?_same s3 { e with st := .resident }
    rw [← hctx, ← hid]
    exact congrArg (Option.map Expert.st) hset

end Sys2Proof.Machine

/-! The family of R367 to R377: the checkpoint engine, and the states of a link and the flits on it. -/

namespace Sys2Proof.Machine
open Sys2Proof

/-! ### The checkpoint (R367, R368) -/

section
variable (s : State)
@[simp] theorem exec_full : exec .full s = execFull s := rfl
@[simp] theorem exec_dirty : exec .dirty s = execDirty s := rfl
@[simp] theorem exec_abort : exec .abort s = execAbort s := rfl
@[simp] theorem exec_checkpointCutDone : exec .checkpointCutDone s = execCheckpointCutDone s := rfl
@[simp] theorem exec_checkpointStreamDone (ok : Bool) : exec (.checkpointStreamDone ok) s = execCheckpointStreamDone ok s := rfl
end

theorem idle_of_stopped {k : Checkpoint} (hc : k.state ≠ .cutting) (hs : k.state ≠ .streaming) : k.idle_ = true := by
  simp [Checkpoint.idle_, hc, hs]

theorem idle_of_running {k : Checkpoint} (h : k.state = .cutting ∨ k.state = .streaming) : k.idle_ = false := by
  rcases h with h | h <;> simp [Checkpoint.idle_, h]

theorem cutDone_streams {s : State} (hst : s.ckpt.state = .cutting) (hup : s.downSpokes = [])
    (hready : ∀ b ∈ s.blocks, bitAt s.ckpt.ctxs b.ctx = true → b.onCore = true → s.cutReady b = true) :
    let mine := s.blocks.filter fun b => bitAt s.ckpt.ctxs b.ctx && b.onCore
    let cores := ((mine.map (·.core)) ++ (s.l1.filter fun l => bitAt s.ckpt.ctxs l.ctx && l.dirty).map (·.core)).eraseDups
    let s1 := cores.foldl (fun (s : State) k => s.publishAll k) s
    let s2 := s1.included.foldl (fun (s : State) p => s.dropTranslations p.1 0 (2 ^ 53)) s1
    let todo := s2.included.flatMap fun p => if p.2.state = .free then [] else leavesFrom s2.mem s2.hubid p.1 4 0 p.2.root 0
    exec .checkpointCutDone s = .next (s2.updCkpt fun k => { k with state := .streaming, seq := (k.seq + 1) % 2 ^ 32, todo }) := by
  have hmine : (s.blocks.filter fun b => bitAt s.ckpt.ctxs b.ctx && b.onCore).all s.cutReady = true := by
    rw [List.all_eq_true]
    intro b hb
    obtain ⟨hmem, hp⟩ := List.mem_filter.mp hb
    obtain ⟨hctx, hcore⟩ := Bool.and_eq_true_iff.mp hp
    exact hready b hmem hctx hcore
  have hdown : ∀ ks : List Nat, (ks.flatMap fun k => s.publishDown k true false).eraseDups = [] := fun ks => by
    rw [List.flatMap_eq_nil_iff.mpr fun k _ => publishDown_nil hup k true false]
    rfl
  have hgo : (decide (s.ckpt.state ≠ .cutting) || !(s.blocks.filter fun b => bitAt s.ckpt.ctxs b.ctx && b.onCore).all s.cutReady) = false := by
    simp [hst, hmine]
  simp only [exec_checkpointCutDone, execCheckpointCutDone, hgo, hdown, List.isEmpty_nil, Bool.not_true, Bool.false_eq_true, if_false]

theorem streamDone_fails {s : State} (hst : s.ckpt.state = .streaming) {ok : Bool} (h : ok = false ∨ s.agentDead s.ckpt.agent = true) :
    exec (.checkpointStreamDone ok) s = .next (s.failCheckpoint 1) := by
  have hstays : ¬s.ckpt.state ≠ .streaming := fun hne => hne hst
  have hfails : (!ok || s.agentDead s.ckpt.agent) = true := by rcases h with h | h <;> simp [h]
  rw [exec_checkpointStreamDone, execCheckpointStreamDone, if_neg hstays, if_pos hfails]

section
variable {s s1 : State} (hst : s.ckpt.state = .streaming) (halive : s.agentDead s.ckpt.agent = false)
  (hs1 : (s.ckpt.todo.foldl (fun (s : State) p => s.examine p p.level) s).updCkpt (fun k => { k with todo := [] }) = s1)
include hst halive hs1

theorem streamDone_examines : exec (.checkpointStreamDone true) s =
    if s1.reqs.any fun r => r.op == checkpointOp then .next s1
    else if !s1.ckpt.trailer then .next ((s1.updCkpt fun k => { k with trailer := true }).sendImage (8256 * s1.ckpt.pages) s1.ckpt.trailerBytes)
    else .next (s1.updCkpt fun k => { k with state := .done, sent := [], trailer := false }) := by
  have hstays : ¬s.ckpt.state ≠ .streaming := fun hne => hne hst
  simp only [exec_checkpointStreamDone, execCheckpointStreamDone, if_neg hstays, halive, hs1, Bool.not_true, Bool.or_self,
    Bool.false_eq_true, if_false]

theorem streamDone_waits (h : ∃ r ∈ s1.reqs, r.op = checkpointOp) : exec (.checkpointStreamDone true) s = .next s1 := by
  rw [streamDone_examines hst halive hs1, if_pos (by simpa using h)]

variable (h : ∀ r ∈ s1.reqs, r.op ≠ checkpointOp)
include h

theorem streamDone_trails (ht : s1.ckpt.trailer = false) : exec (.checkpointStreamDone true) s =
    .next ((s1.updCkpt fun k => { k with trailer := true }).sendImage (8256 * s1.ckpt.pages) (toBytes s1.ckpt.seq 4 ++ toBytes s1.ckpt.pages 4)) := by
  rw [streamDone_examines hst halive hs1, if_neg (by simpa using h), if_pos (by simp [ht])]
  rfl

theorem streamDone_done (ht : s1.ckpt.trailer = true) : exec (.checkpointStreamDone true) s =
    .next (s1.updCkpt fun k => { k with state := .done, sent := [], trailer := false }) := by
  rw [streamDone_examines hst halive hs1, if_neg (by simpa using h), if_neg (by simp [ht])]

end

/-- Settles O48: a command by the engine's state, and the ends of the cut and of the stream under their guards. -/
theorem checkpointEvents : Obligations.CheckpointEvents := by
  refine ⟨fun s hw hc hst => ?_, fun s hw h => ?_, fun _ => cutDone_streams, fun s hst => ⟨fun _ h => streamDone_fails hst h, fun halive =>
    ⟨streamDone_waits hst halive rfl, streamDone_trails hst halive rfl, streamDone_done hst halive rfl⟩⟩⟩
  · have hidle := idle_of_stopped hc hst
    simp only [exec_full, execFull, exec_dirty, execDirty, hw, hidle, Bool.not_true, Bool.false_eq_true, if_false, if_true]
    exact ⟨rfl, fun hf => by rw [if_neg hf]; rfl, fun hf => by rw [if_pos hf]; rfl⟩
  · have hidle := idle_of_running h
    simp only [exec_full, execFull, exec_dirty, execDirty, exec_abort, execAbort, hw, hidle, Bool.not_true, Bool.not_false,
      Bool.false_eq_true, if_false, if_true, true_and]
    rfl

/-! ### The states of a link (R369, R376, R377) -/

section
variable (s : State) (p v lanes peer pinc : Nat)
@[simp] theorem exec_portEnable : exec (.portEnable p v) s = execPortEnable p v s := rfl
@[simp] theorem exec_portDisable : exec (.portDisable p v) s = execPortDisable p v s := rfl
@[simp] theorem exec_portTrained : exec (.portTrained p lanes peer pinc) s = execPortTrained p lanes peer pinc s := rfl
end

/-- What a link sends leaves its lanes, its peer and the peer's incarnation as they were. -/
def Link.ends (k : Link) : Nat × Nat × Nat := (k.lanes, k.peer, k.pinc)

@[simp] theorem pump_ends (k : Link) (now n : Nat) : (k.pump now n).ends = k.ends := by
  induction n generalizing k with
  | zero => rfl
  | succ n ih =>
    unfold Link.pump
    split
    · rfl
    · split
      · rfl
      · rw [ih]; rfl

/-- A link that has trained: UP, or FENCED where it leads to a dead agent (R377). -/
def Link.trained (k : Link) (lanes peer pinc now : Nat) (dead : Bool) : Link :=
  if dead then (k.goUp lanes peer pinc now).fence now else k.goUp lanes peer pinc now

theorem trained_st (k : Link) (lanes peer pinc now : Nat) (dead : Bool) :
    (k.trained lanes peer pinc now dead).st = if dead then .fenced else .up := by
  unfold Link.trained
  split
  · rfl
  · exact pump_st ..

theorem trained_ends (k : Link) (lanes peer pinc now : Nat) (dead : Bool) :
    (k.trained lanes peer pinc now dead).ends = (lanes, peer, pinc) := by
  have hup : (k.goUp lanes peer pinc now).ends = (lanes, peer, pinc) := pump_ends ..
  unfold Link.trained
  split
  · unfold Link.fence Link.leaveUp
    split <;> exact hup
  · exact hup

/-- Where three lanes have trained, each two of them are lanes that a port may run on; so are one, two or all four. -/
theorem lanes_three : ∀ m < 16, m ≠ 0 → lanesOk m = false → ∀ k < 3,
    let u := (((List.range 4).filter fun i => bitAt m i).map fun i => m - 2 ^ i).getD k 0
    lanesOk u = true ∧ u &&& m = u := by decide

theorem choose_lt (s : State) (n : Nat) : (s.choose n).1 < n + 1 := by
  unfold State.choose
  split
  next h => rw [h]; exact Nat.one_pos
  next => exact Nat.mod_lt _ (Nat.succ_pos n)

theorem lanesUsed_fst (s : State) {m : Nat} (hm : m < 16) (h0 : m ≠ 0) :
    lanesOk (s.lanesUsed m).1 = true ∧ (s.lanesUsed m).1 &&& m = (s.lanesUsed m).1 ∧ (lanesOk m = true → (s.lanesUsed m).1 = m) := by
  unfold State.lanesUsed
  split
  next hok => exact ⟨hok, Nat.and_self m, fun _ => rfl⟩
  next hok =>
    obtain ⟨h1, h2⟩ := lanes_three m hm h0 (Bool.eq_false_iff.mpr hok) _ (choose_lt s 2)
    exact ⟨h1, h2, fun h => absurd h hok⟩

theorem lanesUsed_snd (s : State) (m : Nat) : ∃ n, (s.lanesUsed m).2 = { s with choices := n } := by
  unfold State.lanesUsed State.choose
  split
  · exact ⟨s.choices, rfl⟩
  · exact ⟨_, rfl⟩

@[simp] theorem learnInc_links (s : State) (peer pinc : Nat) : (s.learnInc peer pinc).links = s.links := by
  unfold State.learnInc
  dsimp only
  split
  · rfl
  · split <;> rfl

theorem updLink_getElem? (s : State) {p : Nat} {k : Link} (hk : s.links[p]? = some k) (f : Link → Link) :
    (s.updLink p f).links[p]? = some (f k) := by
  simp [State.updLink, updAt_getElem?, hk]

theorem updAt_congr {α : Type} {xs : List α} {i : Nat} {a : α} (ha : xs[i]? = some a) {f g : α → α} (h : f a = g a) :
    updAt xs i f = updAt xs i g := by
  refine List.ext_getElem? fun j => ?_
  rw [updAt_getElem?, updAt_getElem?]
  split
  next hj => rw [hj, ha, Option.map_some, Option.map_some, h]
  next => rfl

section
variable {p : Nat} {s : State} {k : Link} (hk : s.links[p]? = some k)
include hk

/-- An event that changes one link, by what it makes of it. -/
theorem linkStep_of {i : Instr} {f g : Link → Link} (hexec : exec i s = .next (s.updLink p g)) (h : g k = f k) : LinkStep i p s f := by
  rw [LinkStep, hexec, State.updLink, updAt_congr hk h]

/-- The port's link after training on some of the lanes that have trained. -/
theorem portTrained_link {lanes peer pinc m far : Nat} (hm : lanes % 16 &&& k.lmask &&& (15 - k.lost % 16) = m) (hst : k.st = .training)
    (h0 : m ≠ 0) (hfar : (if p < 36 then peer % 4096 else k.peer) = far) :
    ∃ t, exec (.portTrained p lanes peer pinc) s = .next t ∧ t.links[p]? =
      some (k.trained (s.lanesUsed m).1 far (pinc % 256) s.hubCycle (s.agentDead (farAgent p far))) := by
  obtain ⟨n, hsnd⟩ := lanesUsed_snd s m
  have hgo : (decide (k.st ≠ .training) || m == 0) = false := by simp [hst, h0]
  have hdead : ∀ f, (({ s with choices := n } : State).updLink p f).agentDead (farAgent p far) = s.agentDead (farAgent p far) := fun _ => rfl
  simp only [exec_portTrained, execPortTrained, hk, hm, hgo, hfar, hsnd, hdead, Bool.false_eq_true, if_false]
  refine ⟨_, rfl, ?_⟩
  rw [apply_ite State.links, learnInc_links, ite_self]
  have hup := updLink_getElem? ({ s with choices := n } : State) hk fun k => k.goUp (s.lanesUsed m).1 far (pinc % 256) s.hubCycle
  unfold Link.trained
  split
  · exact updLink_getElem? _ hup _
  · exact hup

theorem portTrained_trains {lanes peer pinc m : Nat} (hm : m = lanes % 16 &&& k.lmask &&& (15 - k.lost % 16)) (hst : k.st = .training)
    (h0 : m ≠ 0) :
    ∃ t k', exec (.portTrained p lanes peer pinc) s = .next t ∧ t.links[p]? = some k' ∧
      k'.st = (if s.agentDead (farAgent p (if p < 36 then peer % 4096 else k.peer)) then .fenced else .up) ∧
      lanesOk k'.lanes = true ∧ k'.lanes &&& m = k'.lanes ∧ (lanesOk m = true → k'.lanes = m) ∧
      k'.pinc = pinc % 256 ∧ (p < 36 → k'.peer = peer % 4096) := by
  have hlt : m < 16 := by
    rw [hm]
    exact Nat.lt_of_le_of_lt (Nat.le_trans Nat.and_le_left Nat.and_le_left) (Nat.mod_lt _ (by decide))
  obtain ⟨t, hexec, hlink⟩ := portTrained_link hk hm.symm hst h0 rfl
  refine ⟨t, _, hexec, hlink, trained_st .., ?_⟩
  have hends := trained_ends k (s.lanesUsed m).1 (if p < 36 then peer % 4096 else k.peer) (pinc % 256) s.hubCycle
    (s.agentDead (farAgent p (if p < 36 then peer % 4096 else k.peer)))
  simp only [Link.ends, Prod.mk.injEq] at hends
  obtain ⟨hlanes, hpeer, hpinc⟩ := hends
  obtain ⟨hok, hsub, hall⟩ := lanesUsed_fst s hlt h0
  rw [hlanes]
  exact ⟨hok, hsub, hall, hpinc, fun hp => by rw [hpeer, if_pos hp]⟩

theorem portDisable_disables {v : Nat} (hw : s.awake = true) (hp : p < 36) :
    ∃ t k', exec (.portDisable p v) s = .next t ∧ t.links[p]? = some k' ∧ k'.en = false ∧ k'.st = .down ∧ t.mem = s.mem := by
  have hgo : (!s.awake || decide (p ≥ 36)) = false := by simp [hw, hp]
  simp only [exec_portDisable, execPortDisable, hgo, Bool.false_eq_true, if_false]
  exact ⟨_, _, rfl, updLink_getElem? s hk _, rfl, rfl, rfl⟩

theorem portErrors_trains {lost : Nat} (hst : k.st = .up)
    (h : 16 ≤ (k.badTimes.filter fun t => decide (s.hubCycle ≤ t + 1000)).length ∨ lost % 16 &&& k.lanes ≠ 0) :
    ∃ t k', exec (.portErrors p lost) s = .next t ∧ t.links[p]? = some k' ∧ k'.st = .training ∧
      k'.lost = k.lost ||| (lost % 16 &&& k.lanes) ∧ k'.outSince = some s.hubCycle := by
  have hgo : (k.st = .up && (k.manyBad s.hubCycle || (lost % 16 &&& k.lanes) != 0)) = true := by
    rcases h with h | h
    · simp [hst, Link.manyBad, h]
    · simp [hst, h]
  refine ⟨_, _, rfl, updLink_getElem? s hk _, ?_⟩
  simp only [hgo, if_true]
  simp [Link.train, Link.enter, Link.leaveUp, hst]

theorem portEnable_enables {v : Nat} (hw : s.awake = true) (hp : p < 36) :
    (k.st = .down ∨ k.st = .fenced → LinkStep (.portEnable p v) p s fun k =>
      ({ k with slp := bitAt v 30, lmask := bitsOf v 8 4, ord := bitsOf v 4 4, en := true } : Link).start s.hubidSet s.hubCycle) ∧
    (k.st ≠ .down → k.st ≠ .fenced → LinkStep (.portEnable p v) p s id) := by
  have hgo : (!s.awake || decide (p ≥ 36)) = false := by simp [hw, hp]
  have hexec : exec (.portEnable p v) s = .next (s.updLink p fun k =>
      if k.st = .down ∨ k.st = .fenced then ({ k.setCtl v with en := true } : Link).start s.hubidSet s.hubCycle else k) := by
    simp only [exec_portEnable, execPortEnable, hgo, Bool.false_eq_true, if_false]
  exact ⟨fun h => linkStep_of hk hexec (if_pos h), fun h1 h2 => linkStep_of hk hexec (if_neg (not_or.mpr ⟨h1, h2⟩))⟩

theorem trainingTimeout_attempts (hst : k.st = .training) (hdue : k.since + 10000 ≤ s.hubCycle) :
    (k.attempts < 2 → LinkStep (.trainingTimeout p) p s fun k => { k with attempts := k.attempts + 1, since := s.hubCycle }) ∧
    (2 ≤ k.attempts → LinkStep (.trainingTimeout p) p s fun k => { k.enter .down s.hubCycle with en := false }) := by
  have hgo : ¬(k.st ≠ .training ∨ s.hubCycle < k.since + 10000) := by simp [hst, hdue]
  refine ⟨fun h => linkStep_of hk rfl ?_, fun h => linkStep_of hk rfl ?_⟩
  · simp only [if_neg hgo, if_pos h]
  · simp only [if_neg hgo, if_neg (Nat.not_lt.mpr h)]

theorem retransmit_resends {q : Nat} (hst : k.st = .up) (h : ∃ t ∈ k.tx, t.seq = q ∧ t.sentAt + 2000 ≤ s.hubCycle) :
    LinkStep (.retransmitTimeout p q) p s fun k => k.resend q s.hubCycle := by
  have hany : (k.tx.any fun t => t.seq == q && decide (t.sentAt + 2000 ≤ s.hubCycle)) = true := by simpa using h
  exact linkStep_of hk rfl (if_pos (by simp [hst, hany]))

end

/-- Settles O49: each event by what it makes of the port's link under its guards. -/
theorem portEvents : Obligations.PortEvents := by
  intro p s k hk
  refine ⟨fun v hw hp => (portEnable_enables hk hw hp).1, fun v hw hp => (portEnable_enables hk hw hp).2,
    fun v => portDisable_disables hk, fun lanes peer pinc m => portTrained_trains hk, trainingTimeout_attempts hk,
    fun hst hslp hdue => linkStep_of hk rfl (if_pos (by simp [hst, hslp, hdue])), fun lost => portErrors_trains hk,
    fun hst => linkStep_of hk rfl (if_pos hst), fun hst hdue => linkStep_of hk rfl (if_pos (by simp [hst, hdue])),
    fun hst hdue => linkStep_of hk rfl (if_pos (by simp [hst, hdue])), fun v hst => linkStep_of hk rfl (if_pos hst),
    fun v hst => linkStep_of hk rfl (if_neg hst), fun q => retransmit_resends hk⟩

end Sys2Proof.Machine

/-! The family of R377 to R383: suspicion, heartbeats, and the fence, the strike and the unfencing of agents. -/

namespace Sys2Proof.Machine
open Sys2Proof

section
variable (s : State) (a v d p inc sig : Nat) (fw : Bool)
@[simp] theorem exec_spokeSuspect : exec (.spokeSuspect d) s = execSpokeSuspect d s := rfl
@[simp] theorem exec_hubid : exec (.hubid v) s = execHubid v s := rfl
@[simp] theorem exec_heartbeatSend : exec .heartbeatSend s = execHeartbeatSend s := rfl
@[simp] theorem exec_heartbeat : exec (.heartbeat a) s = execHeartbeat a s := rfl
@[simp] theorem exec_declare : exec (.declare a) s = execDeclare a s := rfl
@[simp] theorem exec_fenceCommand : exec (.fenceCommand a) s = execFenceCommand a s := rfl
@[simp] theorem exec_agentFenced : exec (.agentFenced a) s = execAgentFenced a s := rfl
@[simp] theorem exec_unfenceVote : exec (.unfenceVote a p inc sig) s = execUnfenceVote a p inc sig s := rfl
@[simp] theorem exec_unfence : exec (.unfence v fw) s = execUnfence v fw s := rfl
end

theorem agent_setAgent (s : State) (a : Nat) (r : Agent) (b : Nat) : (s.setAgent a r).agent b = if b = a then r else s.agent b := by
  unfold State.agent State.setAgent
  rw [find?_putKey]
  by_cases h : b = a
  · rw [if_pos h, if_pos h]
  · rw [if_neg h, if_neg h]

@[simp] theorem agent_setAgent_same (s : State) (a : Nat) (r : Agent) : (s.setAgent a r).agent a = r := by
  rw [agent_setAgent, if_pos rfl]

/-! ### Suspicion, the hub's number and heartbeats (R376 to R379) -/

theorem spokeSuspect_suspects {d t : Nat} {s : State} {k : Link} (hd : d < 8) (hk : s.links[36 + d]? = some k) (hout : k.outSince = some t)
    (hst : k.st ≠ .up) (hdue : t + 40000 < s.hubCycle) :
    LinkStep (.spokeSuspect d) (36 + d) s fun k => { k with suspect := true } := by
  have hexec : exec (.spokeSuspect d) s = .next (s.updLink (36 + d) fun k => match k.outSince with
      | some t => if k.st ≠ .up ∧ t + 40000 < s.hubCycle then { k with suspect := true } else k
      | none => k) := (exec_spokeSuspect s d).trans ((if_neg (Nat.not_le.mpr hd)).trans rfl)
  refine linkStep_of hk hexec ?_
  simp only [hout, if_pos (And.intro hst hdue)]

theorem hubid_sets {v : Nat} {s : State} (hw : s.awake = true) (hset : s.hubidSet = false) :
    ∃ t, exec (.hubid v) s = .next t ∧ t.hubid = v % 4096 ∧ t.hubidSet = true ∧ t.mem = s.mem := by
  simp only [exec_hubid, execHubid, hw, hset, Bool.not_true, Bool.or_self, Bool.false_eq_true, if_false]
  exact ⟨_, rfl, rfl, rfl, rfl⟩

theorem heartbeat_lives {a : Nat} {s : State} (hknown : s.agentKnown a = true)
    (hst : (s.agent a).state = .absent ∨ (s.agent a).state = .live) :
    exec (.heartbeat a) s = .next (s.setAgent a { s.agent a with state := .live, lastBeat := s.hubCycle }) := by
  have hgo : (!s.agentKnown a || ((s.agent a).state != .absent && (s.agent a).state != .live)) = false := by
    rcases hst with h | h <;> simp [hknown, h]
  simp only [exec_heartbeat, execHeartbeat, hgo, Bool.false_eq_true, if_false]

/-! ### Fence and strike (R379 to R381) -/

theorem strike_forgets {d : DirEntry} {a : Nat} {keep : Bool} :
    a ∉ (d.strike a keep).peers ∧ (d.strike a keep).owner ≠ some a ∧ (a = hostAgent → (d.strike a keep).host = false) := by
  refine ⟨?_, ?_, fun h => ?_⟩
  · simp [DirEntry.strike]
  · simp [DirEntry.strike, Option.filter_eq_some_iff]
  · simp [DirEntry.strike, h]

theorem strike_dir {s : State} {a : Nat} {d : DirEntry} (h : d ∈ (s.strike a).dir) :
    a ∉ d.peers ∧ d.owner ≠ some a ∧ (a = hostAgent → d.host = false) := by
  obtain ⟨d', -, rfl⟩ := List.mem_map.mp (List.mem_filter.mp h).1
  exact strike_forgets

theorem strike_poison {s : State} {a : Nat} {d : DirEntry} (hd : d ∈ s.dir) (how : d.owner = some a) : d.line ∈ (s.strike a).poison := by
  have howned : d.line ∈ (s.dir.filter fun d => d.owner == some a).map (·.line) :=
    List.mem_map_of_mem (List.mem_filter.mpr ⟨hd, by simp [how]⟩)
  simp only [State.strike, List.mem_eraseDups, List.mem_append]
  exact .inl (.inr howned)

theorem agentFenced_strikes {a : Nat} {s : State} (hst : (s.agent a).state = .fencing) :
    ∃ t, exec (.agentFenced a) s = .next t ∧ (t.agent a).state = .striking ∧
      t.mem = s.mem ∧ (∀ d ∈ t.dir, a ∉ d.peers ∧ d.owner ≠ some a ∧ (a = hostAgent → d.host = false)) ∧
      (∀ d ∈ s.dir, d.owner = some a → d.line ∈ t.poison) := by
  have hstays : ¬(s.agent a).state ≠ .fencing := fun h => h hst
  simp only [exec_agentFenced, execAgentFenced, if_neg hstays]
  refine ⟨_, rfl, ?_, rfl, fun d hd => strike_dir hd, fun d hd how => ?_⟩
  · rw [agent_setAgent_same]
  · exact strike_poison (s := s.updLinksTo a _) hd how

/-! ### Unfencing (R382) -/

theorem unfenceVote_counts {a p sig : Nat} {s : State} (hst : (s.agent a).state = .fenced) (hp : p ∉ (s.agent a).votes) :
    ∃ t, exec (.unfenceVote a p (s.agent a).inc sig) s = .next t ∧ (t.agent a).state = .fenced ∧
      (t.agent a).votes = (if p < Config.quorum ∧
        Config.voteVerifies (Config.quorumKey p) (digest (voteBytes a (s.agent a).inc)) sig = true
        then (s.agent a).votes ++ [p] else (s.agent a).votes) := by
  have hnew : (!(s.agent a).votes.contains p) = true := by simpa using hp
  simp only [exec_unfenceVote, execUnfenceVote, hst, hnew, true_and]
  split
  · refine ⟨_, rfl, ?_, ?_⟩
    · rw [agent_setAgent_same]
    · rw [agent_setAgent_same]
  · exact ⟨s, rfl, hst, rfl⟩

theorem unfence_by_quorum {a v : Nat} {s : State} (hw : s.awake = true) (hv : unfenceName v = some a) (hst : (s.agent a).state = .fenced) :
    ∃ t, exec (.unfence v false) s = .next t ∧ if Config.quorum / 2 + 1 ≤ (s.agent a).votes.length
      then (t.agent a).state = .live ∧ (t.agent a).inc = ((s.agent a).inc + 1) % 256 ∧ (t.agent a).lastBeat = s.hubCycle
      else t = s := by
  have hfenced : ((s.agent a).state != .fenced) = false := by simp [hst]
  simp only [exec_unfence, execUnfence, hv, hw, hfenced, Bool.not_true, Bool.or_self, Bool.false_or, Bool.false_eq_true, if_false,
    decide_eq_true_eq]
  by_cases hq : (s.agent a).votes.length < Config.quorum / 2 + 1
  · rw [if_pos hq]
    exact ⟨s, rfl, by rw [if_neg (Nat.not_le.mpr hq)]⟩
  · rw [if_neg hq]
    refine ⟨_, rfl, ?_⟩
    rw [if_pos (Nat.not_lt.mp hq), agent_setAgent_same]
    exact ⟨rfl, rfl, rfl⟩

/-- Settles O51: each step of an agent under its guards; a row of the table of agents is what was last put there. -/
theorem failureEvents : Obligations.FailureEvents := by
  refine ⟨fun d t s k => spokeSuspect_suspects, fun v s => hubid_sets, fun v s hset => ?_, fun s hstop hdue => ?_, fun a s hknown hst => ?_,
    fun a s hst hdue => ?_, fun a s hw hknown hst => ?_, fun a s => agentFenced_strikes, fun a s hst => ?_, fun a p sig s => unfenceVote_counts,
    fun a v s hw hv hst => ⟨unfence_by_quorum hw hv hst, rfl⟩⟩
  · simp only [exec_hubid, execHubid, hset, Bool.or_true, if_true]
  · have hgo : (s.beatStop || decide (s.hubCycle < s.beatSent + 100000)) = false := by simp [hstop, Nat.not_lt.mpr hdue]
    simp only [exec_heartbeatSend, execHeartbeatSend, hgo, Bool.false_eq_true, if_false]
  · refine ⟨_, heartbeat_lives hknown hst, ?_, ?_, fun b hb => ?_, rfl⟩
    · rw [agent_setAgent_same]
    · rw [agent_setAgent_same]
    · rw [agent_setAgent, if_neg hb]
  · rw [exec_declare, execDeclare, if_pos ⟨hst, hdue⟩]
  · simp [execFenceCommand, hw, hknown, hst]
  · refine ⟨_, rfl, ?_⟩
    rw [if_pos hst, agent_setAgent_same]
    exact ⟨rfl, rfl, rfl⟩

end Sys2Proof.Machine

/-! The family of R310 to R323 and R366: the split of a launch, its take regions, its packets, its end and its deadlines. -/

namespace Sys2Proof.Machine
open Sys2Proof

section
variable (s : State) (tag die : Nat)
@[simp] theorem exec_launchSplit : exec (.launchSplit tag) s = execLaunchSplit tag s := rfl
@[simp] theorem exec_takeOpened : exec (.takeOpened tag) s = execTakeOpened tag s := rfl
@[simp] theorem exec_mailboxPost : exec (.mailboxPost die) s = execMailboxPost die s := rfl
@[simp] theorem exec_launchComplete : exec (.launchComplete tag) s = execLaunchComplete tag s := rfl
@[simp] theorem exec_launchDeadline : exec (.launchDeadline tag) s = execLaunchDeadline tag s := rfl
@[simp] theorem exec_directorWatchdog : exec (.directorWatchdog die) s = execDirectorWatchdog die s := rfl
end

/-! ### The split and the take regions (R310 to R312, R366) -/

section
variable {tag : Nat} {s : State} {l : Launch} {c : Context} (hl : s.launch? tag = some l) (hc : s.ctxs[l.ctx]? = some c)
  (hrun : c.state = .running ∨ c.state = .draining) (hst : l.state = .splitting) (hcrews : l.sheet.crews = 0)
include hl hc hrun hst hcrews

theorem launchSplit_refuses {s1 : State} {o : Nat} (h : s.checkSheet (sheetReader tag) l.ctx l.sheetAddr = (s1, .bad o)) :
    exec (.launchSplit tag) s = .next ((s1.endBring hubDie (sheetReader tag)).refuseSheet l o) := by
  have hgo : (decide (l.state ≠ .splitting) || !s.ctxStarts l.ctx) = false := by
    rcases hrun with hr | hr <;> simp [State.ctxStarts, hst, hc, hr]
  have hunread : ¬l.sheet.crews ≠ 0 := fun hne => hne hcrews
  simp only [exec_launchSplit, execLaunchSplit, hl, hgo, if_neg hunread, h, Bool.false_eq_true, if_false]

theorem launchSplit_splits {s1 : State} {sheet : Sheet} {casts : List CastHub} {regions : List (Nat × Nat)}
    (h : s.checkSheet (sheetReader tag) l.ctx l.sheetAddr = (s1, .good sheet casts regions)) :
    exec (.launchSplit tag) s = .next (((s1.endBring hubDie (sheetReader tag)).updLaunch tag fun l =>
      { l with sheet, casts, regions }).openTakes tag) := by
  have hgo : (decide (l.state ≠ .splitting) || !s.ctxStarts l.ctx) = false := by
    rcases hrun with hr | hr <;> simp [State.ctxStarts, hst, hc, hr]
  have hunread : ¬l.sheet.crews ≠ 0 := fun hne => hne hcrews
  simp only [exec_launchSplit, execLaunchSplit, hl, hgo, if_neg hunread, h, Bool.false_eq_true, if_false]

end

/-- A frame copied into its shadow is a transfer. -/
theorem copyFrame_upland (s : State) (p : Leaf × Nat) : (s.copyFrame p).upland = s.upland :=
  (homeWrite_upland ..).trans (setDirty_upland ..)

theorem copyTake_upland (s : State) (t : Take) : ((s.shadowPages t.ctx t.lo t.size).foldl State.copyFrame s).upland = s.upland :=
  foldl_keeps_part State.upland copyFrame_upland _ s

theorem takeOpened_opens {tag : Nat} {s : State} {l : Launch} (hl : s.launch? tag = some l) (hstarts : s.ctxStarts l.ctx = true)
    (ht : ∃ t ∈ s.takes, t.launch = tag ∧ t.isOpen = false) :
    ∃ s1 : State, s1.takes = mapWhere (fun t => t.launch == tag && !t.isOpen) (fun t => { t with isOpen := true }) s.takes ∧
      s1.blocks = s.blocks ∧ exec (.takeOpened tag) s = .next (match s1.launch? tag with
        | some l => if s1.takesOpen l then s1.startLaunch tag else s1
        | none => s1) := by
  have hany : (s.takes.any fun t => t.launch == tag && !t.isOpen) = true := by simpa using ht
  have hcopies : ((s.takes.filter fun t => t.launch == tag && !t.isOpen).foldl (fun (s : State) t =>
      (s.shadowPages t.ctx t.lo t.size).foldl State.copyFrame s) s).upland = s.upland :=
    foldl_keeps_part State.upland copyTake_upland _ s
  have htakes := upland_takes hcopies
  have hblocks := upland_blocks hcopies
  have hgo : (!(s.takes.any fun t => t.launch == tag && !t.isOpen) || !(s.ctxStarts l.ctx)) = false := by simp [hany, hstarts]
  simp only [exec_takeOpened, execTakeOpened, hl, hgo, Bool.false_eq_true, if_false]
  refine ⟨_, ?_, ?_, rfl⟩
  · exact congrArg (mapWhere _ _) htakes
  · exact hblocks

/-! ### Packets, ends and deadlines (R301, R312, R313, R318) -/

theorem mailboxPost_posts {die : Nat} {s : State} {p : Nat × List Byte} (hp : s.nextHeld = some p) (hdie : p.1 = die)
    (hup : s.downSpokes.contains die = false) : exec (.mailboxPost die) s = .next { s with
      held := s.held.erase p, dies := updAt s.dies die fun d => { d with mailbox := d.mailbox ++ [p.2] } } := by
  have hmine : ¬p.1 ≠ die := fun hne => hne hdie
  simp only [exec_mailboxPost, execMailboxPost, hp, if_neg hmine, hup, Bool.false_eq_true, if_false]

section
variable {tag : Nat} {s : State} {l : Launch} (hl : s.launch? tag = some l) (hst : l.state = .running)
include hl hst

theorem launchComplete_ends (hret : l.sheet.nblk ≤ l.retired.length) (hrec : l.sheet.nblk ≤ l.recorded.length) :
    exec (.launchComplete tag) s =
      .next (((s.commitTakes l).updLaunch tag fun l => { l with state := .done }).signalLaunch l).checkQueues := by
  have hdone : l.complete = true := by simp [Launch.complete, hst, hret, hrec]
  simp only [exec_launchComplete, execLaunchComplete, hl, hdone, Bool.not_true, Bool.false_eq_true, if_false]

theorem launchDeadline_cancels (hd : l.sheet.deadline ≠ 0) (hdue : l.picked + l.sheet.deadline ≤ s.hubCycle) (hopen : l.complete = false) :
    exec (.launchDeadline tag) s = .next (((s.killLaunch tag).endLaunch tag .cancelled).signalLaunch l).checkQueues := by
  have hpassed : s.deadlinePassed l = true := by simp [State.deadlinePassed, hst, hd, hdue]
  simp only [exec_launchDeadline, execLaunchDeadline, hl, hpassed, hopen, Bool.not_true, Bool.or_self, Bool.false_eq_true, if_false]

end

theorem directorWatchdog_abandons {die t : Nat} {s : State} {k : DieSt} {b : Block} (hk : s.dies[die]? = some k)
    (hb : s.blocks.find? (fun b => b.isDirector && b.die == die) = some b) (ht : k.called = some t) (hdue : t + 1000000 ≤ s.hubCycle) :
    exec (.directorWatchdog die) s = .next ((s.logEvent b.ctx
      { cls := 0x0D, detail := 1, core := b.core, attempt := b.attempt, tag := b.launch }).idleDirector die) := by
  have hlate : ¬s.hubCycle < t + directorLimit := Nat.not_lt.mpr hdue
  simp only [exec_directorWatchdog, execDirectorWatchdog, hk, hb, ht, if_neg hlate]

/-- Settles O35: each step of a launch under its guards; what it opens are its regions, and copying them is a transfer of lines. -/
theorem launchEvents : Obligations.LaunchEvents :=
  ⟨fun _ _ _ _ hl hc hrun hst hcrews => ⟨fun _ _ => launchSplit_refuses hl hc hrun hst hcrews,
    fun _ _ _ _ => launchSplit_splits hl hc hrun hst hcrews⟩, fun _ _ _ => takeOpened_opens, fun _ _ _ => mailboxPost_posts,
    fun _ _ _ => launchComplete_ends, fun _ _ _ => launchDeadline_cancels, fun _ _ _ _ _ => directorWatchdog_abandons⟩

end Sys2Proof.Machine

/-! The family of R305 to R308. `Quiet` bounds the core number of every unpublished notice and not its home: a notice of a peer's core
(R221) may bear the number of the waiting core, and where it lies on the event word the wait raises MME, and does not go on or wait as
`Obligations.QueueInstructions` states. -/

namespace Sys2Proof.Machine
open Sys2Proof

/-- The issue of a `waitev` from `foreignNotice`, for an event word at address 0. -/
def foreignWait : Option Ctx := foreignNotice.issueCtx 0xEA (fieldsLength plainCall) plainCall

/-- The element of that event word. -/
def eventWord : Elem := ⟨0, 4, 0, identityPage.leaf⟩

theorem foreignWait_isSome : foreignWait.isSome = true := by decide +kernel

theorem foreignWait_unstopped : ∀ x ∈ foreignWait, x.unstopped (illLong 0xEA none plainCall) readsAB = true := by decide +kernel

theorem foreignWait_reads : ∀ x ∈ foreignWait, ∀ l ∈ x.act, x.plan .read (globalElems [x.a l 64] 4) = .ready [eventWord] := by decide +kernel

theorem foreignWait_home : ∀ x ∈ foreignWait, placeOf x.s0.hubid eventWord.pa eventWord.leaf.type = .home 0 := by decide +kernel

/-- Nothing is amiss but for the notice, whose core number is the waiting lane's. -/
theorem foreignWait_quiet : ∀ x ∈ foreignWait, Quiet x.s0 x.b.core := by
  have hstate : ∀ x ∈ foreignWait, x.s0.poison = [] ∧ x.s0.l1 = [] ∧ (∀ i ∈ x.s0.intents, i.core = x.b.core) ∧ x.s0.copies = [] ∧
      x.s0.agents = [] ∧ x.s0.recs = [] ∧ x.s0.dir = [] ∧ x.s0.downSpokes = [] := by decide +kernel
  intro x hx
  obtain ⟨hp, hl, hi, hc, ha, hr, hd, hs⟩ := hstate x hx
  refine ⟨hp, by simp [hl], hi, by simp [hc], fun a => ?_, by simp [hr], by simp [hd], hs⟩
  simp [State.agentDead, State.agent, ha, Agent.reset]

/-- MME: the word is in the line of which the peer's core has unpublished bytes. -/
theorem foreignWait_faults : ∀ x ∈ foreignWait, ∃ p ∈ (x.lanesRun fun x s l => waitLane x s l [eventWord]).2,
    p.2 = .fault (mmeF 0 ⟨0, 0, some 1, 0, 0, BitVec.allOnes 128⟩) := by decide +kernel

/-- Refutes O32: from `foreignNotice` a `waitev` meets a peer's notice, and its lane faults. -/
theorem not_queueInstructions : ¬ Obligations.QueueInstructions := by
  unfold Obligations.QueueInstructions
  rintro ⟨-, -, hwaitev, -⟩
  obtain ⟨x, hx⟩ := Option.isSome_iff_exists.mp foreignWait_isSome
  have hplan : ∀ l ∈ x.act, x.plan .read (globalElems [x.a l 64] 4) = .ready [eventWord] ∧
      ∀ e ∈ [eventWord], ∃ key, placeOf x.s0.hubid e.pa e.leaf.type = .home key := fun l hl =>
    ⟨foreignWait_reads x hx l hl, fun e he => ⟨0, List.mem_singleton.mp he ▸ foreignWait_home x hx⟩⟩
  obtain ⟨p, hp, hfault⟩ := foreignWait_faults x hx
  have hgoes : GoesOn p.2 :=
    (hwaitev plainCall foreignNotice x _ ⟨hx, foreignWait_unstopped x hx⟩ (foreignWait_quiet x hx) hplan).1 p hp
  rw [hfault] at hgoes
  rcases hgoes with h | ⟨_, h⟩ | h | ⟨_, h⟩ <;> cases h

end Sys2Proof.Machine
